-- ==== Sys2Proof/Word.lean ====
section
/-! DEFINITION. The word types of the T9 (R5, R142): 64-bit general registers, bytes, and the
2,048-bit vector registers of 64 lanes (R12). -/

namespace Sys2Proof

/-- A general or special register, an address or a CSR value: 64 bits (R5). -/
abbrev Word := BitVec 64

/-- One byte of memory. -/
abbrev Byte := BitVec 8

/-- One vector register: 64 lanes of 32 bits, lane i in bits [32i + 31 : 32i] (Table 1.2, R370). -/
abbrev Vec := BitVec 2048

end Sys2Proof
end

