-- ==== Sys2Proof/Config.lean ====
section
/-! DEFINITION. What an implementation of the T9 fixes, and the values the spec leaves open. Each `opaque`
constant is a FREE VALUE: it has no body here and nothing can be proved about what it is. -/

namespace Sys2Proof.Config

/-- Free value: what byte number `i` of unit `u` reads as under another key than the one that wrote it ("noise",
R88): the reader's key is material `m`, or the unknown key of ID `k` - 1 while none is loaded, the writer's likewise `m'` or `k'` - 1,
and `d` is what the writer stored in the unit. (DESIGN CHOICE, log 44) -/
opaque noise (k m k' m' u : Nat) (d : List Byte) (i : Nat) : Byte

/-- Free value: bytes of CXL memory that the device on a die's port reports (R77). (DESIGN CHOICE, log 45) -/
opaque cxlBytes (die : Nat) : Nat

/-- Free value: the granule of the midfield window at which the part maps a new region (R212 names the window only).
(DESIGN CHOICE, log 74) -/
opaque midfieldVa (n : Nat) : Nat

/-- Free value: packets that the network engine resent for a request, and the bytes a failed or truncated request had
placed (Tables 10.10 and 10.12). -/
opaque uePackets (n : Nat) : Nat
opaque uePlaced (n : Nat) : Nat

/-- Free value: whether the fetch of a firmware image, its SHA-256 digest, SLH-DSA signature and security
version check pass on a die, for the images that the flash held at power-up (R244). 0 pass, 1 fail, 2 flash unreadable. (DESIGN
CHOICE, log 109) -/
opaque bootResult (n die : Nat) (flash : List (Nat × Nat)) : Nat

/-- Free value: the digest of boot stage `i` of a die at boot `n`, of the images that the flash held (R245). -/
opaque stageDigest (n die i : Nat) (flash : List (Nat × Nat)) : Nat

/-- Free value: what a package's attestation report names: the security version of each of its dies, its enclosure identifier and its
serial number (R199, R246); and the signature of a report, with its length in bytes. (DEDUCED, log 110) -/
opaque securityVersion (die : Nat) : Nat
opaque enclosure (pkg : Nat) : Nat
opaque serialNumber (pkg : Nat) : Nat
opaque signatureLen (pkg : Nat) : Nat
opaque signatureByte (pkg : Nat) (report : List Nat) (i : Nat) : Nat

/-- Free value: operand `i` of host command `op`, as bytes 16 to 63 of the command give it (R236 gives no operand
layout). (DESIGN CHOICE, log 97) -/
opaque operand (op i : Nat) (bytes : List Nat) : Nat

/-- Free value: the numbers of the response statuses (R236, R239): 0 success, 1 BADSEQ, 2 BADOP; and of a launch's
state (RSTAT): 3 absent, 4 running, 5 complete; 6 a launch whose block or lists the home answers with an abort. -/
opaque hostCode (name : Nat) : Nat

/-- Free value: the HBM page of a failed row, and the lane of a failed port, that targeted self-test `n` of a unit
finds (Table 11.12). (DESIGN CHOICE, log 119) -/
opaque failedPage (n unit : Nat) : Nat
opaque failedLane (n unit : Nat) : Nat

/-- Free value: the other 64 KiB pages that hold part of the row that a page lies in (R93). (DESIGN CHOICE, log 119) -/
opaque rowMates (page : Nat) : List Nat

/-- Free value: whether an L2 line of a failed slice still reads back (Table 11.12). -/
opaque lineReadsBack (n line : Nat) : Bool

/-- Free value: byte `i` of the bench image that BENCHO number `n` writes (R225 gives no layout). (DESIGN CHOICE, log 100) -/
opaque benchByte (n i : Nat) : Byte

/-- Free value: whether the two ends of a link lie in one enclosure, and the virtual channels that its bring-up leaves without
encryption there (R199). (DESIGN CHOICE, log 145) -/
opaque sameEnclosure (pkg port : Nat) : Bool
opaque plainChannels (pkg port : Nat) : Nat

/-- Free value: the CRC-32 of a link-state record (R203 gives no polynomial). (DESIGN CHOICE, log 145) -/
opaque recordCrc (seq speed lanes : Nat) : Nat

/-- Free value: which line number a full cache of `len` lines evicts (R79 to R82 give no policy). (DESIGN CHOICE, log 43) -/
opaque evict (n len : Nat) : Nat

/-- Free value: which of the words that a running transfer has still to move it moves next (R100 gives no order). (DEDUCED, log 52) -/
opaque pickWord (n len : Nat) : Nat

/-- Free value: the entries of a target's dedup table beyond the first (R204 gives no number, and has every writing request take one).
(DESIGN CHOICE, log 50) -/
opaque dedupMore (die : Nat) : Nat
def dedupEntries (die : Nat) : Nat := dedupMore die + 1

/-- Free value: whether the Ultra Ethernet port of a die is UP in a cycle (Table 10.10; the spec gives the port no states). (DESIGN CHOICE,
log 159) -/
opaque uePortUp (die now : Nat) : Bool

/-- Free value: the predictive-failure threshold of a domain's corrected-error rate (R248). -/
opaque errorThreshold (dom : Nat) : Nat

/-- Free value: a word the spec gives no value: a supervisor vector whose table entry does not answer (Table 12.1), an INT8
sparse position index out of order (R153), EVAL of a failed register check (R231). (DESIGN CHOICE, log 58) -/
opaque freeWord (n : Nat) : Word

/-- Free value: whether the check of a register that a bundle reads fails in detect-only mode (R231). (DESIGN CHOICE, log 25) -/
opaque regCheckFails (n : Nat) : Bool

/-- Free value: whether the two threads of a battery pair disagree on a side effect (R232). (DESIGN CHOICE, log 26) -/
opaque batteryDiffers (n : Nat) : Bool

end Sys2Proof.Config
end

