-- ==== Sys2Proof/Syntax.lean ====
section
/-! DEFINITION. The instructions and the part's other steps: one constructor per row of the spec's
opcode table. The 249 rows with an encoding are the instructions of Tables 18.1 and 18.2; the 89 rows
without one are EVENTS of the part. The constructors stand in the table's order, but for this: the
instructions with operands come first and the events last, because Lean's compiler builds no value of a
constructor with fields beyond the 245th. Register numbers, field values and the
numbers that name an etlet, a slot or a unit are natural numbers; WellFormed.lean holds their ranges. -/

namespace Sys2Proof

/-- An immediate that Table 3.3 (R52) lets a bundle give in two ways: the short field of a pair,
as its unsigned field value, or the 32-bit literal K of a LONE bundle. -/
inductive Imm where
  | short (v : Nat)
  | long (k : Nat)
deriving DecidableEq, Repr

/-- The right operand of CMP: a register (i = 0) or an immediate (i = 1) (R291). -/
inductive CmpRhs where
  | reg (b : Nat)
  | imm (i : Imm)
deriving DecidableEq, Repr

/-- Every row of the opcode table. Parameters of an instruction carry the field names of its row
(d destination, a and b sources, and so on). Parameters of an event name the agent that acts:
`e` an endpoint identifier (Table 1.4), `slot` a barrier slot, `pkg` a package, `die` the number
4 * package + die, `cl` the number 256 * package + 64 * die + cluster, `st` a station's endpoint
identifier, `seq` a sequence number, `n` a position in a list of messages under way. -/
inductive Instr where
  /-- TRAP (R366). Raises TRAPINS with INFO = the code and EVAL = g[a], EPC the next bundle. -/
  | trap (a i : Nat)
  /-- BR (R284). Branches PC-relative by off24 bundles. -/
  | br (o : Nat)
  /-- BRL (R284). Branches PC-relative and writes the return address to g1. -/
  | brl (o : Nat)
  /-- JMPL (R317). Jumps to g[a] and writes the next bundle's address to g[d]. -/
  | jmpl (d a : Nat)
  /-- LSETUP_IMM (R325). Sets up hardware loop lp with an immediate count, skipping the body if the count is 0. -/
  | lsetupImm (p : Nat) (c : Imm) (e : Nat)
  /-- LSETUP_REG (R325). Sets up hardware loop lp with the count from a register, skipping the body if the count is 0. -/
  | lsetupReg (p r e : Nat)
  /-- LD (R320). Loads 1 to 8 bytes, sign- or zero-extended, into g[d]. -/
  | ld (d a w s : Nat) (o : Imm)
  /-- ST (R356). Stores 1 to 8 bytes of g[d] through the store buffer or hold queue. -/
  | st (d a w : Nat) (o : Imm)
  /-- LDA (R322). Acquire load at scope sc, advancing the stamp at package scope or wider. -/
  | lda (d a w s c : Nat) (o : Imm)
  /-- STL (R358). Release store at scope sc after every earlier access has been performed. -/
  | stl (d a w c : Nat) (o : Imm)
  /-- LDF (R323). Waits until the word is FULL and loads it, leaving it FULL. -/
  | ldf (d a s c : Nat) (o : Imm)
  /-- LDFE (R323). Waits until the word is FULL, loads it and makes it EMPTY. -/
  | ldfe (d a s c : Nat) (o : Imm)
  /-- STF (R352). Stores the word and makes it FULL, serving the wait list. -/
  | stf (d a c : Nat) (o : Imm)
  /-- STE (R352). Waits until the word is EMPTY, stores it and makes it FULL. -/
  | ste (d a c : Nat) (o : Imm)
  /-- SETE (R352). Makes the word EMPTY, data unchanged. -/
  | sete (a c : Nat) (o : Imm)
  /-- SETF (R352). Makes the word FULL, data unchanged, serving the wait list. -/
  | setf (a c : Nat) (o : Imm)
  /-- AMO_W_ADD (R277). Atomic 32-bit add at the home, returning the old value. -/
  | amoWAdd (d a b : Nat)
  /-- AMO_W_SWAP (R277). Atomic 32-bit swap at the home. -/
  | amoWSwap (d a b : Nat)
  /-- AMO_W_AND (R277). Atomic 32-bit AND at the home. -/
  | amoWAnd (d a b : Nat)
  /-- AMO_W_OR (R277). Atomic 32-bit OR at the home. -/
  | amoWOr (d a b : Nat)
  /-- AMO_W_SMIN (R277). Atomic 32-bit signed minimum at the home. -/
  | amoWSmin (d a b : Nat)
  /-- AMO_W_SMAX (R277). Atomic 32-bit signed maximum at the home. -/
  | amoWSmax (d a b : Nat)
  /-- AMO_W_UMIN (R277). Atomic 32-bit unsigned minimum at the home. -/
  | amoWUmin (d a b : Nat)
  /-- AMO_W_UMAX (R277). Atomic 32-bit unsigned maximum at the home. -/
  | amoWUmax (d a b : Nat)
  /-- AMO_D_ADD (R277). Atomic 64-bit add at the home, returning the old value. -/
  | amoDAdd (d a b : Nat)
  /-- AMO_D_SWAP (R277). Atomic 64-bit swap at the home. -/
  | amoDSwap (d a b : Nat)
  /-- AMO_D_AND (R277). Atomic 64-bit AND at the home. -/
  | amoDAnd (d a b : Nat)
  /-- AMO_D_OR (R277). Atomic 64-bit OR at the home. -/
  | amoDOr (d a b : Nat)
  /-- AMO_D_SMIN (R277). Atomic 64-bit signed minimum at the home. -/
  | amoDSmin (d a b : Nat)
  /-- AMO_D_SMAX (R277). Atomic 64-bit signed maximum at the home. -/
  | amoDSmax (d a b : Nat)
  /-- AMO_D_UMIN (R277). Atomic 64-bit unsigned minimum at the home. -/
  | amoDUmin (d a b : Nat)
  /-- AMO_D_UMAX (R277). Atomic 64-bit unsigned maximum at the home. -/
  | amoDUmax (d a b : Nat)
  /-- CAS_W (R287). 32-bit compare-and-swap at the home, returning the old value. -/
  | casW (d a b : Nat)
  /-- CAS_D (R287). 64-bit compare-and-swap at the home, returning the old value. -/
  | casD (d a b : Nat)
  /-- FAGG_W (R304). Combining 32-bit fetch-add, grouped at the etlet and performed at the home. -/
  | faggW (d a b : Nat)
  /-- FAGG_D (R304). Combining 64-bit fetch-add, grouped at the etlet and performed at the home. -/
  | faggD (d a b : Nat)
  /-- FENCE (R103). Full fence at scope s, waiting for earlier accesses and advancing the stamp at package scope or wider. -/
  | fence (s : Nat)
  /-- FENCE_SS (R103). Store-to-store fence: later stores leave the buffer only after earlier ones took effect, at scope 4 or wider. -/
  | fenceSs (s : Nat)
  /-- FENCE_LA (R103). Load-to-any fence: advances the acquire stamp at scope 4 or wider. -/
  | fenceLa (s : Nat)
  /-- CMO_CLEAN (R290). Waits until the thread's earlier stores to the range are acknowledged at their homes. -/
  | cmoClean (d a b : Nat)
  /-- CMO_INVAL (R290). Invalidates the range's lines within the level's reach. -/
  | cmoInval (d a b : Nat)
  /-- CMO_CLINV (R290). CLEAN then INVAL on the range. -/
  | cmoClinv (d a b : Nat)
  /-- CMO_PREF (R290). Prefetches the range's lines into L1 or the RDC without waiting. -/
  | cmoPref (d a b : Nat)
  /-- CMO_ZERO (R290). Writes zero to every byte of each whole line in the range as ordinary stores. -/
  | cmoZero (d a b : Nat)
  /-- CPY (R293). Queues a byte copy on the copy engine under a tag. -/
  | cpy (a x m : Nat)
  /-- CPYF (R293). Queues a copy that also sets every destination word FULL. -/
  | cpyf (a x m : Nat)
  /-- CPYG (R293). Queues a gather copy of rows by an index list. -/
  | cpyg (a x m : Nat)
  /-- CPYP (R293). Queues a copy of rows reordered by a permutation register. -/
  | cpyp (a x m p : Nat)
  /-- CPYR (R293). Queues a copy pushing one tile at the tail of a ring. -/
  | cpyr (a x m r : Nat)
  /-- CPYS (R293). Queues a scatter copy of rows by an index list. -/
  | cpys (a x m : Nat)
  /-- TWALL (R362). Waits until every masked tag is set and returns tags AND mask. -/
  | twall (d a : Nat)
  /-- TWANY (R362). Waits until any masked tag is set and returns tags AND mask. -/
  | twany (d a : Nat)
  /-- TFFR (R362). Returns the lowest set masked tag, or 64, without waiting. -/
  | tffr (d a : Nat)
  /-- TCLR (R362). Clears the masked tag bits. -/
  | tclr (a : Nat)
  /-- MMA (R332). Queues a matrix multiply-accumulate of the head tiles of two rings into an accumulator. -/
  | mma (r s c f p z q m : Nat)
  /-- ACLR (R273). After earlier MMAs, clears an accumulator to +0 and sets its type. -/
  | aclr (a b : Nat)
  /-- ASTO (R273). After earlier MMAs, converts and stores a region of an accumulator to the scratchpad. -/
  | asto (a b : Nat)
  /-- ALD (R273). After earlier MMAs, loads a region of an accumulator from the scratchpad. -/
  | ald (a b : Nat)
  /-- RDEF (R344). Defines a ring from a base and descriptor and returns a status. -/
  | rdef (d a b : Nat)
  /-- RQRY (R344). Returns the ring's state. -/
  | rqry (d b : Nat)
  /-- RDROP (R344). Pops the oldest complete unclaimed tile, returning 1 if there is none. -/
  | rdrop (d b : Nat)
  /-- RRESET (R344). Waits until the ring is unused, then frees its slots and undefines it. -/
  | rreset (b : Nat)
  /-- SNEW (R354). Creates a sync object at scope s and returns its handle or a status. -/
  | snew (d a b : Nat)
  /-- SFREE (R354). Frees a sync object once its verdicts are in, or returns busy. -/
  | sfree (d a b : Nat)
  /-- SPOKE (R131). Writes one cell of a sync object under the fault-injection right and returns the old value. -/
  | spoke (d a b : Nat)
  /-- LEGQ (R324). Returns the legitimacy bits and illegitimacy count for scope s. -/
  | legq (d b : Nat)
  /-- FOULC (R312). Clears the foul bits set in the mask. -/
  | foulc (a : Nat)
  /-- CKPT (R288). Turns the etlet team's checkpoint on or off and returns the previous state. -/
  | ckpt (d a : Nat)
  /-- BAR (R282). Counts an arrival at a barrier and waits for the release. -/
  | bar (d a b : Nat)
  /-- BARA (R282). Counts an arrival at a barrier without waiting. -/
  | bara (d a b : Nat)
  /-- BARW (R282). Waits for the pending arrival's release. -/
  | barw (d a b : Nat)
  /-- TOKA (R364). Requests a token and waits until granted. -/
  | toka (d a b : Nat)
  /-- TOKR (R364). Releases a held token grant, passing the privilege. -/
  | tokr (d a b : Nat)
  /-- STEP (R357). Waits at the step clock until its core node advances. -/
  | step (d a b : Nat)
  /-- STEPR (R357). Returns the core node's step-clock value without waiting. -/
  | stepr (d a b : Nat)
  /-- SOUND (R355). Waits for every verdict at scope s and returns the foul register. -/
  | sound (d b : Nat)
  /-- SEND (R350). Sends an active message of 1 to 8 words to an etlet. -/
  | send (a b : Nat)
  /-- GO (R316). Migrates the thread to the etlet owning a scratchpad-window address. -/
  | go (a : Nat)
  /-- PUT (R315). Queues a copy of local data to an address of the launch, advancing counters on completion. -/
  | put (a : Nat)
  /-- GET (R315). Queues a copy of remote data into local memory. -/
  | get (a : Nat)
  /-- TSEND (R367). Arms a trigger holding a PUT that fires when a counter reaches a threshold. -/
  | tsend (d a b : Nat)
  /-- TCANCEL (R361). Disarms an unfired trigger of the kernel. -/
  | tcancel (d a : Nat)
  /-- SCSET (R347). Sets a score counter and returns its old value. -/
  | scset (d a b : Nat)
  /-- SCADD (R347). Adds to a score counter and returns its old value. -/
  | scadd (d a b : Nat)
  /-- SCWAIT (R347). Waits until a score counter reaches a threshold. -/
  | scwait (d a b : Nat)
  /-- SCRD (R347). Reads a score counter. -/
  | scrd (d b : Nat)
  /-- WRQ (R368). Posts an Ultra Ethernet work request and returns its ID. -/
  | wrq (d a : Nat)
  /-- WRCQ (R368). Removes and returns the kernel's oldest completion record. -/
  | wrcq (d : Nat)
  /-- UESTAT (R368). Returns a status item of the die's network engine. -/
  | uestat (d b : Nat)
  /-- MFALLOC (R330). Allocates and maps a midfield region, returning its VA and a status. -/
  | mfalloc (d a b : Nat)
  /-- MFFREE (R331). Unmaps a midfield region, drains its accesses and returns its granules. -/
  | mffree (d a : Nat)
  /-- MFQUOTA (R330). Returns the key ID's allowed and held granules. -/
  | mfquota (d : Nat)
  /-- MFSTAT (R330). Returns the state of a midfield region. -/
  | mfstat (d a : Nat)
  /-- SWB (R360). Takes a free sweeper, zeroes its visited map and starts a sweep. -/
  | swb (d a : Nat)
  /-- SWN (R183). Takes the next ready point, waiting if needed, or returns -1. -/
  | swn (d a : Nat)
  /-- SWE (R184). Frees the sweeper and returns the points never handed out. -/
  | swe (d a : Nat)
  /-- RESQ (R345). Counts the resident lines of a range. -/
  | resq (d a : Nat)
  /-- SWSTAT (R184). Returns the sweeper's statistics. -/
  | swstat (d a : Nat)
  /-- QNEW (R340). Allocates a slice queue and returns its handle or a status. -/
  | qnew (d a : Nat)
  /-- QENQ (R192). Appends an entry, waiting while the queue is full. -/
  | qenq (a b : Nat)
  /-- QDEQ (R192). Removes the head entry, waiting while the queue is empty. -/
  | qdeq (d a : Nat)
  /-- QTRY (R192). Takes an entry if one is available without waiting, writing a status. -/
  | qtry (d a b : Nat)
  /-- QFREE (R340). Frees a queue unless a thread waits on it. -/
  | qfree (d a : Nat)
  /-- GANG (R313). Rendezvous to form a gang of n members, returning a status. -/
  | gang (d a : Nat)
  /-- PLOAD (R338). Loads n indices, checks them and has the route solver fill a permutation register. -/
  | pload (d a b : Nat)
  /-- PSTORE (R338). Stores a permutation's indices as bytes. -/
  | pstore (d a : Nat)
  /-- VLD (R377). Loads 64 contiguous lanes into a vector register. -/
  | vld (d a o : Nat)
  /-- VLD_STR (R377). Loads 64 lanes with a stride. -/
  | vldStr (d a o : Nat)
  /-- VLD_BC (R377). Loads one word into every lane. -/
  | vldBc (d a o : Nat)
  /-- VST (R377). Stores 64 contiguous lanes. -/
  | vst (d a o : Nat)
  /-- VST_STR (R377). Stores 64 lanes with a stride. -/
  | vstStr (d a o : Nat)
  /-- CSRR (R294). Reads a CSR into g[d]. -/
  | csrr (d c : Nat)
  /-- CSRW (R294). Writes g[a] into a CSR's writable fields. -/
  | csrw (a c : Nat)
  /-- CSRX (R294). Exchanges a CSR with g[a], returning the old value. -/
  | csrx (d a c : Nat)
  /-- LAUNCH (R319). Fences at system scope, checks and places a launch block, and returns its status and launch index. -/
  | launch (d a : Nat)
  /-- BENCHO (R283). Saves a slot's thread context to an image and frees the slot. -/
  | bencho (d a b : Nat)
  /-- BENCHI (R283). Restores a benched context into a free slot. -/
  | benchi (d a b : Nat)
  /-- MAPSET (R328). Rewrites one core-map entry of a launch whose threads there are benched. -/
  | mapset (d a : Nat)
  /-- XINV (R383). Drops translations of a key ID within a reach and waits for walks and accesses through them. -/
  | xinv (d a b : Nat)
  /-- KEYSET (R318). Writes back and invalidates lines of a key ID and installs its new key. -/
  | keyset (d a : Nat)
  /-- SELFT (R349). Runs the targeted self-test of one unit and returns its result. -/
  | selft (d a : Nat)
  /-- VRE (R380). Ends capture and runs the sequence a count of times with a register stride. -/
  | vre (a b : Nat)
  /-- ADD (R274). g[d] = g[a] + g[b] modulo 2^64. -/
  | add (d a b : Nat)
  /-- SUB (R359). g[d] = g[a] - g[b] modulo 2^64. -/
  | sub (d a b : Nat)
  /-- AND (R274). g[d] = g[a] AND g[b]. -/
  | and (d a b : Nat)
  /-- OR (R336). g[d] = g[a] OR g[b]. -/
  | or (d a b : Nat)
  /-- XOR (R385). g[d] = g[a] XOR g[b]. -/
  | xor (d a b : Nat)
  /-- ANDN (R274). g[d] = g[a] AND NOT g[b]. -/
  | andn (d a b : Nat)
  /-- SLL (R346). Logical left shift by g[b][5:0]. -/
  | sll (d a b : Nat)
  /-- SRL (R346). Logical right shift by g[b][5:0]. -/
  | srl (d a b : Nat)
  /-- SRA (R346). Arithmetic right shift by g[b][5:0]. -/
  | sra (d a b : Nat)
  /-- ROTR (R346). Rotate right by g[b][5:0]. -/
  | rotr (d a b : Nat)
  /-- MIN (R329). Signed minimum. -/
  | min (d a b : Nat)
  /-- MAX (R329). Signed maximum. -/
  | max (d a b : Nat)
  /-- MINU (R329). Unsigned minimum. -/
  | minu (d a b : Nat)
  /-- MAXU (R329). Unsigned maximum. -/
  | maxu (d a b : Nat)
  /-- ADDW (R274). 32-bit add, sign-extended. -/
  | addw (d a b : Nat)
  /-- SUBW (R359). 32-bit subtract, sign-extended. -/
  | subw (d a b : Nat)
  /-- MUL (R334). Low 64 bits of the product. -/
  | mul (d a b : Nat)
  /-- MULH (R334). High 64 bits of the signed product. -/
  | mulh (d a b : Nat)
  /-- MULHU (R334). High 64 bits of the unsigned product. -/
  | mulhu (d a b : Nat)
  /-- MULW (R334). 32-bit product, sign-extended. -/
  | mulw (d a b : Nat)
  /-- DIV (R297). Signed quotient, written back after 24 cycles. -/
  | div (d a b : Nat)
  /-- DIVU (R297). Unsigned quotient, written back after 24 cycles. -/
  | divu (d a b : Nat)
  /-- REM (R297). Signed remainder, written back after 24 cycles. -/
  | rem (d a b : Nat)
  /-- REMU (R297). Unsigned remainder, written back after 24 cycles. -/
  | remu (d a b : Nat)
  /-- CLZ (R286). Counts leading zero bits. -/
  | clz (d a : Nat)
  /-- CTZ (R286). Counts trailing zero bits. -/
  | ctz (d a : Nat)
  /-- POPC (R339). Counts 1 bits. -/
  | popc (d a : Nat)
  /-- BREV (R286). Reverses the bit order. -/
  | brev (d a : Nat)
  /-- BSWAP (R286). Reverses the byte order. -/
  | bswap (d a : Nat)
  /-- SEXT (R353). Sign-extends g[a] from bit pos. -/
  | sext (d a b : Nat)
  /-- ZEXT (R387). Zero-extends g[a] from bit pos. -/
  | zext (d a b : Nat)
  /-- ADDI (R275). Adds a sign-extended immediate. -/
  | addi (d a : Nat) (i : Imm)
  /-- ANDI (R275). ANDs with a sign-extended immediate. -/
  | andi (d a : Nat) (i : Imm)
  /-- ORI (R337). ORs with a zero-extended immediate. -/
  | ori (d a : Nat) (i : Imm)
  /-- XORI (R385). XORs with a zero-extended immediate. -/
  | xori (d a : Nat) (i : Imm)
  /-- SLLI (R346). Logical left shift by an immediate. -/
  | slli (d a s : Nat)
  /-- SRLI (R346). Logical right shift by an immediate. -/
  | srli (d a s : Nat)
  /-- SRAI (R346). Arithmetic right shift by an immediate. -/
  | srai (d a s : Nat)
  /-- ROTRI (R346). Rotate right by an immediate. -/
  | rotri (d a s : Nat)
  /-- MOVI (R333). Writes a sign-extended immediate. -/
  | movi (d : Nat) (i : Imm)
  /-- MOVHI (R333). Replaces bits [63:32] of g[d] with K, in a LONE bundle only. -/
  | movhi (d k : Nat)
  /-- CMP (R291). 64-bit compare that annuls the next sk+1 bundles when false. -/
  | cmp (k c a : Nat) (b : CmpRhs)
  /-- CMP_W (R291). 32-bit compare that annuls the next sk+1 bundles when false. -/
  | cmpW (k c a : Nat) (b : CmpRhs)
  /-- SETC_EQ (R351). g[d] = 1 if equal, else 0. -/
  | setcEq (d a b : Nat)
  /-- SETC_NE (R351). g[d] = 1 if not equal, else 0. -/
  | setcNe (d a b : Nat)
  /-- SETC_LT (R351). g[d] = 1 if signed less, else 0. -/
  | setcLt (d a b : Nat)
  /-- SETC_GE (R351). g[d] = 1 if signed greater or equal, else 0. -/
  | setcGe (d a b : Nat)
  /-- SETC_LTU (R351). g[d] = 1 if unsigned less, else 0. -/
  | setcLtu (d a b : Nat)
  /-- SETC_GEU (R351). g[d] = 1 if unsigned greater or equal, else 0. -/
  | setcGeu (d a b : Nat)
  /-- SETC_BS (R351). g[d] = 1 if any common bit is set, else 0. -/
  | setcBs (d a b : Nat)
  /-- SETC_BC (R351). g[d] = 1 if no common bit is set, else 0. -/
  | setcBc (d a b : Nat)
  /-- FADD_D (R302). FP64 add. -/
  | faddD (d a b : Nat)
  /-- FSUB_D (R302). FP64 subtract. -/
  | fsubD (d a b : Nat)
  /-- FMUL_D (R302). FP64 multiply. -/
  | fmulD (d a b : Nat)
  /-- FDIV_D (R302). FP64 divide, written back after 24 cycles. -/
  | fdivD (d a b : Nat)
  /-- FMIN_D (R302). FP64 minimum. -/
  | fminD (d a b : Nat)
  /-- FMAX_D (R302). FP64 maximum. -/
  | fmaxD (d a b : Nat)
  /-- FSQRT_D (R302). FP64 square root, written back after 24 cycles. -/
  | fsqrtD (d a : Nat)
  /-- FCPS_D (R302). FP64 copy sign. -/
  | fcpsD (d a b : Nat)
  /-- FADD_S (R302). FP32 add. -/
  | faddS (d a b : Nat)
  /-- FSUB_S (R302). FP32 subtract. -/
  | fsubS (d a b : Nat)
  /-- FMUL_S (R302). FP32 multiply. -/
  | fmulS (d a b : Nat)
  /-- FDIV_S (R302). FP32 divide, written back after 24 cycles. -/
  | fdivS (d a b : Nat)
  /-- FMIN_S (R302). FP32 minimum. -/
  | fminS (d a b : Nat)
  /-- FMAX_S (R302). FP32 maximum. -/
  | fmaxS (d a b : Nat)
  /-- FSQRT_S (R302). FP32 square root, written back after 24 cycles. -/
  | fsqrtS (d a : Nat)
  /-- FCPS_S (R302). FP32 copy sign. -/
  | fcpsS (d a b : Nat)
  /-- FMA_D (R311). Fused FP64 x*y + c into g[d]. -/
  | fmaD (d a b : Nat)
  /-- FMS_D (R311). Fused FP64 x*y - c into g[d]. -/
  | fmsD (d a b : Nat)
  /-- FNMA_D (R311). Fused FP64 c - x*y into g[d]. -/
  | fnmaD (d a b : Nat)
  /-- FMA_S (R311). Fused FP32 x*y + c into g[d]. -/
  | fmaS (d a b : Nat)
  /-- FMS_S (R311). Fused FP32 x*y - c into g[d]. -/
  | fmsS (d a b : Nat)
  /-- FNMA_S (R311). Fused FP32 c - x*y into g[d]. -/
  | fnmaS (d a b : Nat)
  /-- FCVT (R308). Converts between formats with a given rounding mode. -/
  | fcvt (d a b r : Nat)
  /-- FRCP (R310). Correctly rounded FP32 reciprocal. -/
  | frcp (d a : Nat)
  /-- FRSQ (R310). Correctly rounded FP32 reciprocal square root. -/
  | frsq (d a : Nat)
  /-- FEXP2 (R310). Correctly rounded FP32 2^x. -/
  | fexp2 (d a : Nat)
  /-- FLOG2 (R310). Correctly rounded FP32 log2 x. -/
  | flog2 (d a : Nat)
  /-- FCLASS (R306). Writes a one-hot class mask of an FP32 value. -/
  | fclass (d a : Nat)
  /-- FCMP_D (R307). FP64 compare that annuls the next sk+1 bundles when false. -/
  | fcmpD (k c a b : Nat)
  /-- FCMP_S (R307). FP32 compare that annuls the next sk+1 bundles when false. -/
  | fcmpS (k c a b : Nat)
  /-- VFADD (R376). FP32 lane add. -/
  | vfadd (d a b : Nat)
  /-- VFSUB (R376). FP32 lane subtract. -/
  | vfsub (d a b : Nat)
  /-- VFMUL (R376). FP32 lane multiply. -/
  | vfmul (d a b : Nat)
  /-- VFMA (R376). Fused FP32 lane multiply-add. -/
  | vfma (d a b c : Nat)
  /-- VFMIN (R376). FP32 lane minimum. -/
  | vfmin (d a b : Nat)
  /-- VFMAX (R376). FP32 lane maximum. -/
  | vfmax (d a b : Nat)
  /-- VFRCP (R376). Correctly rounded FP32 lane reciprocal. -/
  | vfrcp (d a : Nat)
  /-- VFEXP2 (R376). Correctly rounded FP32 lane 2^x. -/
  | vfexp2 (d a : Nat)
  /-- VADD (R372). INT32 lane add. -/
  | vadd (d a b : Nat)
  /-- VSUB (R372). INT32 lane subtract. -/
  | vsub (d a b : Nat)
  /-- VMUL (R372). INT32 lane multiply. -/
  | vmul (d a b : Nat)
  /-- VMIN (R372). INT32 lane signed minimum. -/
  | vmin (d a b : Nat)
  /-- VMAX (R372). INT32 lane signed maximum. -/
  | vmax (d a b : Nat)
  /-- VMINU (R372). INT32 lane unsigned minimum. -/
  | vminu (d a b : Nat)
  /-- VMAXU (R372). INT32 lane unsigned maximum. -/
  | vmaxu (d a b : Nat)
  /-- VAND (R372). Lane AND. -/
  | vand (d a b : Nat)
  /-- VOR (R372). Lane OR. -/
  | vor (d a b : Nat)
  /-- VXOR (R372). Lane XOR. -/
  | vxor (d a b : Nat)
  /-- VSLL (R372). Lane logical left shift. -/
  | vsll (d a b : Nat)
  /-- VSRL (R372). Lane logical right shift. -/
  | vsrl (d a b : Nat)
  /-- VSRA (R372). Lane arithmetic right shift. -/
  | vsra (d a b : Nat)
  /-- VRED (R381). Reduces the lanes to lane 0 by FP32 pairwise sum or INT32 sum. -/
  | vred (d a c : Nat)
  /-- VPERM (R379). Permutes lanes by a permutation register. -/
  | vperm (d a p : Nat)
  /-- VSEL (R382). Selects each lane from va or vb by vc. -/
  | vsel (d a b c : Nat)
  /-- VCMP (R374). Lane compare writing all ones or zero. -/
  | vcmp (d a b c : Nat)
  /-- VCVT (R375). Lane format conversion. -/
  | vcvt (d a c : Nat)
  /-- VBCAST (R373). Broadcasts g[s][31:0] to every lane. -/
  | vbcast (d s : Nat)
  /-- VEXT (R373). Extracts one lane into a general register. -/
  | vext (d a n : Nat)
  /-- QNT (R341). Quantises FP32 blocks to packed MX blocks or a CF8 stream. -/
  | qnt (d a b : Nat)
  /-- DQNT (R298). Expands packed MX blocks to FP32. -/
  | dqnt (d a b : Nat)
  /-- BADDQ (R280). Adds two runs of packed MX blocks and requantises the sums. -/
  | baddq (d a b : Nat)
  /-- SCALEQ (R343). Returns the MX scale that quantisation would choose for 32 values. -/
  | scaleq (d a b : Nat)
  /-- PCOMP (R338). Composes two permutations through the route solver. -/
  | pcomp (d a b : Nat)
  /-- PINV (R338). Inverts a permutation through the route solver. -/
  | pinv (d a : Nat)
  /-- PRAND (R338). Builds a pseudo-random permutation from a seed. -/
  | prand (d a b : Nat)
  /-- PIDN (R338). Writes the identity permutation of size 2^k. -/
  | pidn (d b : Nat)
  /-- PCYC (R338). Answers a cycle-structure query on a permutation. -/
  | pcyc (d a b : Nat)
  /-- PMOV (R338). Copies a permutation register with its settings. -/
  | pmov (d a : Nat)
  /-- ILLEGAL_ENCODING (R266). Issue of a bundle whose encoding is invalid (reserved primary or function value, class mismatch, MOVHI in a pair, nonzero must-be-zero field) raises ILLEGAL with EVAL = the bundle. -/
  | illegalEncoding (w : Nat)
  /-- FETCH_FAULT (R54). A bundle whose fetch fails translation or permission, or meets an abort or uncorrected error, raises XLATE, PROT or a precise DABORT with EVAL and EPC = the bundle address. -/
  | fetchFault (cause : Nat)
  /-- NOP (R335). Does nothing. -/
  | nop
  /-- YIELD (R386). Makes the thread ineligible until its kernel's other eligible threads have issued or 64 cycles pass. -/
  | yield
  /-- EXIT (R301). Ends the thread after its repetition, store-buffer and checkpoint drains. -/
  | exit
  /-- ERET (R300). Returns from a trap: PC = EPC and STATUS = ESTATUS. -/
  | eret
  /-- DISBAND (R296). Ends the gang; each member resumes its own fetch. -/
  | disband
  /-- VRB (R380). Takes the repetition buffer and starts capturing vector instructions. -/
  | vrb
  /-- VRSTOP (R380). Abandons the sequence and frees the buffer. -/
  | vrstop
  /-- VRWAIT (R380). Waits until the sequence has written back. -/
  | vrwait
  /-- POWER_ON_RESET (R241). Power-up resets every register and field to its Reset value and starts the boot of every base die. -/
  | powerOnReset
  /-- FUNCTION_READY (R240). A function sets its own READY bit in the readiness map once its self-test and firmware checks pass. -/
  | functionReady (pkg f : Nat)
  /-- COMMAND_FETCH (R236). The part fetches the next host command in ring order, accepting it only if its HSEQ is one more than the last and otherwise posting BADSEQ. -/
  | commandFetch (pkg : Nat)
  /-- INIT (R239). Host command that posts its response in the old ring, then writes new CQBASE and RQBASE and restarts both queues. -/
  | init (pkg : Nat)
  /-- HOST_LAUNCH (R239). Host command that checks and places a launch block under a full launch right, DONEADDR taken as a global physical address. -/
  | hostLaunch (pkg : Nat)
  /-- RSTAT (R239). Host command that returns a launch's state and copies its fault record to a given host address. -/
  | rstat (pkg : Nat)
  /-- FRESET (R239). Host command that resets one function of the readiness map to its reset state. -/
  | freset (pkg : Nat)
  /-- ATTEST (R246). Host command that returns a signed attestation report for a 32-byte nonce. -/
  | attest (pkg : Nat)
  /-- FWLOAD (R239). Host command that writes a firmware image to configuration flash, effective at the next power-up. -/
  | fwload (pkg : Nat)
  /-- CDOOR (R238). A write of the command doorbell lets the part fetch commands up to that HSEQ, ignored if not ahead of HSEQACC or more than 4,096 ahead. -/
  | cdoor (pkg v : Nat)
  /-- QSTART (R238). A write with bit 0 set lets the command in progress finish, then starts or restarts both queues at CQBASE and RQBASE with sequences reset. -/
  | qstart (pkg v : Nat)
  /-- REGISTER_WRITE (R6). A write to a register or field with no behaviour of its own stores the writable bits and ignores read-only and reserved ones. -/
  | registerWrite (pkg off v : Nat)
  /-- MIGRATION_GO (R91). A write of GO with bit 0 set starts the migration engine's page move, or is ignored while BUSY, refusing bad operands or waiters with a status. -/
  | migrationGo (die v : Nat)
  /-- MIGRATION_COMPLETE (R91). When the copy ends the engine writes NEWLEAF, issues an XINV, keeps dual writes until it completes, releases SRC and increments the score counter. -/
  | migrationComplete (die : Nat)
  /-- STEST_START (R242). A supervisor write of STEST starts the targeted self-test of the unit named. -/
  | stestStart (die u : Nat)
  /-- SELF_TEST_COMPLETE (R231). A targeted self-test ends; a pass marks the error transient and a failure applies the lasting-fault action of Table 11.12. -/
  | selfTestComplete (die : Nat) (pass : Bool)
  /-- UV_UNFREEZE (R249). A write of 0 to a UVCTL FROZEN bit lifts that domain's freeze, resuming undervolting from the present step. -/
  | uvUnfreeze (pkg dom : Nat)
  /-- UV_FREEZE (R249). A write of 1 to a UVCTL FROZEN bit freezes that domain at its present step. -/
  | uvFreeze (pkg dom : Nat)
  /-- UV_ENABLE_WRITE (R249). A write to UVCTL EN takes effect at the domain's next step decision, clearing returning it to full guardband. -/
  | uvEnableWrite (pkg dom : Nat) (en : Bool)
  /-- MFQSET (R242). A supervisor write of MFQSET sends a midfield quota for a key ID to every switch of the domain. -/
  | mfqset (pkg v : Nat)
  /-- UV_STEP (R248). The voltage loop of a power domain decides a step of 6.25 mV, dropped if a freeze falls in the same cycle. -/
  | uvStep (pkg dom : Nat) (down : Bool)
  /-- UV_MEASURE_END (R248). After 2^20 cycles at full guardband the monitor measures the rate again and advances the predictive-failure count if still exceeded. -/
  | uvMeasureEnd (pkg dom : Nat) (exceeded : Bool)
  /-- POWER_SAMPLE (R247). Each die and stack power reading is updated as a 1 ms average. -/
  | powerSample (pkg i mw : Nat)
  /-- TRANSLATION_WALK_COMPLETE (R74). A table walk ends with a leaf or an XLATE or PROT fault, filling the translation caches and waking the thread. -/
  | translationWalkComplete (e slot : Nat)
  /-- MEMORY_REPLY (R26). The reply to a load, atomic, full/empty or switch request arrives, writes its register or raises a precise DABORT or LOST, and the thread becomes READY. -/
  | memoryReply (e slot : Nat)
  /-- STORE_TAKES_EFFECT (R99). The head store-buffer entry leaves in FIFO order and takes effect at its home, invalidating other L1 copies. -/
  | storeTakesEffect (e : Nat)
  /-- STORE_REPLY (R194). The reply of a posted store marks it as having taken effect, or reports a DABORT or LOST event. -/
  | storeReply (e : Nat)
  /-- PAGE_HEAT_HALVE (R90). After every 2^20 accesses reaching a die's memory, every page-heat counter of the die is halved in one step. -/
  | pageHeatHalve (die : Nat)
  /-- LOOP_SLOT_RESERVE (R15). A loop stop that has waited 64 cycles to inject reserves the next slot freed downstream of it. -/
  | loopSlotReserve (die lp stop : Nat)
  /-- LOOP_STOP_POWER_DOWN (R94). A loop stop idle for 4,096 cycles powers down its injection and ejection logic. -/
  | loopStopPowerDown (die lp stop : Nat)
  /-- LOOP_STOP_WAKE (R94). A powered-down stop wakes on a packet to inject or a packet addressed to it, which circulates once more. -/
  | loopStopWake (die lp stop : Nat)
  /-- LONG_LATENCY_WRITEBACK (R25). A division or square root writes back 24 cycles after issue and its thread returns to READY. -/
  | longLatencyWriteback (e slot : Nat)
  /-- EVENT_DELIVERY (R223). The oldest undelivered event that the policy delivers is taken as a trap at the thread's next bundle, before that bundle executes. -/
  | eventDelivery (e slot : Nat)
  /-- YIELD_EXPIRY (R386). A yielded thread becomes eligible again after 64 cycles if its kernel's other threads have not all issued by then. -/
  | yieldExpiry (e slot : Nat)
  /-- HANDLER_ISSUE_LIMIT (R40). A handler that has issued 4,096 bundles without EXIT takes a precise HANDLER trap with EVAL = 1. -/
  | handlerIssueLimit (e slot : Nat)
  /-- ACTIVE_MESSAGE_ARRIVAL (R39). An active message reaching its target etlet starts in a free hand-off slot, or waits in the inbound buffer or the dugout, or stalls the sender's VC0. -/
  | activeMessageArrival (e : Nat)
  /-- HANDLER_START (R39). When a hand-off slot frees, the oldest waiting active message starts as a handler with its words in g1 and g3 to g10. -/
  | handlerStart (e : Nat)
  /-- ABSENT (R43). A word or wake for a benched thread is held in the dugout and the ABSENT trap is raised in a hand-off slot, waiting for one to free. -/
  | absent (e : Nat)
  /-- LOOP_PORT_WORD_ARRIVAL (R46). A loop-port word arrives in the bound thread's inbound queue, waking a waiting reader, or is discarded with a DABORT record if no thread holds the slot. -/
  | loopPortWordArrival (e : Nat)
  /-- LOOP_PORT_CREDIT_RETURN (R46). A credit returns to the sender's binding, waking a writer waiting for credit. -/
  | loopPortCreditReturn (e slot k : Nat)
  /-- GO_ARRIVAL (R44). A migrating thread arrives at its destination and takes a new slot and windows, or is parked in the dugout. -/
  | goArrival (e : Nat)
  /-- PARKED_THREAD_PLACE (R44). When a thread exits at an etlet, the oldest parked thread there is placed and becomes READY. -/
  | parkedThreadPlace (e : Nat)
  /-- MAPSET_FORWARD (R47). Items in flight to a moved etlet land in its dugout and are forwarded in arrival order to the new etlet. -/
  | mapsetForward (e : Nat)
  /-- EXIT_COMPLETE (R301). After the exiting thread's drains end, its slot and windows are freed and, for the last thread on the etlet, the kernel's entries and triggers are released. -/
  | exitComplete (e slot : Nat)
  /-- LAUNCH_COMPLETION_WRITE (R110). Once every thread has ended and every store and engine write has taken effect, DONEVAL is written to DONEADDR as a system-scope release. -/
  | launchCompletionWrite (pkg l : Nat)
  /-- BENCH_IMAGE_WRITE (R225). The bench completes a benched context's image write to memory in the background. -/
  | benchImageWrite (e : Nat)
  /-- COPY_START (R161). The copy engine starts a queued command in issue order, a CPYR reserving its ring slot when one is free. -/
  | copyStart (e seq : Nat)
  /-- COPY_COMPLETE (R161). A copy command finishes or ends on a fault, sets its tag, and a CPYR tile becomes complete. -/
  | copyComplete (e seq : Nat)
  /-- MMA_START (R170). An accepted MMA claims the head tile of each ring once both hold a complete unclaimed tile. -/
  | mmaStart (e : Nat)
  /-- MMA_COMPLETE (R170). An MMA completes 24 cycles after its last array cycle, raises its flags, pops both tiles and its thread becomes READY. -/
  | mmaComplete (e : Nat)
  /-- VECTOR_START (R173). The vector sequencer starts the next dispatched vector instruction, one per cycle in dispatch order. -/
  | vectorStart (e : Nat)
  /-- VECTOR_WRITEBACK (R173). A vector instruction writes back 4 cycles after it starts, clears its scoreboard marks and raises its flags. -/
  | vectorWriteback (e : Nat)
  /-- SOLVER_COMPLETE (R188). The route solver finishes a PLOAD, PCOMP, PINV or PRAND and writes the permutation register. -/
  | solverComplete (e : Nat)
  /-- PUT_ARRIVAL (R207). Every destination word of a PUT has taken effect and the named remote score counter advances. -/
  | putArrival (e seq : Nat)
  /-- PUT_COMPLETE (R207). A PUT or GET completes locally and its local score counter advances. -/
  | putComplete (e seq : Nat)
  /-- UE_PACKET_ARRIVAL (R215). An Ultra Ethernet packet is placed at the receiver, filling a WRITE region or a posted RECV. `kind` 0 WRITE, 1 the packet that completes a WRITE, 2 SEND, 3 the packet that completes a SEND; `key` the region's key or the SEND's message; `off` the byte offset. -/
  | uePacketArrival (die kind key off : Nat) (bytes : List Nat)
  /-- WRQ_COMPLETE (R216). A work request completes when the peer acknowledges every packet, advancing its counter and queueing a record. -/
  | wrqComplete (die id status : Nat)
  /-- NORECV_TIMEOUT (R216). A SEND that finds no RECV within 1 ms completes with status NORECV. -/
  | norecvTimeout (die id : Nat)
  /-- SYNC_ROUND_START (R117). At a round's first cycle every node applies its objects' correction rules and tree rules using the neighbour states received. -/
  | syncRoundStart (st : Nat)
  /-- UMPIRE_ROUND_END (R117). At a round's last cycle the umpire evaluates every object's predicate, returns verdicts, sets LEGIT and resets an illegitimate token. -/
  | umpireRoundEnd (st : Nat)
  /-- COMPLETION_REPORT (R121). A child's completion report reaches its parent, which counts it and, at the root with CNT reaching E, decides a release. -/
  | completionReport (n : Nat)
  /-- PHASE_MESSAGE (R121). A node receiving its parent's phase one ahead adopts it, clears its arrivals and releases its waiting participants. -/
  | phaseMessage (n : Nat)
  /-- VERDICT_DELIVERY (R124). A release, grant or step verdict reaches the threads it concerned, setting foul bits and raising FOUL events on denial and draining held stores on confirmation. -/
  | verdictDelivery (n : Nat)
  /-- MEMBER_ABSENT (R119). A member that sends nothing for 2 rounds counts as absent and its participants leave every population. -/
  | memberAbsent (st : Nat)
  /-- TOKEN_PASS (R125). A privileged token node with no waiter passes the privilege around the ring, granting to a waiter where one is queued. -/
  | tokenPass (obj st : Nat)
  /-- STEP_ADVANCE (R127). A step-clock node whose neighbours are not behind advances c and releases its waiting participants. -/
  | stepAdvance (obj st : Nat)
  /-- ROLLBACK_RESUME (R135). Rolled-back threads become READY when their etlet's LEGIT bit for the barrier's scope reads 1. -/
  | rollbackResume (e kid : Nat)
  /-- ERROR_DETECTED (R231). A failed data check withholds the data, raises the error interrupt and aborts the requester, or a corrected error is counted, and a targeted self-test starts. -/
  | errorDetected (die u gpa : Nat) (corrected : Bool)
  /-- SWEEPER_EXAMINE (R182). The sweeper examines one point, appending it to the ready list if resident or forced, else deferring and prefetching it. -/
  | sweeperExamine (cl sw : Nat)
  /-- SWEEPER_PASS_START (R182). A new pass over deferred points begins once the previous pass ended and 512 cycles have passed since it began. -/
  | sweeperPassStart (cl sw : Nat)
  /-- SWEEPER_FORCE (R182). A deferred point whose first deferral lies 16,384 cycles back is appended at once, forced. -/
  | sweeperForce (cl sw : Nat)
  /-- FAGG_GROUP_CLOSE (R305). An open FAGG group closes after 8 cycles or 16 members and travels to the home as one add. -/
  | faggGroupClose (e : Nat)
  /-- REQUEST_ARRIVAL (R204). A request from another package executes at its target, writing requests recorded in the dedup table and repeats answered from it. -/
  | requestArrival (e seq : Nat)
  /-- REQUEST_RESEND (R204). A request with no reply 20 or 40 microseconds after its first send is sent again with the same sequence. -/
  | requestResend (e seq : Nat)
  /-- REQUEST_TIMEOUT (R204). A request with no reply within 100 microseconds raises a precise DABORT, or a fault-record event for a posted store. -/
  | requestTimeout (e seq : Nat)
  /-- DEDUP_EXPIRY (R204). A dedup-table entry expires 64 microseconds after it was recorded, freeing room for held requests. -/
  | dedupExpiry (die : Nat)
  /-- FLIT_RECEIVE (R201). A received flit is checked by CRC and tag; a bad flit makes the receiver return the first sequence number it lacks. -/
  | flitReceive (pkg port seq : Nat) (good authOk : Bool)
  /-- REPLAY_REQUEST (R201). A sender told of a missing flit resends from it onward in order, three authentication failures in a row taking the port out. -/
  | replayRequest (pkg port seq : Nat)
  /-- CRITICAL_PACKET_RECEIVE (R202). A VC4 packet copy is kept if its critical sequence number is new and dropped if already accepted. -/
  | criticalPacketReceive (pkg src seq : Nat)
  /-- PORT_TRAINING_END (R203). At the end of training both link-state records are exchanged; agreement brings the port UP, disagreement MISMATCH or OUT. -/
  | portTrainingEnd (pkg port speed lanes : Nat) (recOk : Bool)
  /-- TRAINING_TIMEOUT (R203). Training that does not finish within 1 ms counts as a mismatch. -/
  | trainingTimeout (pkg port : Nat)
  /-- FLOW_MOVE (R195). When a port leaves service its flows are repinned to another live port and stall. -/
  | flowMove (pkg port : Nat)
  /-- FLOW_STALL_END (R195). A moved flow resumes once every packet on the old port is answered or 50 microseconds have passed. -/
  | flowStallEnd (pkg flow : Nat)
  /-- SWITCH_LOSS_NOTICE (R214). A VC4 notice of a lost switch moves each region with a copy there to DEGRADED or LOST and wakes its waiters with LOST. -/
  | switchLossNotice (dom sw : Nat)
  /-- RHEAD_ADVANCE (R236). A driver write of RHEAD in the status page advances the consumed response sequence and lets the part resume posting responses held while the ring was full. -/
  | rheadAdvance (pkg v : Nat)
  /-- PORT_COMMAND (R203). A supervisor command takes a fabric port into TRAINING, the only way a port leaves OUT. -/
  | portCommand (pkg port : Nat)
  /-- MEMORY_WRITE_COMPLETE (R82). A write that a slice accepted completes at memory, leaves the pending-write filter, and frees waiting bypass reads and new writes. -/
  | memoryWriteComplete (cl line : Nat)
deriving DecidableEq, Repr

/-- What a bundle holds: one instruction of either class with the literal word K beside it
(LONE = 1, R52), or a C-class and an A-class instruction (a pair, R51). -/
inductive Slots where
  | lone (i : Instr)
  | pair (c a : Instr)
deriving DecidableEq, Repr

/-- A 64-bit bundle (R49, R53). -/
structure Bundle where
  vote : Bool
  slots : Slots
deriving DecidableEq, Repr

end Sys2Proof
end

