-- ==== Sys2Proof/Machine/State.lean ====
section
/-! DEFINITION. All the state the spec gives the T9, as plain data, and the state after reset. The state is
that of the whole system; one etlet and one of its slots are IN FOCUS (`etl`, `thr`), every other etlet stands
in `etlets` and every other thread of the etlet in focus in `etl.threads`. Keyed collections are lists of
(key, value) pairs. The rules that name each piece of state are in INVENTORY.md, "State". -/

namespace Sys2Proof.Machine

/-- A keyed collection. -/
abbrev KMap (α : Type) := List (Nat × α)

/-- Memory: (global physical address, byte) pairs, addresses strictly rising, no entry 0 (R76). (DESIGN CHOICE, log 2) -/
abbrev Memory := List Host.Cell

/-- A permutation register's value: the indices, empty when n = 0 (R185). -/
abbrev Perm := List Nat

/-- Register operands as a bundle read them at issue, permutation registers among them (R9, R51); `seen` is the voted value of what its
C-class instruction reads of the part (R53). -/
structure Latch where
  g : KMap Word := []
  ftab : Word := 0
  stab : Word := 0
  lc0 : Word := 0
  lc1 : Word := 0
  foul : Word := 0
  tags : Word := 0
  cm : List Word := []
  lp : List Word := []
  pm : KMap Perm := []
  fcsr : Word := 0
  seen : Option Word := none
deriving DecidableEq, Repr

/-- A cause: code, EVAL, ECAUSE.INFO, LEVEL and IMP (Tables 11.3 and 11.5). -/
structure Cause where
  code : Nat
  eval : Word := 0
  info : Nat := 0
  level : Nat := 0
  imp : Bool := false
deriving DecidableEq, Repr

/-- Why a thread is WAITING (Table 2.4). A wait marked "again" issues its bundle again when it ends. -/
inductive Wait where
  | walk (va : Nat)                    -- translation miss (again)
  | mem                                -- a reply
  | sbuf (word : Nat)                  -- another slot's store-buffer entry matches (again, R99)
  | sbufFull                           -- the store buffer is full (again, R99)
  | ack                                -- the failure of an earlier store is still to be reported (again, R102, R103)
  | fe (word : Nat)                    -- a full/empty word (R87)
  | mma                                -- R170
  | solver                             -- R188
  | alu                                -- long-latency arithmetic (R25)
  | sync                               -- a barrier, token or step clock (R121, R125, R127)
  | sound (scope : Nat)                -- R130
  | gang (n : Nat)                     -- R37
  | queue                              -- R192
  | tags (all : Bool) (mask : Word)    -- TWALL, TWANY
  | tagBusy (x : Nat)                  -- a copy tag in use (again, R161)
  | counter                            -- SCWAIT
  | lport                              -- a loop port without word or credit (again, R59)
  | credit (k : Nat)                   -- CSRW CHANk waits for its credits (again, R295)
  | vrb                                -- the repetition buffer (again, R174)
  | vrwait                             -- VRWAIT (again)
  | ring (b : Nat)                     -- RRESET (again)
  | mmaDrain                           -- ACLR, ASTO, ALD (again, R172)
  | exitDrain                          -- EXIT (R301)
  | verdict                            -- checkpoint: verdicts pending (again, R109, R134)
  | ckptOff                            -- CKPT 0 (again, R133)
  | sfree (k : Nat)                    -- SFREE of object k: its verdicts (again, R114)
  | sweep                              -- SWN (R183)
  | bench                              -- BENCHO of a waiting thread (again, R226)
  | benchSelf (va : Nat)               -- BENCHO of the own slot, for the vector instruction of its pair (R226)
  | rollback (scope : Nat)             -- R135 step 5
  | stall                              -- SEND while VC0 stalls (again, R39)
  | reach                              -- XINV: accesses of other threads (again, R383)
deriving DecidableEq, Repr

/-- What the end of a pair leaves to do once its A-class instruction has written back: a TRAP, a GO, a BENCHO of the issuing slot with the
address of its image, the end of an EXIT (R51, R54, R221, R226, R301). -/
inductive Late where
  | trap (c : Cause)
  | go (e : Nat)
  | bench (va : Nat)
  | exit
deriving DecidableEq, Repr

/-- READY or WAITING (Table 2.1). A BENCHED thread stands in a bench, a PARKED one in `parked`. -/
inductive TState where
  | ready
  | waiting (w : Wait)
deriving DecidableEq, Repr

/-- A word on its way to, or in, a loop-port queue, with the sender whose credit it holds, its launch (R46) and
its scope (R106). -/
structure LpWord where
  word : Word
  slot : Nat
  port : Nat
  srcE : Nat
  srcSlot : Nat
  srcPort : Nat
  srcTid : Nat := 0
  lk : Nat := 0
  scope : Nat := 0
deriving DecidableEq, Repr

/-- A thread: its context (R225) and the part's bookkeeping for it: `tid` names it wherever it stands, `lk` is its launch while
it stands in no slot, `img` the address of its bench image and `imgNo` the number of that image, `handler` is 1 for a message
handler and 2 for the ABSENT trap's, `wokenAt` the cycle in which its last wait ended (R26), `ssn` counts its FENCE.SS at
package scope or wider (R103), `pops` names the loop ports whose words go when its reply comes (R54, R223), `after` is what is to
happen when its arithmetic ends, `voteW` the bundle under VOTE (R271), `vfl` the cycle of the last vector completion with the flags
raised in it (R139), `from_` the etlet that a GO left (R195). (DESIGN CHOICE, log 7) -/
structure Thread where
  tid : Nat := 0
  kid : Nat := 0
  pc : Word := 0
  st : TState := .ready
  base : Nat := 0
  limit : Nat := 0
  vbase : Nat := 0
  vlimit : Nat := 0
  g : KMap Word := []
  v : KMap Vec := []
  rank : Word := 0
  teamix : Word := 0
  shape : Word := 0
  ftab : Word := 0
  stab : Word := 0
  lc0 : Word := 0
  lc1 : Word := 0
  ls0 : Word := 0
  le0 : Word := 0
  ls1 : Word := 0
  le1 : Word := 0
  status : Word := 0
  estatus : Word := 0
  epc : Word := 0
  ecause : Word := 0
  eval : Word := 0
  svec : Word := 0
  sscr : Word := 0
  fcsr : Word := 0
  policy : Word := 0
  dpart : Nat := 0
  dsel : Nat := 0
  chan : KMap Word := []
  credits : KMap Nat := []
  inq : KMap (List LpWord) := []
  foul : Word := 0
  events : List Cause := []
  skip : Nat := 0
  issuedAt : Option Nat := none
  yieldAt : Option (Nat × List Nat) := none
  waitD : Nat := 112
  res : Word := 0
  resAt : Nat := 0
  flags : Nat := 0
  deferred : Option (Instr × Latch) := none
  kill : Option Nat := none
  votes : List Latch := []
  issues : Nat := 0
  gangN : Nat := 0
  gangLead : Nat := 0
  pend : List (Nat × Nat) := []
  grants : List Nat := []
  handler : Nat := 0
  partner : Option Nat := none
  trail : Bool := false
  lastSlot : Nat := 0
  lk : Nat := 0
  img : Nat := 0
  imgNo : Nat := 0
  wokenAt : Option Nat := none
  ssn : Nat := 0
  pops : List Nat := []
  after : Option Late := none
  voteW : Nat := 0
  vfl : Option (Nat × Nat) := none
  from_ : Nat := 0
deriving DecidableEq, Repr

/-- One entry of a translation cache (R75): a valid leaf, its page and size, its key ID. -/
structure TEntry where
  vpage : Nat
  level : Nat
  leaf : Word
  key : Nat
deriving DecidableEq, Repr

/-- What a memory request asks of the home; `bytes` is a run of byte stores, `read` the byte loads of a PLOAD into register `d` (R187). -/
inductive MemOp where
  | load (width : Nat) (signed : Bool)
  | read (d : Nat) (l : List Nat)
  | store (width : Nat) (data : Word)
  | bytes (l : List Nat)
  | amo (op width : Nat) (y : Word)
  | cas (width : Nat) (expect new : Word)
  | ldf | ldfe
  | stf (data : Word) | ste (data : Word) | sete | setf
  | fagg (width : Nat) (y : Word)
  | mfalloc (granules : Nat) (mirror : Bool) (b : Nat)
  | mffree (va : Word)
  | mfquota
  | mfstat (va : Word)
deriving DecidableEq, Repr

/-- A held store (R109). -/
structure Held where
  gpa : Nat
  width : Nat
  data : Word
  slot : Nat
  tid : Nat
  key : Nat
  va : Word
  scope : Nat
  epoch : Nat
  ca : Bool
  rank : Word
  ssn : Nat := 0
  born : Nat := 0
  no : Nat := 0
deriving DecidableEq, Repr

/-- An undo-log entry (R134). -/
structure Undo where
  gpa : Nat
  old : Word
  empty : Bool
  epoch : Nat
deriving DecidableEq, Repr

/-- An epoch boundary whose verdict is pending (R133): the object and the decision that released the team, the epoch that it opened and
the contexts recorded at it. -/
structure Bound where
  object : Nat
  dec : Nat
  scope : Nat
  epoch : Nat
  ctx : List Thread
deriving DecidableEq, Repr

/-- The checkpoint of an etlet team (R133 to R136, Table 6.13): `saved` holds the contexts to go back to, `cut` the first epoch after
them, `bounds` the boundaries whose verdicts are pending, oldest first. -/
structure Ckpt where
  on : Bool := false
  holding : Bool := false
  lapsed : Bool := false
  reason : Nat := 0
  held : List Held := []
  undo : List Undo := []
  epoch : Nat := 0
  saved : Option (List Thread) := none
  cut : Nat := 0
  bounds : List Bound := []
  scope : Nat := 0
  rolled : Nat := 0
deriving DecidableEq, Repr

/-- A kernel on an etlet (R24, R27, R29, R72, R243). `pmAt` holds the cycle of the last fixed-latency write of a permutation
register (R188). -/
structure Kernel where
  launch : Nat := 0
  key : Nat := 0
  vix : Nat := 0
  root : Word := 0
  right : Word := 0
  cm : KMap (List (Nat × Word)) := []
  pregs : Nat := 0
  pbase : Nat := 0
  pm : KMap Perm := []
  pmAt : KMap Nat := []
  rr : Nat := 63
  battery : Bool := false
  ckpt : Ckpt := {}
deriving DecidableEq, Repr

/-- A store-buffer entry, or a posted store under way (R99, R194). `done` is 1 once it has taken effect at another package, 2 and 3 where
it failed (abort, LOST); `ssn` is its thread's count of FENCE.SS (R103), `dobj` one more than the sync object whose confirmation
drained it from the hold queue (R109), `sf` the operation of a full/empty store, `sends` how often a request has left (R204), `born` the
number of the next bench image when it was issued (R98), `no` its place in the order in which the etlet's stores were issued (R99, R136),
`epoch` its team's epoch then (R135), `went` and `come` as in a request. -/
structure SEntry where
  slot : Nat
  tid : Nat
  gpa : Nat
  width : Nat
  data : Word
  key : Nat
  va : Word
  scope : Nat := 0
  ca : Bool := false
  launch : Nat := 0
  rank : Word := 0
  seq : Nat := 0
  done : Nat := 0
  sent : Nat := 0
  ssn : Nat := 0
  dobj : Nat := 0
  sf : Option MemOp := none
  sends : Nat := 1
  born : Nat := 0
  no : Nat := 0
  epoch : Nat := 0
  went : Bool := false
  come : Bool := false
deriving DecidableEq, Repr

/-- The answer to a request. -/
inductive Reply where
  | val (v : Word)
  | bytes (l : List Nat)
  | abort
  | lost
  | hazard
  | joined
deriving DecidableEq, Repr

/-- A request whose reply the thread awaits (R194, R204); `stamp` is the die's acquire stamp when it left (R81), `went` whether a copy has
gone through a fabric port (R195), `come` whether one has reached its target and waits there. -/
structure Req where
  seq : Nat
  slot : Nat
  tid : Nat
  op : MemOp
  gpa : Nat
  va : Word
  key : Nat
  scope : Nat
  ca : Bool
  sent : Nat
  sends : Nat := 1
  reply : Option Reply := none
  stamp : Nat := 0
  went : Bool := false
  come : Bool := false
deriving DecidableEq, Repr

/-- A request on a full/empty wait list (R87). -/
structure FeReq where
  tid : Nat
  op : MemOp
  va : Word
  key : Nat
  scope : Nat := 0
deriving DecidableEq, Repr

/-- The copy-engine commands (R159, R207). -/
inductive CopyKind where
  | cpy | cpyf | cpyg | cpyp | cpyr | cpys | put | get
deriving DecidableEq, Repr

/-- A command of the copy engine (R161); `moved` holds the words that a running one has already moved (R100), `ixs` the index entries
that it has read, `scope` the scope of what it moved (R106). -/
structure CopyCmd where
  seq : Nat
  kind : CopyKind
  dst : Word
  src : Word
  len : Nat
  rows : Nat := 0
  idx : Word := 0
  perm : Perm := []
  ring : Nat := 0
  mc : Bool := false
  tag : Nat := 64
  tid : Nat
  slot : Nat
  kid : Nat
  user : Bool
  rc : Option (Nat × Nat) := none
  lc : Option Nat := none
  running : Bool := false
  moved : List Nat := []
  ixs : KMap Nat := []
  scope : Nat := 1
  arrived : Bool := false
  logged : Bool := true
  pc : Word := 0
  body : Nat := 0
  lk : Nat := 0
  key : Nat := 0
  root : Word := 0
  rank : Word := 0
  teamix : Word := 0
deriving DecidableEq, Repr

/-- A dispatch-log entry (R175, Table 8.15). -/
structure DEntry where
  seq : Nat
  slot : Nat
  tid : Nat
  pc : Word
  body : Nat
  cause : Option (Nat × Word) := none
  read : Bool := false
deriving DecidableEq, Repr

/-- A tile in a ring slot (R166). `src` names the CPYR that reserved it: 65,536 * etlet + its tag. -/
structure Tile where
  slot : Nat
  src : Nat := 0
  complete : Bool := false
  faulted : Bool := false
  claimed : Bool := false
  bytes : Nat := 0
deriving DecidableEq, Repr

/-- A ring (R163 to R167). -/
structure Ring where
  kid : Nat
  base : Nat
  lines : Nat
  k : Nat
  fmt : Nat
  sp : Nat
  tiles : Nat
  head : Nat := 0
  tail : Nat := 0
  q : List Tile := []
deriving DecidableEq, Repr

/-- An accumulator: its type (0 AF48, 1 INT48, 2 FP64) and its cells, row * 64 + column (R171). -/
structure Acc where
  ty : Nat := 0
  cells : KMap Word := []
deriving DecidableEq, Repr

/-- An MMA waiting or running (R170), or the place among them of an ACLR, ASTO or ALD that waits for the earlier ones: `aux` is
then the type that it gives the accumulator, 3 for none (R172). -/
structure MmaCmd where
  tid : Nat
  ra : Nat
  rb : Nat
  ac : Nat
  fm : Nat
  sp : Nat
  z : Bool
  perm : Option Perm
  seq : Nat
  started : Option Nat := none
  aux : Option Nat := none
  lk : Nat := 0
deriving DecidableEq, Repr

/-- A dispatched vector instruction (R173). `vs` holds its vector sources as its bundle read them (R51), `got` the lanes that a VLD or
VST has moved, each with what was loaded (R100), `out` its result once started: the value, the flags and whether it faulted. -/
structure VOp where
  seq : Nat
  tid : Nat
  slot : Nat
  instr : Instr
  scal : List Word
  rm : Nat
  perm : Perm := []
  vs : List (Nat × Vec) := []
  rep : Bool := false
  got : KMap Nat := []
  out : Option (Vec × Nat × Bool) := none
deriving DecidableEq, Repr

/-- The repetition buffer (R174). `ops` holds the captured instructions with their bundle's address and body. -/
structure RepBuf where
  owner : Nat
  capture : Bool := true
  ops : List (Instr × Word × Nat) := []
  pass : Nat := 0
  at_ : Nat := 0
  count : Nat := 0
  stride : Int := 0
deriving DecidableEq, Repr

/-- A request to the route solver (R188). `held`: the C-class instruction of its bundle still awaits its reply; `fin`: solved meanwhile. -/
structure Solve where
  tid : Nat
  kid : Nat
  d : Nat
  perm : Perm
  lk : Nat := 0
  held : Bool := false
  fin : Bool := false
deriving DecidableEq, Repr

/-- An armed trigger (R208). -/
structure Trig where
  kid : Nat
  tid : Nat
  rank : Word
  word : Nat
  cmd : CopyCmd
deriving DecidableEq, Repr

/-- An active message (R39), with its scope (R106), the etlet that sent it (R195) and the cycle in which it did. -/
structure Msg where
  launch : Nat
  sender : Word
  words : List Word
  scope : Nat := 0
  src : Nat := 0
  sent : Nat := 0
deriving DecidableEq, Repr

/-- A thread in a FAGG group: its addend and its own address (R278, R305). -/
structure FaggMember where
  tid : Nat
  y : Word
  va : Word := 0
deriving DecidableEq, Repr

/-- A FAGG group (R305), its members in joining order; one that travels to another package is a request (R194, R204). -/
structure FaggGroup where
  gpa : Nat
  width : Nat
  kid : Nat
  key : Nat
  va : Word
  opened : Nat
  members : List FaggMember
  lk : Nat := 0
  seq : Nat := 0
  sent : Option Nat := none
  sends : Nat := 1
  reply : Option Reply := none
  went : Bool := false
  come : Bool := false
deriving DecidableEq, Repr

/-- A line of an L1 or of a remote-data cache (R79, R81). -/
structure CLine where
  line : Nat
  key : Nat
  stamp : Nat
  home : Bool
  data : BitVec 512
deriving DecidableEq, Repr

/-- A wake held for a benched thread (R43): the value its d receives; `task` says that it is an entry of the task queue, `scope` is the
scope of the acquire that it makes (R108). (DEDUCED, log 88) -/
structure HeldWake where
  tid : Nat
  val : Option Word
  task : Bool
  scope : Nat := 0
deriving DecidableEq, Repr

/-- An ABSENT trap still to be raised (R43): the launch and the slot, EVAL, of the benched thread. -/
structure Absent where
  lk : Nat
  slot : Nat
deriving DecidableEq, Repr

/-- What the dugout forwards after a MAPSET (R47). -/
inductive Fwd where
  | msg (m : Msg)
  | go (t : Thread)
  | word (w : LpWord)
deriving DecidableEq, Repr

/-- A bench image still to be written (R225): its number, the key ID, the thread that executed BENCHO with its launch and rank,
and the parts to come, (physical address, bytes), of which `off` bytes of the image stand before; `ssn` as of its other stores. -/
structure BenchW where
  no : Nat
  key : Nat
  tid : Nat := 0
  lk : Nat := 0
  rank : Word := 0
  va : Word := 0
  off : Nat := 0
  ssn : Nat := 0
  parts : List (Nat × Nat)
deriving DecidableEq, Repr

/-- What a gang member was before the bundle in progress: its context, the numbers of its dispatched vector instructions, the length of its
capture (R38). -/
structure GangBack where
  ctx : Thread
  seqs : List Nat := []
  caps : Nat := 0
deriving DecidableEq, Repr

/-- One etlet (Table 1.2). `crIn` holds the credits on their way to it (slot, port, thread); `bench` the contexts the bench keeps, `benchOut`
those that stand only in an image (thread, image), `benchW` the image writes to come; `drainq` the confirmed held stores on their way into the
store buffer (R109); `fired` the PUTs of fired triggers for which the copy engine has no room yet (R161); `tagNew` the tags that were set in
cycle `tagAt` (R178); `fwd` what the dugout forwards after a MAPSET, with its destination, in arrival order; `out`: the etlet has left the
core map (Table 11.12); `gangBack` what the members of gangs were before the bundle in progress, by slot (R38). (DEDUCED, log 106) -/
structure Etlet where
  threads : KMap Thread := []
  slots : KMap Nat := []
  lend : Nat := 0
  kernels : KMap Kernel := []
  lastKey : Option Nat := none
  detect : Bool := false
  tcache : List TEntry := []
  l1 : List CLine := []
  sbuf : List SEntry := []
  drainq : List SEntry := []
  posted : List SEntry := []
  reqs : KMap Req := []
  reqSeq : Nat := 0
  bench : List Thread := []
  benchOut : List (Nat × Nat) := []
  benchW : List BenchW := []
  copyq : List CopyCmd := []
  fired : List CopyCmd := []
  tags : Word := 0
  tagScope : KMap Nat := []
  tagAt : Nat := 0
  tagNew : Word := 0
  dlog : List DEntry := []
  dnext : Nat := 0
  dnextAt : Option Nat := none    -- the cycle in which dnext last changed, and its value before (R295)
  dnextOld : Nat := 0
  rings : KMap Ring := []
  acc0 : Acc := {}
  acc1 : Acc := {}
  mmas : List MmaCmd := []
  vq : List VOp := []
  vrb : Option RepBuf := none
  solver : List Solve := []
  sc : KMap Nat := []
  scScope : KMap Nat := []
  scWait : KMap (List (Nat × Nat)) := []
  trigs : KMap Trig := []
  inbox : List Msg := []
  msgs : List Msg := []
  lpIn : List LpWord := []
  crIn : List (Nat × Nat × Nat) := []
  held : List HeldWake := []
  heldLp : List (Nat × LpWord) := []
  absent : List Absent := []
  goIn : List Thread := []
  parked : List Thread := []
  fwd : List (Nat × Fwd) := []
  fagg : List FaggGroup := []
  ksel : Nat := 0
  slotix : Nat := 0
  cmapix : Nat := 0
  schedvec : Word := 0
  svtab : Word := 0
  keyslot : Nat := 0
  mfqset : Word := 0
  lastTurn : Option Nat := none
  out : Bool := false
  gangBack : KMap GangBack := []
deriving DecidableEq, Repr

/-- A slice queue (R190 to R192). -/
structure Queue where
  launch : Option Nat := none
  gen : Nat := 0
  cap : Nat := 4096
  items : List Word := []
  deqs : List Nat := []
  enqs : List (Nat × Word) := []
deriving DecidableEq, Repr

/-- A sweeper (R180 to R184). `pending` holds the deferred points: (point index, deferrals, first deferral). -/
structure Sweeper where
  launch : Option Nat := none
  gen : Nat := 0
  first : Nat := 0
  count : Nat := 0
  base : Nat := 0
  stride : Nat := 1
  map : Nat := 0
  eid : Nat := 0
  key : Nat := 0
  root : Word := 0
  user : Bool := true
  pass : Nat := 0
  passAt : Nat := 0
  todo : List Nat := []
  pending : List (Nat × Nat × Nat) := []
  ready : List Nat := []
  out : Nat := 0
  forced : Nat := 0
  deferred : Nat := 0
  waiters : List Nat := []
deriving DecidableEq, Repr

/-- A cluster's slice and shared units (R13). -/
structure Cluster where
  tcache : List TEntry := []
  l2 : List (Nat × Nat) := []
  writes : List Nat := []
  queues : KMap Queue := []
  sweepers : KMap Sweeper := []
  out : Bool := false
  badLines : List Nat := []
deriving DecidableEq, Repr

/-- A page move of the migration engine (R91, R92); `moved` once NEWLEAF is written and its XINV under way. -/
structure Migration where
  src : Word := 0
  dst : Word := 0
  size : Word := 0
  entry : Word := 0
  newleaf : Word := 0
  score : Word := 0
  busy : Bool := false
  moved : Bool := false
  status : Nat := 0
deriving DecidableEq, Repr

/-- A work request of the network engine (R216): `cmd` holds its local buffer and whom it acts for, `placed` the bytes a
SEND has offered to a RECV, `bound` the message that fills it, `down` whether the engine was not ready when it was issued (R368). -/
structure Wrq where
  id : Nat
  op : Nat
  record : Bool
  cmd : CopyCmd
  peer : Nat
  rkey : Nat
  off : Nat
  sc : Option Nat
  eid : Nat
  placed : Nat := 0
  bound : Option Nat := none
  down : Bool := false
deriving DecidableEq, Repr

/-- An entry of a supervisor's region table (R216): where a remote WRITE lands, under which key ID, and the counter (etlet,
number) that it advances. -/
structure UeRegion where
  base : Nat
  len : Nat
  key : Nat
  sc : Option (Nat × Nat)
deriving DecidableEq, Repr

/-- An entry of the dedup table (R204). -/
structure Dedup where
  src : Nat
  seq : Nat
  reply : Reply
  at_ : Nat
deriving DecidableEq, Repr

/-- One compute die with its base die (R10, R11). `failing` holds the lines whose data failed a check, until the self-test that follows,
`testsDue` the self-tests, (unit, address), that wait for the test engine (R231). (DEDUCED, log 70) -/
structure Die where
  stamp : Nat := 0
  rdc : List CLine := []
  heat : KMap Nat := []
  accesses : Nat := 0
  mig : Migration := {}
  ueNext : Nat := 1
  ueSend : List Wrq := []
  ueRecv : List Wrq := []
  ueRecs : KMap (List Word) := []
  ueResent : Nat := 0
  uePeers : KMap Nat := []
  ueRegions : KMap UeRegion := []
  dedup : List Dedup := []
  testUnit : Option Nat := none
  testGpa : Option Nat := none
  testFailed : Bool := false
  testTid : Option Nat := none
  testsDue : List (Nat × Nat) := []
  failing : List Nat := []
  meas : List Nat := [0, 0, 0, 0]
  stopsOff : List (Nat × Nat) := []
  stopUsed : List (Nat × Nat × Nat) := []
  reserved : List (Nat × Nat) := []
  corrected : Nat := 0
  irq : Bool := false
  limit : Nat := 0
deriving DecidableEq, Repr

/-- An entry of a fault record (Table 11.10). -/
structure FaultRec where
  eval : Word
  rank : Word
  code : Nat
  level : Nat
  act : Nat := 0
  dbl : Bool := false
  only : Bool := false
deriving DecidableEq, Repr

/-- A resident launch (R31 to R35, R230). The launch key is 64 * launching package + L. -/
structure Launch where
  entry : Word := 0
  args : Word := 0
  doneAddr : Nat := 0
  doneVal : Word := 0
  slotmask : Word := 0
  pkgs : List Nat := []
  place : List Nat := []
  threads : Nat := 0
  etlets : Nat := 0
  clusters : Nat := 0
  dies : Nat := 0
  packages : Nat := 0
  domains : Nat := 0
  regs : Nat := 0
  vregs : Nat := 0
  pregs : Nat := 0
  policy : Nat := 0
  key : Nat := 0
  modes : Nat := 0
  stack : Nat := 0
  live : List Nat := []
  cmap : KMap Nat := []
  faults : List FaultRec := []
  overflow : Nat := 0
  ended : Bool := false
  done : Bool := false
deriving DecidableEq, Repr

/-- A fabric port (Table 10.3). State 0 TRAINING, 1 UP, 2 MISMATCH, 3 OUT; `plain` are the virtual channels that bring-up left without
encryption (R199), `recSeq` the sequence number of its link-state record (R203), `lacks` the first flit that its receiver has asked for
again (R201). (DEDUCED, log 122) -/
structure Port where
  state : Nat := 0
  speed : Nat := 3
  lanes : Nat := 15
  fails : Nat := 0
  auth : Nat := 0
  rxNext : Nat := 0
  txNext : Nat := 0
  unacked : List Nat := []
  resend : List Nat := []
  plain : Nat := 0
  recSeq : Nat := 0
  lacks : Option Nat := none
deriving DecidableEq, Repr

/-- A voltage domain (R248, R249): `raised` once the health monitor has raised the voltage of its freeze by a step, `errors` the cycles of
its corrected errors, `measuring` the cycle in which the measurement at full guardband began. -/
structure Uv where
  step : Nat := 0
  raised : Bool := false
  errors : List Nat := []
  failures : Nat := 0
  measuring : Option Nat := none
deriving DecidableEq, Repr

/-- What a critical packet carries (Table 10.1): a containment event of a launch and its cause, a fault record write, the notice of a lost
region's access, a switch loss, a port's state. -/
inductive Notice where
  | event (lk code : Nat)
  | fault (lk : Nat) (f : FaultRec)
  | lost (lk : Nat) (va : Word)
  | switch (sw : Nat)
  | port (port state : Nat)
deriving DecidableEq, Repr

/-- A critical packet of a package: its number, the ports that carried it, what it says (R202). -/
structure Critical where
  no : Nat
  ports : List Nat
  what : Notice
deriving DecidableEq, Repr

/-- A flow's place (R195): its port, whether it stalls, and the cycle in which its last packet left. -/
structure Flow where
  port : Nat
  stalled : Bool := false
  last : Nat := 0
deriving DecidableEq, Repr

/-- A link between two packages (R11, R119): the port of each, 0 to 35 a fabric port, 36 + d the network engine of die d. -/
structure Link where
  a : Nat
  ap : Nat
  b : Nat
  bp : Nat
deriving DecidableEq, Repr

/-- One package (R10, R234 to R249). `crit` holds the last critical numbers accepted from each source, `critIn` what they said, oldest
first, `critNext` the next of its own, `critSent` those sent (R202); `cqrun` and `rqrun` are the bases at which the queues run (R238);
`booted` is what the flash held at power-up (R244). -/
structure Pkg where
  ready : Word := 0
  clusters : KMap Word := []
  dies : Nat := 0
  retired : List Nat := []
  retireTable : List Nat := []
  tableFull : Bool := false
  flash : KMap Nat := []
  power : KMap Nat := []
  cqbase : Word := 0
  rqbase : Word := 0
  cqrun : Word := 0
  rqrun : Word := 0
  hseqacc : Word := 0
  dseqiss : Word := 0
  rhead : Word := 0
  state : Nat := 0
  running : Bool := false
  restart : Bool := false
  cdoor : Word := 0
  cmd : Option (Word × List Byte) := none
  stopped : Bool := false
  backlog : List (Word × Nat × Word) := []
  keys : KMap Nat := []
  ports : KMap Port := []
  flows : KMap Flow := []
  crit : KMap (List Nat) := []
  critIn : List (Nat × Notice) := []
  critNext : Nat := 0
  critSent : List Critical := []
  uvEn : Nat := 0xFFFFF
  uvFrozen : Nat := 0
  uv : KMap Uv := []
  boot : Nat := 0
  booted : KMap Nat := []
deriving DecidableEq, Repr

/-- A midfield region (R211 to R214). State 0 OK, 1 DEGRADED, 2 LOST. `charged` granules count against the quota; an MFFREE
in progress has `unmapped` it (R331); `gone` names the copies that were lost. -/
structure Region where
  launch : Nat
  va : Nat
  granules : Nat
  copies : List (Nat × Nat)
  state : Nat := 0
  key : Nat := 0
  charged : Nat := 0
  unmapped : Bool := false
  gone : List (Nat × Nat) := []
deriving DecidableEq, Repr

/-- The midfield switches and quotas of a domain (R210 to R214), and each switch's next critical number (R202). -/
structure Domain where
  switches : List Nat := []
  quota : KMap (Nat × Nat) := []
  keys : KMap Nat := []
  regions : List Region := []
  crit : KMap Nat := []
deriving DecidableEq, Repr

/-- What a node sends to its neighbours in a round (R117): its tree values, its phase with the decision that produced it, its clock, and
whether it has reported its phase complete and still is. -/
structure NodeView where
  root : Nat := 0
  dist : Nat := 0
  ph : Nat := 0
  mark : Option Nat := none
  c : Nat := 0
  full : Bool := false
deriving DecidableEq, Repr

/-- A completion report (R121, R124): the node's PH, CNT and ARR as it reported, and whether clauses 1, 2 and 4 of R122 held there. -/
structure SyncRep where
  ph : Nat
  cnt : Nat
  arr : Nat
  ok : Bool
deriving DecidableEq, Repr

/-- A node of a sync object's tree (R119, Table 6.7, R125, R127). A waiter is (tid, participant bit, waits). `up` is the parent that the
hierarchy of Table 6.1 fixes, `parent` the PARENT cell (none: the node's own number), `rep` the report of the phase, `gdec` the decision
of the grant, `pub` what the neighbours received last before the node's own round start in cycle `pubAt`. -/
structure Node where
  root : Nat := 0
  dist : Nat := 0
  up : Option Nat := none
  parent : Option Nat := none
  ph : Nat := 0
  arr : Nat := 0
  cnt : Nat := 0
  x : Nat := 0
  c : Nat := 0
  waits : List (Nat × Nat × Bool) := []
  rep : Option SyncRep := none
  tokq : List Nat := []
  grant : Option Nat := none
  gdec : Nat := 0
  gone : List Nat := []
  mark : Option Nat := none
  absent : Bool := false
  pub : NodeView := {}
  pubAt : Option Nat := none
deriving DecidableEq, Repr

/-- A decision awaiting its verdict (R124, R126, R127): `ok` says whether the snapshot holds, `tree` whether the tree was legitimate at the
end of the deciding round; `left` are the threads it released that have ended since (thread, etlet, rank). -/
structure Decision where
  id : Nat
  made : Nat
  ok : Bool
  tree : Option Bool := none
  verdict : Option Bool := none
  left : List (Nat × Nat × Word) := []
deriving DecidableEq, Repr

/-- A sync object (R113, Table 6.2). Its key is (station * 8 + scope) * 4096 + index, the station being the home, at scopes 5 and 6 the
first package station of the domain, whose objects have one index space. `vix` is the handle's ETL. -/
structure SyncObj where
  launch : Nat
  gen : Nat
  kind : Nat
  scope : Nat
  t : Nat
  home : Nat
  vix : Nat := 0
  nodes : KMap Node
  decisions : List Decision := []
deriving DecidableEq, Repr

/-- A station at one scope: its generations per index, the start of its round and the cycle after its last
round end, and per launch the legitimacy flag and the count of rounds ended illegitimate (R117, R128). -/
structure Station where
  gens : KMap Nat := []
  roundAt : Nat := 0
  endAt : Nat := 0
  legit : KMap Bool := []
  bad : KMap Nat := []
deriving DecidableEq, Repr

/-- A sync message under way (R121): a child's completion report or a parent's phase. -/
inductive SyncMsg where
  | report (obj child phase : Nat)
  | phase (obj node phase : Nat) (dec : Option Nat)
  | verdict (tid obj scope dec : Nat) (ok : Bool)
deriving DecidableEq, Repr

/-- What acts next (one entry of the agenda). (DESIGN CHOICE, log 4) -/
inductive Move where
  | event (i : Instr)
  | turn (e : Nat)
  | tick (n : Nat)
deriving DecidableEq, Repr

/-- The whole machine. `images` holds by its image's number each context that stands only there, `spent` those that have been
restored from the image or the bench since (R225). `feEng` gives for a word that an engine filled the scope of that engine
operation (R106); `phase` is how far the events of cycle `now` have come, `poked` whether a SPOKE has acted in it and `passed`
whether a TOKR has (R131, R132, R178, R193, R365). (DESIGN CHOICE, log 124) -/
structure State where
  mem : Memory := []
  fe : List Nat := []
  feKey : KMap Nat := []
  feq : KMap (List FeReq) := []
  feEng : KMap Nat := []
  owner : KMap (Nat × Nat) := []
  thr : Option Thread := none
  slot : Nat := 0
  etl : Etlet := {}
  eid : Nat := 0
  etlets : KMap Etlet := []
  clusters : KMap Cluster := []
  dies : KMap Die := []
  pkgs : KMap Pkg := []
  domains : KMap Domain := []
  launches : KMap Launch := []
  objs : KMap SyncObj := []
  stations : KMap Station := []
  smsgs : List SyncMsg := []
  images : KMap (List Thread) := []
  spent : KMap (List Thread) := []
  links : List Link := []
  now : Nat := 0
  agenda : List Move := []
  phase : Nat := 0
  poked : Bool := false
  passed : Bool := false
  nextTid : Nat := 1
  free : Nat := 0
  trap : Option Cause := none
  latch : Option Latch := none
  ph : Nat := 0
  adv : Bool := false
  late : Option Cause := none
  lateSt : Option Word := none
  lateGo : Option Nat := none
  lateBench : Option Nat := none
  bundle : Nat := 0
  bpc : Word := 0
deriving DecidableEq, Repr

/-- The ways the machine stops. (DESIGN CHOICE, log 9) -/
inductive Fault where
  /-- Raised by the step when the agenda gives a turn to an etlet that the system does not have (R17 names the
  endpoints). Safe: the part has no such step. -/
  | noSuchEndpoint
deriving DecidableEq, Repr

/-- The instructions the model refuses. -/
inductive Refusal where
  /-- Raised by an arm of `exec` that has no meaning yet. Safe: nothing is proved of it. -/
  | notModelled (mnemonic : String)
deriving DecidableEq, Repr

/-- The machine right after power-on reset (R241): package 0 present with every READY bit clear, no kernel,
no thread, memory with nothing listed. (DESIGN CHOICE, log 1) (DESIGN CHOICE, log 3) -/
def State.reset : State :=
  { pkgs := [(0, {})] }

end Sys2Proof.Machine
end

