-- ==== Sys2Proof/Machine/Base.lean ====
section
/-! DEFINITION. Keyed collections, the focus on one etlet and one thread, the register file, the common
registers, and control flow (loop end test, jumps). -/

namespace Sys2Proof.Machine

/-- The value under key `k`, if there is one. -/
def kget {α : Type} : KMap α → Nat → Option α
  | [], _ => none
  | (j, v) :: m, k => if j = k then some v else kget m k

/-- The value under key `k`, or `d`. -/
def kgetD {α : Type} (m : KMap α) (k : Nat) (d : α) : α := (kget m k).getD d

/-- Puts `v` under `k`: in the place of its entry, else where it keeps keys ascending. -/
def kput {α : Type} : KMap α → Nat → α → KMap α
  | [], k, v => [(k, v)]
  | (j, w) :: m, k, v =>
    if j = k then (k, v) :: m else if k < j ∧ (kget m k).isNone then (k, v) :: (j, w) :: m else (j, w) :: kput m k v

/-- Removes key `k`. -/
def kdel {α : Type} : KMap α → Nat → KMap α
  | [], _ => []
  | (j, w) :: m, k => if j = k then kdel m k else (j, w) :: kdel m k

/-- Puts or removes. -/
def kset {α : Type} (m : KMap α) (k : Nat) : Option α → KMap α
  | none => kdel m k
  | some v => kput m k v

/-- Changes the value under `k`, `d` standing for an absent one. -/
def kmod {α : Type} (m : KMap α) (k : Nat) (d : α) (f : α → α) : KMap α := kput m k (f (kgetD m k d))

/-- Applies `f` to every value. -/
def kmap {α : Type} (m : KMap α) (f : α → α) : KMap α := m.map (fun p => (p.1, f p.2))

/-- Changes the first element that `p` accepts. -/
def mapFirst {α : Type} (p : α → Bool) (f : α → α) : List α → List α
  | [] => []
  | x :: l => if p x then f x :: l else x :: mapFirst p f l

/-- The lowest number below `n`, from `i`, that `p` accepts. -/
def lowest (p : Nat → Bool) : Nat → Nat → Option Nat
  | _, 0 => none
  | i, n + 1 => if p i then some i else lowest p (i + 1) n

/-- Repeats `f` over the numbers `i`, `i + 1`, … (`n` of them). -/
def loop {α : Type} (f : Nat → α → α) : Nat → Nat → α → α
  | _, 0, a => a
  | i, n + 1, a => loop f (i + 1) n (f i a)

/-- Bits [h:l] of a word, unsigned (R5, R8). -/
def bits (w : Word) (h l : Nat) : Nat := (w.toNat / 2 ^ l) % 2 ^ (h + 1 - l)

/-- The word with bits [l+n-1:l] replaced by `v`. -/
def setBits (w : Word) (l n v : Nat) : Word :=
  BitVec.ofNat 64 (w.toNat - (w.toNat / 2 ^ l % 2 ^ n) * 2 ^ l + (v % 2 ^ n) * 2 ^ l)

/-- SignExtend of the low `n` bits of `v` to 64 bits (R8). -/
def sext (v n : Nat) : Word :=
  let x := v % 2 ^ n
  if n = 0 then 0 else if 2 ^ (n - 1) ≤ x then BitVec.ofInt 64 (Int.ofNat x - Int.ofNat (2 ^ n)) else BitVec.ofNat 64 x

/-- A number as a word (R142). -/
def wd (n : Nat) : Word := BitVec.ofNat 64 n

/-! ### Focus -/

/-- The thread in focus (an empty one where the slot is free). -/
def State.th (s : State) : Thread := s.thr.getD {}

/-- Changes the thread in focus. -/
def State.modT (s : State) (f : Thread → Thread) : State := { s with thr := s.thr.map f }

/-- Changes the etlet in focus. -/
def State.modE (s : State) (f : Etlet → Etlet) : State := { s with etl := f s.etl }

/-- Changes etlet `e`, in focus or not. -/
def State.modEt (s : State) (e : Nat) (f : Etlet → Etlet) : State :=
  if e = s.eid then s.modE f else { s with etlets := kmod s.etlets e {} f }

/-- The focus written back. -/
def State.save (s : State) : State :=
  let et := { s.etl with threads := kset s.etl.threads s.slot s.thr }
  { s with etlets := kput s.etlets s.eid et }

/-- Puts slot `l` of etlet `e` in focus. -/
def State.focus (s : State) (e l : Nat) : State :=
  let s1 := s.save
  let et := kgetD s1.etlets e {}
  { s1 with eid := e, slot := l, thr := kget et.threads l, etl := { et with threads := kdel et.threads l },
            etlets := kdel s1.etlets e }

/-- Runs `f` with slot `l` of etlet `e` in focus, and returns. -/
def within (e l : Nat) (f : State → State) (s : State) : State :=
  if e = s.eid ∧ l = s.slot then f s
  else (f (s.focus e l)).focus s.eid s.slot

/-- The slots of the etlet in focus that hold a thread. -/
def State.slotList (s : State) : List Nat := (kset s.etl.threads s.slot s.thr).map (·.1)

/-- The thread in slot `l` of the etlet in focus. -/
def State.threadAt (s : State) (l : Nat) : Option Thread := kget (kset s.etl.threads s.slot s.thr) l

/-- Every etlet that has state. -/
def State.etletIds (s : State) : List Nat := (kput s.etlets s.eid {}).map (·.1)

/-- Etlet `e`, with its threads. -/
def State.etletAt (s : State) (e : Nat) : Etlet := kgetD s.save.etlets e {}

/-- Runs `f` on every slot of the etlet in focus that `p` accepts. -/
def eachSlot (p : Thread → Bool) (f : State → State) (s : State) : State :=
  s.slotList.foldl (fun s l => if ((s.threadAt l).map p).getD false then within s.eid l f s else s) s

/-- Runs `f` with every etlet that `p` accepts in focus. -/
def eachEtlet (p : Nat → Bool) (f : State → State) (s : State) : State :=
  s.etletIds.foldl (fun s e => if p e then within e (if e = s.eid then s.slot else 0) f s else s) s

/-- The slot of etlet `et` whose thread is `tid`. -/
def slotOf (et : Etlet) (tid : Nat) : Option Nat := (et.threads.find? (fun p => p.2.tid = tid)).map (·.1)

/-- Where the thread `tid` is: its etlet and slot. -/
def State.whereTid (s : State) (tid : Nat) : Option (Nat × Nat) :=
  if (s.thr.map (·.tid)) = some tid then some (s.eid, s.slot)
  else s.save.etlets.findSome? (fun p => (slotOf p.2 tid).map (fun l => (p.1, l)))

/-- The etlet on whose bench the thread `tid` is. -/
def State.benchOf (s : State) (tid : Nat) : Option Nat :=
  (s.save.etlets.find? (fun p => p.2.bench.any (·.tid = tid) || p.2.benchOut.any (·.1 = tid))).map (·.1)

/-! ### Endpoints (Table 1.4) -/

/-- Endpoint identifier of user etlet `i` of die `d` (4 * package + die). -/
def etletEid (die i : Nat) : Nat := die * 2 ^ 13 + i * 8
/-- The die (4 * package + die) of an endpoint. -/
def dieOf (e : Nat) : Nat := e / 2 ^ 13
/-- The package of an endpoint. -/
def pkgOf (e : Nat) : Nat := e / 2 ^ 15
/-- The index field of an endpoint. -/
def idxOf (e : Nat) : Nat := e / 8 % 1024
/-- The port class of an endpoint. -/
def classOf (e : Nat) : Nat := e % 8
/-- The cluster of an endpoint: an etlet's, a slice's, a sweeper's or a station's own, and for a base-die agent the one of Table
1.3 to whose local loop it is attached (R13, R16), numbered 256 * package + 64 * die + cluster. -/
def clusterOf (e : Nat) : Nat :=
  dieOf e * 64 + (match classOf e with
    | 1 => if idxOf e = 8 then 63 else 8 * idxOf e
    | 2 => 7
    | 3 => if idxOf e < 64 then idxOf e else 27
    | 4 => idxOf e / 4
    | 5 => idxOf e
    | _ => idxOf e / 16)

/-- The narrowest scope that contains two etlets (Table 1.7, R106). -/
def scopeBetween (a b : Nat) : Nat :=
  if a = b then 1 else if clusterOf a = clusterOf b then 2 else if dieOf a = dieOf b then 3
  else if pkgOf a = pkgOf b then 4 else if pkgOf a / 1024 = pkgOf b / 1024 then 5 else 6

/-- Whether an identifier names an endpoint of a present package (R17). -/
def State.endpoint (s : State) (e : Nat) : Bool :=
  (kget s.pkgs (pkgOf e)).isSome &&
  (match classOf e with
   | 0 => true
   | 1 => decide (idxOf e ≤ 8)
   | 2 => decide (idxOf e = 0)
   | 3 => decide (idxOf e ≤ 64) || decide (idxOf e = 65 ∧ dieOf e % 4 = 0)
   | 4 => decide (idxOf e ≤ 255)
   | 5 => decide (idxOf e ≤ 63)
   | _ => false)

/-- Whether the etlet in focus is a gateway (R196). -/
def State.gateway (s : State) : Bool := decide (classOf s.eid = 1)

/-! ### The kernel and launch of the thread in focus -/

/-- The kernel of the thread in focus. -/
def State.kern (s : State) : Kernel := kgetD s.etl.kernels s.th.kid {}

/-- Changes that kernel. -/
def State.modK (s : State) (f : Kernel → Kernel) : State :=
  s.modE (fun e => { e with kernels := kmod e.kernels s.th.kid {} f })

/-- The launch key of the thread in focus. -/
def State.lkey (s : State) : Nat := s.kern.launch

/-- The launch of the thread in focus. -/
def State.lnch (s : State) : Launch := kgetD s.launches s.lkey {}

/-- The die of the etlet in focus. -/
def State.myDie (s : State) : Die := kgetD s.dies (dieOf s.eid) {}

/-- Changes die `d`. -/
def State.modDie (s : State) (d : Nat) (f : Die → Die) : State := { s with dies := kmod s.dies d {} f }

/-- Changes cluster `c`. -/
def State.modCl (s : State) (c : Nat) (f : Cluster → Cluster) : State := { s with clusters := kmod s.clusters c {} f }

/-- Changes package `p`, if it is present. -/
def State.modPkg (s : State) (p : Nat) (f : Pkg → Pkg) : State :=
  match kget s.pkgs p with
  | none => s
  | some k => { s with pkgs := kput s.pkgs p (f k) }

/-- Package `p`. -/
def State.pkg (s : State) (p : Nat) : Pkg := kgetD s.pkgs p {}

/-- Whether the thread in focus is in user mode (Table 11.1). -/
def State.user (s : State) : Bool := decide (bits s.th.status 0 0 = 0)

/-- Whether the slot in focus is a hand-off slot (R21). -/
def State.handoff (s : State) : Bool := decide (62 ≤ s.slot)

/-! ### Registers (R28, R58) -/

/-- What cycle `now` reads from a common register's writes: those of cycle `now` - 8 or earlier (R27). -/
def cmRead (now : Nat) : List (Nat × Word) → Word
  | [] => 0
  | (c, v) :: h => if (h.any (fun p => decide (p.1 + 8 ≤ now))) then cmRead now h else if c + 8 ≤ now then v else 0

/-- A write of cycle `now` added to the writes, superseded ones dropped (R27). -/
def cmWrite (now : Nat) (v : Word) (h : List (Nat × Word)) : List (Nat × Word) :=
  let old := h.filter (fun p => decide (p.1 + 8 ≤ now))
  let recent := h.filter (fun p => decide (now < p.1 + 8 ∧ p.1 ≠ now))
  (match old.getLast? with | some p => [p] | none => []) ++ recent ++ [(now, v)]

/-- The word at the head of inbound queue `k`. -/
def Thread.lpHead (t : Thread) (k : Nat) : Word :=
  match kgetD t.inq k [] with
  | w :: _ => w.word
  | [] => 0

/-- The value register `n` has now. -/
def State.live (s : State) (n : Nat) : Word :=
  let t := s.th
  if n < 112 then kgetD t.g n 0
  else match n with
  | 112 => 0
  | 113 => t.rank
  | 114 => t.ftab
  | 115 => t.stab
  | 116 => t.lc0
  | 117 => t.lc1
  | 118 => s.etl.tags
  | 119 => t.foul
  | 120 => t.lpHead 0
  | 121 => t.lpHead 1
  | 122 => t.lpHead 2
  | 123 => t.lpHead 3
  | 124 => cmRead s.now (kgetD s.kern.cm 0 [])
  | 125 => cmRead s.now (kgetD s.kern.cm 1 [])
  | 126 => cmRead s.now (kgetD s.kern.cm 2 [])
  | 127 => cmRead s.now (kgetD s.kern.cm 3 [])
  | _ => 0

/-- The register operands as they stand (R9). -/
def State.snapshot (s : State) : Latch :=
  let t := s.th
  { g := t.g, ftab := t.ftab, stab := t.stab, lc0 := t.lc0, lc1 := t.lc1, foul := t.foul, tags := s.etl.tags,
    cm := [s.live 124, s.live 125, s.live 126, s.live 127],
    lp := [t.lpHead 0, t.lpHead 1, t.lpHead 2, t.lpHead 3], pm := s.kern.pm, fcsr := t.fcsr }

/-- The value register `n` had in a latch. -/
def Latch.reg (l : Latch) (rank : Word) (n : Nat) : Word :=
  if n < 112 then kgetD l.g n 0
  else match n with
  | 112 => 0
  | 113 => rank
  | 114 => l.ftab
  | 115 => l.stab
  | 116 => l.lc0
  | 117 => l.lc1
  | 118 => l.tags
  | 119 => l.foul
  | _ => if n < 124 then l.lp.getD (n - 120) 0 else l.cm.getD (n - 124) 0

/-- g[n], as the bundle read it at issue (R9, R51). -/
def State.rd (s : State) (n : Nat) : Word :=
  match s.latch with
  | some l => l.reg s.th.rank n
  | none => s.live n

/-- What an instruction reads of the part: the voted value, where its bundle was voted (R53), else the value there now. -/
def State.seen (s : State) (v : Word) : Word :=
  match s.latch with
  | some l => l.seen.getD v
  | none => v

/-- FCSR as of issue. -/
def State.fcsrIn (s : State) : Word :=
  match s.latch with
  | some l => l.fcsr
  | none => s.th.fcsr

/-- The rounding mode FCSR.RM as of issue (R138). -/
def State.rm (s : State) : Nat := bits s.fcsrIn 7 5

/-- The etlet that a virtual endpoint of a launch names (R47): `v` is virtual package, die, etlet index. -/
def Launch.etletOf (l : Launch) (vpkg vdie vetl : Nat) : Option Nat :=
  let cl := vetl / 16
  let et := vetl % 16
  if vpkg < l.domains * l.packages ∧ vdie < l.dies ∧ cl < l.clusters ∧ et < l.etlets then
    let ix := (vdie * l.clusters + cl) * l.etlets + et
    match l.pkgs[vpkg]? with
    | none => none
    | some p =>
      let pl := kgetD l.cmap (vpkg * 65536 + ix) (l.place.getD ix 0)
      some (etletEid (4 * p + pl / 1024) (pl % 1024))
  else none

/-- The etlets of a launch, with their virtual package, die and etlet numbers (R30, R47). -/
def Launch.sited (l : Launch) : List ((Nat × Nat × Nat) × Nat) :=
  (List.range (l.domains * l.packages)).flatMap (fun p => (List.range l.dies).flatMap (fun d =>
    (List.range l.clusters).flatMap (fun c => (List.range l.etlets).filterMap (fun e =>
      (l.etletOf p d (c * 16 + e)).map (fun x => ((p, d, c * 16 + e), x))))))

/-- The etlets of a launch (R30). -/
def Launch.etletList (l : Launch) : List Nat := l.sited.map (·.2)

/-- The virtual package, die and etlet numbers of an etlet of a launch. -/
def Launch.virtOf (l : Launch) (e : Nat) : Option (Nat × Nat × Nat) := (l.sited.find? (fun x => decide (x.2 = e))).map (·.1)

/-- The etlet a CHANk value or destination word names (Table 2.10). -/
def Launch.chanEtlet (l : Launch) (c : Word) : Option Nat :=
  l.etletOf (bits c 31 15) (bits c 14 13) (bits c 12 3)

/-- The virtual endpoint of the thread in focus, in the CHANk form (R39), EN and SLOT zero. (DESIGN CHOICE, log 126) -/
def State.myVirt (s : State) : Word :=
  let t := s.th.teamix
  let l := s.lnch
  wd ((bits t 34 28 * l.packages + bits t 27 18) * 2 ^ 15 + bits t 17 16 * 2 ^ 13 + (bits t 15 10 * 16 + bits t 9 6) * 8)

/-- Sends a word to loop port `k`'s bound thread, spending a credit (R46). -/
def State.lpSend (s : State) (k : Nat) (v : Word) : State :=
  let c := kgetD s.th.chan k 0
  match s.lnch.chanEtlet c with
  | none => s
  | some e =>
    let w : LpWord := ⟨v, bits c 37 32, k, s.eid, s.slot, k, s.th.tid, s.lkey, scopeBetween s.eid e⟩
    (s.modT (fun t => { t with credits := kmod t.credits k 16 (· - 1) })).modEt e (fun x => { x with lpIn := x.lpIn ++ [w] })

/-- Writes g[n] (R58): z discards, lp k sends, a common register is written for cycle + 8. A register that
the bundle's A-class instruction also writes keeps the A-class value (R51). A common register that a reply writes is visible 8
cycles after the reply. (DEDUCED, log 125) -/
def State.wr (s : State) (n : Nat) (v : Word) : State :=
  if s.ph ≠ 2 ∧ s.th.kill = some n then s
  else if n < 112 then s.modT (fun t => { t with g := kput t.g n v })
  else match n with
  | 114 => s.modT (fun t => { t with ftab := v })
  | 115 => s.modT (fun t => { t with stab := v })
  | 116 => s.modT (fun t => { t with lc0 := v })
  | 117 => s.modT (fun t => { t with lc1 := v })
  | 120 => s.lpSend 0 v
  | 121 => s.lpSend 1 v
  | 122 => s.lpSend 2 v
  | 123 => s.lpSend 3 v
  | 124 => s.modK (fun k => { k with cm := kmod k.cm 0 [] (cmWrite s.now v) })
  | 125 => s.modK (fun k => { k with cm := kmod k.cm 1 [] (cmWrite s.now v) })
  | 126 => s.modK (fun k => { k with cm := kmod k.cm 2 [] (cmWrite s.now v) })
  | 127 => s.modK (fun k => { k with cm := kmod k.cm 3 [] (cmWrite s.now v) })
  | _ => s

/-- Vector register `n` of the thread in focus. -/
def State.vrd (s : State) (n : Nat) : Vec := kgetD s.th.v n 0

/-- Writes it. -/
def State.vwr (s : State) (n : Nat) (v : Vec) : State := s.modT (fun t => { t with v := kput t.v n v })

/-- Permutation register `n` of the kernel in focus, as the bundle read it at issue (R51, R185). -/
def State.perm (s : State) (n : Nat) : Perm :=
  match s.latch with
  | some l => kgetD l.pm n []
  | none => kgetD s.kern.pm n []

/-- ORs scalar flags [4:0] into FCSR (R139). -/
def State.raise (s : State) (f : Nat) : State :=
  if f = 0 then s else s.modT (fun t => { t with fcsr := t.fcsr ||| wd (f % 32) })

/-- ORs vector flags into FCSR[12:8] (R139). -/
def State.raiseV (s : State) (f : Nat) : State :=
  if f = 0 then s
  else s.modT (fun t => { t with
    fcsr := t.fcsr ||| wd (f % 32 * 256)
    vfl := some (s.now, (match t.vfl with | some (c, g) => if c = s.now then g ||| f % 32 else f % 32 | none => f % 32)) })

/-- The vector flags that completions of this cycle have raised in a thread: they are in FCSR after a write of that cycle too (R139). -/
def Thread.vflags (t : Thread) (now : Nat) : Nat :=
  match t.vfl with
  | some (c, f) => if c = now then f else 0
  | none => 0

/-! ### Control flow -/

/-- STATUS.LA bit `k` (Table 11.1). -/
def Thread.la (t : Thread) (k : Nat) : Bool := decide (bits t.status (1 + k) (1 + k) = 1)

/-- STATUS.LA bit `k` set to `v`. -/
def Thread.setLa (t : Thread) (k v : Nat) : Thread := { t with status := setBits t.status (1 + k) 1 v }

/-- Loop 0's end test (R326). -/
def endTest0 (t : Thread) : Thread :=
  if t.la 0 ∧ t.pc = t.le0 then
    if 1 < t.lc0.toNat then { t with lc0 := t.lc0 - 1, pc := t.ls0 }
    else { (t.setLa 0 0) with pc := t.pc + 8 }
  else { t with pc := t.pc + 8 }

/-- The loop end test after the bundle at pc, and the next bundle (R326): loop 1 first. -/
def endTest (t : Thread) : Thread :=
  if t.la 1 ∧ t.pc = t.le1 then
    if 1 < t.lc1.toNat then { t with lc1 := t.lc1 - 1, pc := t.ls1 }
    else endTest0 (t.setLa 1 0)
  else endTest0 t

/-- Goes on to the next bundle. In a pair the end test comes after both instructions (R51). -/
def advance (s : State) : State :=
  match s.ph with
  | 0 => s.modT endTest
  | 1 => { s with adv := true }
  | _ => s

/-- A taken branch ends every loop that does not contain the target (R285). -/
def leaveLoops (t : Thread) (target : Word) : Thread :=
  let t := if t.la 0 ∧ ¬(t.ls0.toNat ≤ target.toNat ∧ target.toNat ≤ t.le0.toNat) then t.setLa 0 0 else t
  if t.la 1 ∧ ¬(t.ls1.toNat ≤ target.toNat ∧ target.toNat ≤ t.le1.toNat) then t.setLa 1 0 else t

/-- A taken branch or jump (R284, R285). -/
def jumpTo (target : Word) (s : State) : State := s.modT (fun t => { leaveLoops t target with pc := target })

/-- Leaves the rotation (R26): WAITING, with the destination that the reply writes. -/
def waitFor (w : Wait) (d : Nat) (s : State) : State := s.modT (fun t => { t with st := .waiting w, waitD := d })

/-- Whether a wait issues its bundle again when it ends. -/
def Wait.again : Wait → Bool
  | .walk _ | .sbuf _ | .sbufFull | .ack | .tagBusy _ | .lport | .credit _ | .vrb | .vrwait | .ring _ | .mmaDrain
  | .verdict | .ckptOff | .sfree _ | .bench | .stall | .reach | .rollback _ => true
  | _ => false

/-- Makes READY every thread of the etlet in focus whose wait `p` accepts; its bundle issues again, from the next cycle on (R26). -/
def readyWhere (p : Wait → Bool) (s : State) : State :=
  let f := fun (t : Thread) => match t.st with
    | .waiting w => if p w then { t with st := .ready, wokenAt := some s.now } else t
    | .ready => t
  { s with thr := s.thr.map f, etl := { s.etl with threads := kmap s.etl.threads f } }

end Sys2Proof.Machine
end

