-- ==== Sys2Proof/Machine/Flags.lean ====
section
/-! DEFINITION. The conditions of CMP and SETC, the FCSR exception flags, and the counter and skip rules that
conditions drive. -/

namespace Sys2Proof.Machine

/-- The condition codes of CMP and SETC on two 64-bit values (R291): 0 EQ, 1 NE, 2 LT, 3 GE, 4 LTU, 5 GEU,
6 BS, 7 BC. -/
def condition (cc : Nat) (x y : Word) : Bool :=
  match cc with
  | 0 => decide (x = y)
  | 1 => decide (x ≠ y)
  | 2 => decide (x.toInt < y.toInt)
  | 3 => decide (y.toInt ≤ x.toInt)
  | 4 => decide (x.toNat < y.toNat)
  | 5 => decide (y.toNat ≤ x.toNat)
  | 6 => decide (x &&& y ≠ 0)
  | _ => decide (x &&& y = 0)

/-- The operand of CMP.W: the low half, zero-extended for LTU and GEU, else sign-extended (R291). -/
def cmpWord (cc : Nat) (x : Word) : Word :=
  if cc = 4 ∨ cc = 5 then wd (x.toNat % 2 ^ 32) else sext x.toNat 32

/-- A counter reaches threshold `t` (R205). -/
def reaches (c t : Nat) : Bool := decide ((c + 2 ^ 32 - t % 2 ^ 32) % 2 ^ 32 < 2 ^ 31)

/-- Exception flags in FCSR order (Table 7.2): NV 16, DZ 8, OF 4, UF 2, NX 1. -/
def fNV : Nat := 16
def fDZ : Nat := 8
def fOF : Nat := 4
def fUF : Nat := 2
def fNX : Nat := 1

/-- What a write to FCSR stores: reserved bits zero, RM 5 to 7 stored as 0 (R138). -/
def fcsrWrite (v : Word) : Word :=
  let v := v &&& 0x1FFF
  if 5 ≤ bits v 7 5 then setBits v 5 3 0 else v

end Sys2Proof.Machine
end

