-- ==== Sys2Proof/Machine/Operands.lean ====
section
/-! DEFINITION. Operand forms: immediates, the register fields of every instruction in the order of its body
(R54 step 4), addresses of the memory formats. -/

namespace Sys2Proof

open Sys2Proof.Machine

/-- The sign-extended value of an immediate whose short field has `n` bits (Table 3.3). -/
def Imm.sval (n : Nat) : Imm → Word
  | .short v => sext v n
  | .long k => sext k 32

/-- The zero-extended value of an immediate (ORI, XORI, LSETUP; Table 3.3). -/
def Imm.zval : Imm → Word
  | .short v => wd v
  | .long k => wd k

/-- The byte offset of format M: off7 scaled by the width in a pair, K in a LONE bundle (R320). -/
def Imm.offM (width : Nat) : Imm → Word
  | .short v => sext v 7 * wd width
  | .long k => sext k 32

/-- The byte offset of format MS: 0 in a pair, K in a LONE bundle (R52). -/
def Imm.offMS : Imm → Word
  | .short _ => 0
  | .long k => sext k 32

/-- A field of a body that names registers: a source, a destination, both, a vector register, a permutation
register, the run g[a] to g[a+n], or the head of a run whose length a register gives (R54, R272). -/
inductive Fld where
  | src (n : Nat)
  | dst (n : Nat)
  | both (n : Nat)
  | vec (n : Nat)
  | pm (n : Nat)
  | run (a n : Nat)
  | head (a : Nat)
deriving DecidableEq, Repr

/-- The register field of CMP's right operand. -/
def CmpRhs.fields : CmpRhs → List Fld
  | .reg b => [.src b]
  | .imm _ => []

/-- The value of CMP's right operand (R291). -/
def Machine.State.cmpRhs (s : State) : CmpRhs → Word
  | .reg b => s.rd b
  | .imm i => i.sval 7

/-- The register fields an instruction names, from bit 23 downward (R54 step 4); an event names none. -/
def Instr.fields : Instr → List Fld
  | .trap a _ => [.src a]
  | .br _ => []
  | .brl _ => []
  | .jmpl d a => [.dst d, .src a]
  | .lsetupImm _ _ _ => []
  | .lsetupReg _ r _ => [.src r]
  | .ld d a _ _ _ => [.dst d, .src a]
  | .st d a _ _ => [.src d, .src a]
  | .lda d a _ _ _ _ => [.dst d, .src a]
  | .stl d a _ _ _ => [.src d, .src a]
  | .ldf d a _ _ _ => [.dst d, .src a]
  | .ldfe d a _ _ _ => [.dst d, .src a]
  | .stf d a _ _ => [.src d, .src a]
  | .ste d a _ _ => [.src d, .src a]
  | .sete a _ _ => [.src a]
  | .setf a _ _ => [.src a]
  | .amoWAdd d a b => [.dst d, .src a, .src b]
  | .amoWSwap d a b => [.dst d, .src a, .src b]
  | .amoWAnd d a b => [.dst d, .src a, .src b]
  | .amoWOr d a b => [.dst d, .src a, .src b]
  | .amoWSmin d a b => [.dst d, .src a, .src b]
  | .amoWSmax d a b => [.dst d, .src a, .src b]
  | .amoWUmin d a b => [.dst d, .src a, .src b]
  | .amoWUmax d a b => [.dst d, .src a, .src b]
  | .amoDAdd d a b => [.dst d, .src a, .src b]
  | .amoDSwap d a b => [.dst d, .src a, .src b]
  | .amoDAnd d a b => [.dst d, .src a, .src b]
  | .amoDOr d a b => [.dst d, .src a, .src b]
  | .amoDSmin d a b => [.dst d, .src a, .src b]
  | .amoDSmax d a b => [.dst d, .src a, .src b]
  | .amoDUmin d a b => [.dst d, .src a, .src b]
  | .amoDUmax d a b => [.dst d, .src a, .src b]
  | .casW d a b => [.both d, .src a, .src b]
  | .casD d a b => [.both d, .src a, .src b]
  | .faggW d a b => [.dst d, .src a, .src b]
  | .faggD d a b => [.dst d, .src a, .src b]
  | .fence _ => []
  | .fenceSs _ => []
  | .fenceLa _ => []
  | .cmoClean _ a b => [.src a, .src b]
  | .cmoInval _ a b => [.src a, .src b]
  | .cmoClinv _ a b => [.src a, .src b]
  | .cmoPref _ a b => [.src a, .src b]
  | .cmoZero _ a b => [.src a, .src b]
  | .cpy a _ _ => [.run a 3]
  | .cpyf a _ _ => [.run a 3]
  | .cpyg a _ _ => [.run a 3]
  | .cpyp a _ _ p => [.run a 3, .pm p]
  | .cpyr a _ _ _ => [.run a 3]
  | .cpys a _ _ => [.run a 3]
  | .twall d a => [.dst d, .src a]
  | .twany d a => [.dst d, .src a]
  | .tffr d a => [.dst d, .src a]
  | .tclr a => [.src a]
  | .mma _ _ _ _ _ _ q m => (if q = 1 then [.pm m] else [])
  | .aclr _ _ => []
  | .asto a _ => [.run a 1]
  | .ald a _ => [.run a 1]
  | .rdef d a _ => [.dst d, .run a 1]
  | .rqry d _ => [.dst d]
  | .rdrop d _ => [.dst d]
  | .rreset _ => []
  | .snew d a _ => [.dst d, .src a]
  | .sfree d a _ => [.dst d, .src a]
  | .spoke d a _ => [.dst d, .run a 2]
  | .legq d _ => [.dst d]
  | .foulc a => [.src a]
  | .ckpt d a => [.dst d, .src a]
  | .bar d a _ => [.dst d, .src a]
  | .bara d a _ => [.dst d, .src a]
  | .barw d a _ => [.dst d, .src a]
  | .toka d a _ => [.dst d, .src a]
  | .tokr d a _ => [.dst d, .src a]
  | .step d a _ => [.dst d, .src a]
  | .stepr d a _ => [.dst d, .src a]
  | .sound d _ => [.dst d]
  | .send a b => [.head a, .src b]
  | .go a => [.src a]
  | .put a => [.run a 3]
  | .get a => [.run a 3]
  | .tsend d a b => [.dst d, .run a 3, .src b]
  | .tcancel d a => [.dst d, .src a]
  | .scset d a _ => [.dst d, .src a]
  | .scadd d a _ => [.dst d, .src a]
  | .scwait d a _ => [.dst d, .src a]
  | .scrd d _ => [.dst d]
  | .wrq d a => [.dst d, .run a 5]
  | .wrcq d => [.dst d]
  | .uestat d _ => [.dst d]
  | .mfalloc d a b => [.dst d, .src a, .dst b]
  | .mffree d a => [.dst d, .src a]
  | .mfquota d => [.dst d]
  | .mfstat d a => [.dst d, .src a]
  | .swb d a => [.dst d, .run a 4]
  | .swn d a => [.dst d, .src a]
  | .swe d a => [.dst d, .src a]
  | .resq d a => [.dst d, .run a 1]
  | .swstat d a => [.dst d, .src a]
  | .qnew d a => [.dst d, .src a]
  | .qenq a b => [.src a, .src b]
  | .qdeq d a => [.dst d, .src a]
  | .qtry d a b => [.dst d, .src a, .dst b]
  | .qfree d a => [.dst d, .src a]
  | .gang d a => [.dst d, .src a]
  | .pload d a _ => [.pm d, .src a]
  | .pstore d a => [.pm d, .src a]
  | .vld d a _ => [.vec d, .src a]
  | .vldStr d a _ => [.vec d, .run a 1]
  | .vldBc d a _ => [.vec d, .src a]
  | .vst d a _ => [.vec d, .src a]
  | .vstStr d a _ => [.vec d, .run a 1]
  | .csrr d _ => [.dst d]
  | .csrw a _ => [.src a]
  | .csrx d a _ => [.dst d, .src a]
  | .launch d a => [.dst d, .src a]
  | .bencho d a b => [.dst d, .src a, .src b]
  | .benchi d a b => [.dst d, .src a, .src b]
  | .mapset d a => [.dst d, .src a]
  | .xinv d a b => [.dst d, .src a, .src b]
  | .keyset d a => [.dst d, .src a]
  | .selft d a => [.dst d, .src a]
  | .vre a b => [.src a, .src b]
  | .add d a b => [.dst d, .src a, .src b]
  | .sub d a b => [.dst d, .src a, .src b]
  | .and d a b => [.dst d, .src a, .src b]
  | .or d a b => [.dst d, .src a, .src b]
  | .xor d a b => [.dst d, .src a, .src b]
  | .andn d a b => [.dst d, .src a, .src b]
  | .sll d a b => [.dst d, .src a, .src b]
  | .srl d a b => [.dst d, .src a, .src b]
  | .sra d a b => [.dst d, .src a, .src b]
  | .rotr d a b => [.dst d, .src a, .src b]
  | .min d a b => [.dst d, .src a, .src b]
  | .max d a b => [.dst d, .src a, .src b]
  | .minu d a b => [.dst d, .src a, .src b]
  | .maxu d a b => [.dst d, .src a, .src b]
  | .addw d a b => [.dst d, .src a, .src b]
  | .subw d a b => [.dst d, .src a, .src b]
  | .mul d a b => [.dst d, .src a, .src b]
  | .mulh d a b => [.dst d, .src a, .src b]
  | .mulhu d a b => [.dst d, .src a, .src b]
  | .mulw d a b => [.dst d, .src a, .src b]
  | .div d a b => [.dst d, .src a, .src b]
  | .divu d a b => [.dst d, .src a, .src b]
  | .rem d a b => [.dst d, .src a, .src b]
  | .remu d a b => [.dst d, .src a, .src b]
  | .clz d a => [.dst d, .src a]
  | .ctz d a => [.dst d, .src a]
  | .popc d a => [.dst d, .src a]
  | .brev d a => [.dst d, .src a]
  | .bswap d a => [.dst d, .src a]
  | .sext d a _ => [.dst d, .src a]
  | .zext d a _ => [.dst d, .src a]
  | .addi d a _ => [.dst d, .src a]
  | .andi d a _ => [.dst d, .src a]
  | .ori d a _ => [.dst d, .src a]
  | .xori d a _ => [.dst d, .src a]
  | .slli d a _ => [.dst d, .src a]
  | .srli d a _ => [.dst d, .src a]
  | .srai d a _ => [.dst d, .src a]
  | .rotri d a _ => [.dst d, .src a]
  | .movi d _ => [.dst d]
  | .movhi d _ => [.both d]
  | .cmp _ _ a b => (.src a :: b.fields)
  | .cmpW _ _ a b => (.src a :: b.fields)
  | .setcEq d a b => [.dst d, .src a, .src b]
  | .setcNe d a b => [.dst d, .src a, .src b]
  | .setcLt d a b => [.dst d, .src a, .src b]
  | .setcGe d a b => [.dst d, .src a, .src b]
  | .setcLtu d a b => [.dst d, .src a, .src b]
  | .setcGeu d a b => [.dst d, .src a, .src b]
  | .setcBs d a b => [.dst d, .src a, .src b]
  | .setcBc d a b => [.dst d, .src a, .src b]
  | .faddD d a b => [.dst d, .src a, .src b]
  | .fsubD d a b => [.dst d, .src a, .src b]
  | .fmulD d a b => [.dst d, .src a, .src b]
  | .fdivD d a b => [.dst d, .src a, .src b]
  | .fminD d a b => [.dst d, .src a, .src b]
  | .fmaxD d a b => [.dst d, .src a, .src b]
  | .fsqrtD d a => [.dst d, .src a]
  | .fcpsD d a b => [.dst d, .src a, .src b]
  | .faddS d a b => [.dst d, .src a, .src b]
  | .fsubS d a b => [.dst d, .src a, .src b]
  | .fmulS d a b => [.dst d, .src a, .src b]
  | .fdivS d a b => [.dst d, .src a, .src b]
  | .fminS d a b => [.dst d, .src a, .src b]
  | .fmaxS d a b => [.dst d, .src a, .src b]
  | .fsqrtS d a => [.dst d, .src a]
  | .fcpsS d a b => [.dst d, .src a, .src b]
  | .fmaD d a b => [.both d, .src a, .src b]
  | .fmsD d a b => [.both d, .src a, .src b]
  | .fnmaD d a b => [.both d, .src a, .src b]
  | .fmaS d a b => [.both d, .src a, .src b]
  | .fmsS d a b => [.both d, .src a, .src b]
  | .fnmaS d a b => [.both d, .src a, .src b]
  | .fcvt d a _ _ => [.dst d, .src a]
  | .frcp d a => [.dst d, .src a]
  | .frsq d a => [.dst d, .src a]
  | .fexp2 d a => [.dst d, .src a]
  | .flog2 d a => [.dst d, .src a]
  | .fclass d a => [.dst d, .src a]
  | .fcmpD _ _ a b => [.src a, .src b]
  | .fcmpS _ _ a b => [.src a, .src b]
  | .vfadd d a b => [.vec d, .vec a, .vec b]
  | .vfsub d a b => [.vec d, .vec a, .vec b]
  | .vfmul d a b => [.vec d, .vec a, .vec b]
  | .vfma d a b c => [.vec d, .vec a, .vec b, .vec c]
  | .vfmin d a b => [.vec d, .vec a, .vec b]
  | .vfmax d a b => [.vec d, .vec a, .vec b]
  | .vfrcp d a => [.vec d, .vec a]
  | .vfexp2 d a => [.vec d, .vec a]
  | .vadd d a b => [.vec d, .vec a, .vec b]
  | .vsub d a b => [.vec d, .vec a, .vec b]
  | .vmul d a b => [.vec d, .vec a, .vec b]
  | .vmin d a b => [.vec d, .vec a, .vec b]
  | .vmax d a b => [.vec d, .vec a, .vec b]
  | .vminu d a b => [.vec d, .vec a, .vec b]
  | .vmaxu d a b => [.vec d, .vec a, .vec b]
  | .vand d a b => [.vec d, .vec a, .vec b]
  | .vor d a b => [.vec d, .vec a, .vec b]
  | .vxor d a b => [.vec d, .vec a, .vec b]
  | .vsll d a b => [.vec d, .vec a, .vec b]
  | .vsrl d a b => [.vec d, .vec a, .vec b]
  | .vsra d a b => [.vec d, .vec a, .vec b]
  | .vred d a _ => [.vec d, .vec a]
  | .vperm d a p => [.vec d, .vec a, .pm p]
  | .vsel d a b c => [.vec d, .vec a, .vec b, .vec c]
  | .vcmp d a b _ => [.vec d, .vec a, .vec b]
  | .vcvt d a _ => [.vec d, .vec a]
  | .vbcast d s => [.vec d, .src s]
  | .vext d a n => [.dst d, .vec a, .src n]
  | .qnt d a b => [.dst d, .run a 1, .src b]
  | .dqnt d a b => [.dst d, .run a 1, .src b]
  | .baddq d a b => [.dst d, .run a 2, .src b]
  | .scaleq d a b => [.dst d, .src a, .src b]
  | .pcomp d a b => [.pm d, .pm a, .pm b]
  | .pinv d a => [.pm d, .pm a]
  | .prand d a _ => [.pm d, .src a]
  | .pidn d _ => [.pm d]
  | .pcyc d a b => [if b = 1 then .both d else .dst d, .pm a]
  | .pmov d a => [.pm d, .pm a]
  | .illegalEncoding _ => []
  | .fetchFault _ => []
  | .nop => []
  | .yield => []
  | .exit => []
  | .eret => []
  | .disband => []
  | .vrb => []
  | .vrstop => []
  | .vrwait => []
  | .powerOnReset => []
  | .functionReady _ _ => []
  | .commandFetch _ => []
  | .init _ => []
  | .hostLaunch _ => []
  | .rstat _ => []
  | .freset _ => []
  | .attest _ => []
  | .fwload _ => []
  | .cdoor _ _ => []
  | .qstart _ _ => []
  | .registerWrite _ _ _ => []
  | .migrationGo _ _ => []
  | .migrationComplete _ => []
  | .stestStart _ _ => []
  | .selfTestComplete _ _ => []
  | .uvUnfreeze _ _ => []
  | .uvFreeze _ _ => []
  | .uvEnableWrite _ _ _ => []
  | .mfqset _ _ => []
  | .uvStep _ _ _ => []
  | .uvMeasureEnd _ _ _ => []
  | .powerSample _ _ _ => []
  | .translationWalkComplete _ _ => []
  | .memoryReply _ _ => []
  | .storeTakesEffect _ => []
  | .storeReply _ => []
  | .pageHeatHalve _ => []
  | .loopSlotReserve _ _ _ => []
  | .loopStopPowerDown _ _ _ => []
  | .loopStopWake _ _ _ => []
  | .longLatencyWriteback _ _ => []
  | .eventDelivery _ _ => []
  | .yieldExpiry _ _ => []
  | .handlerIssueLimit _ _ => []
  | .activeMessageArrival _ => []
  | .handlerStart _ => []
  | .absent _ => []
  | .loopPortWordArrival _ => []
  | .loopPortCreditReturn _ _ _ => []
  | .goArrival _ => []
  | .parkedThreadPlace _ => []
  | .mapsetForward _ => []
  | .exitComplete _ _ => []
  | .launchCompletionWrite _ _ => []
  | .benchImageWrite _ => []
  | .copyStart _ _ => []
  | .copyComplete _ _ => []
  | .mmaStart _ => []
  | .mmaComplete _ => []
  | .vectorStart _ => []
  | .vectorWriteback _ => []
  | .solverComplete _ => []
  | .putArrival _ _ => []
  | .putComplete _ _ => []
  | .uePacketArrival _ _ _ _ _ => []
  | .wrqComplete _ _ _ => []
  | .norecvTimeout _ _ => []
  | .syncRoundStart _ => []
  | .umpireRoundEnd _ => []
  | .completionReport _ => []
  | .phaseMessage _ => []
  | .verdictDelivery _ => []
  | .memberAbsent _ => []
  | .tokenPass _ _ => []
  | .stepAdvance _ _ => []
  | .rollbackResume _ _ => []
  | .errorDetected _ _ _ _ => []
  | .sweeperExamine _ _ => []
  | .sweeperPassStart _ _ => []
  | .sweeperForce _ _ => []
  | .faggGroupClose _ => []
  | .requestArrival _ _ => []
  | .requestResend _ _ => []
  | .requestTimeout _ _ => []
  | .dedupExpiry _ => []
  | .flitReceive _ _ _ _ _ => []
  | .replayRequest _ _ _ => []
  | .criticalPacketReceive _ _ _ => []
  | .portTrainingEnd _ _ _ _ _ => []
  | .trainingTimeout _ _ => []
  | .flowMove _ _ => []
  | .flowStallEnd _ _ => []
  | .switchLossNotice _ _ => []
  | .rheadAdvance _ _ => []
  | .portCommand _ _ => []
  | .memoryWriteComplete _ _ => []

/-- The loop ports a field reads (R59). -/
def Fld.lpRead : Fld → Option Nat
  | .src n => if 120 ≤ n ∧ n < 124 then some (n - 120) else none
  | .both n => if 120 ≤ n ∧ n < 124 then some (n - 120) else none
  | _ => none

/-- The loop ports a field writes (R59). -/
def Fld.lpWrite : Fld → Option Nat
  | .dst n => if 120 ≤ n ∧ n < 124 then some (n - 120) else none
  | .both n => if 120 ≤ n ∧ n < 124 then some (n - 120) else none
  | _ => none

/-- The common registers a field writes (R134). -/
def Fld.cmWrite : Fld → Bool
  | .dst n => decide (124 ≤ n)
  | .both n => decide (124 ≤ n)
  | _ => false

/-- The general register an instruction writes, for the rule that the A-class write is kept (R51). -/
def Instr.dest (i : Instr) : Option Nat :=
  i.fields.findSome? (fun f => match f with | .dst n => some n | .both n => some n | _ => none)

/-- Whether a field reads a register of the register or vector file (R29, R58, R231). -/
def Fld.fileRead : Fld → Bool
  | .src n => decide (n < 112)
  | .both n => decide (n < 112)
  | .run _ _ => true
  | .head n => decide (n < 112)
  | .vec _ => true
  | _ => false

/-- Whether an instruction is privileged (R269). -/
def Instr.privileged : Instr → Bool
  | .eret => true
  | .bencho _ _ _ => true
  | .benchi _ _ _ => true
  | .mapset _ _ => true
  | .xinv _ _ _ => true
  | .keyset _ _ => true
  | .selft _ _ => true
  | _ => false

/-- Whether an encoding needs the matrix engine, which a gateway lacks (R270). -/
def Instr.matrix : Instr → Bool
  | .mma _ _ _ _ _ _ _ _ => true
  | .aclr _ _ => true
  | .asto _ _ => true
  | .ald _ _ => true
  | _ => false

/-- The vector registers an instruction names. -/
def Instr.vregs (i : Instr) : List Nat := i.fields.filterMap (fun f => match f with | .vec n => some n | _ => none)

/-- Whether an instruction is performed by the vector sequencer (R173). -/
def Instr.vector : Instr → Bool
  | .vext _ _ _ => true
  | i => !i.vregs.isEmpty

/-- Whether it is a VLD or VST (R104). -/
def Instr.vmem : Instr → Bool
  | .vld _ _ _ => true
  | .vldStr _ _ _ => true
  | .vldBc _ _ _ => true
  | .vst _ _ _ => true
  | .vstStr _ _ _ => true
  | _ => false

end Sys2Proof
end

