-- ==== Sys2Proof/Machine/Mem.lean ====
section
/-! DEFINITION. Memory: global physical addresses and homes, encryption by key ID, full/empty bits, caches,
translation, and what one request does at its home. -/

namespace Sys2Proof.Machine

/-! ### Bytes -/

/-- The byte at address `a`; an unlisted address reads 0. -/
def memRd : Memory → Nat → Byte
  | [], _ => 0
  | (b, v) :: m, a => if b = a then v else if a < b then 0 else memRd m a

/-- Memory with `v` at address `a`, in canonical form: addresses rising, no entry 0. -/
def memWr : Memory → Nat → Byte → Memory
  | [], a, v => if v = 0 then [] else [(a, v)]
  | (b, w) :: m, a, v =>
    if b = a then (if v = 0 then m else (a, v) :: m)
    else if a < b then (if v = 0 then (b, w) :: m else (a, v) :: (b, w) :: m)
    else (b, w) :: memWr m a v

/-- The canonical form: addresses strictly rising from `lo`, no entry 0. -/
def Memory.wfFrom : Nat → Memory → Bool
  | _, [] => true
  | lo, (a, v) :: m => decide (lo ≤ a) && decide (v ≠ 0) && Memory.wfFrom (a + 1) m

/-- Memory is in canonical form. -/
def Memory.wf (m : Memory) : Bool := Memory.wfFrom 0 m

/-! ### Global physical addresses (R76) -/

/-- The region of an address (Table 4.4). -/
def regionOf (a : Nat) : Nat := a / 2 ^ 44 % 8
/-- The package of an address. -/
def gpaPkg (a : Nat) : Nat := a / 2 ^ 47
/-- The offset of an address. -/
def gpaOff (a : Nat) : Nat := a % 2 ^ 44

/-- The die (4 * package + die) an address is homed on (Table 4.5). -/
def homeDie (a : Nat) : Nat :=
  let o := gpaOff a
  gpaPkg a * 4 + (match regionOf a with
    | 0 => o / 2 ^ 38 % 4
    | 1 => o / 2 ^ 42
    | 2 => o / 2 ^ 28 % 4
    | _ => 0)

/-- The slice of a line: GPA[11:6] XOR GPA[17:12] (R76). -/
def sliceOf (a : Nat) : Nat := (a / 64 % 64) ^^^ (a / 4096 % 64)

/-- The cluster whose slice is the home of a region 0 or 1 line. -/
def homeCluster (a : Nat) : Nat := homeDie a * 64 + sliceOf a

/-- The first byte of an etlet's scratchpad (region 2). A gateway's, which no address names, stands beyond. -/
def scratch (e : Nat) : Nat :=
  pkgOf e * 2 ^ 47 + 2 * 2 ^ 44 + (if classOf e = 1 then 2 ^ 30 else 0) + dieOf e % 4 * 2 ^ 28 + idxOf e * 2 ^ 18

/-- Whether an address lies in the scratchpad of etlet `e`. -/
def inScratch (e a : Nat) : Bool := decide (scratch e ≤ a ∧ a < scratch e + 0x30000)

/-- The etlet whose scratchpad holds a region 2 address. -/
def scratchOwner (a : Nat) : Nat :=
  let o := gpaOff a
  let die := gpaPkg a * 4 + o / 2 ^ 28 % 4
  if o / 2 ^ 30 = 0 then etletEid die (o / 2 ^ 18 % 1024) else etletEid die (o / 2 ^ 18 % 1024) + 1

/-- Whether a word of this region carries a full/empty bit (R85). -/
def hasFe (a : Nat) : Bool := regionOf a = 0 || regionOf a = 2 || regionOf a = 3

/-- Whether an address has bits its region's layout requires to be zero (R74), or names region 6 or 7. -/
def gpaBad (a : Nat) : Bool :=
  let o := gpaOff a
  match regionOf a with
  | 0 => decide (o / 2 ^ 40 ≠ 0)
  | 1 => decide (o / 2 ^ 40 % 4 ≠ 0)
  | 2 => decide (o / 2 ^ 30 ≠ 0)
  | 3 => decide (o / 2 ^ 35 % 4 ≠ 0)
  | 4 => false
  | 5 => false
  | _ => true

/-! ### Encryption (R88) -/

/-- Whether a region is encrypted. -/
def encrypted (a : Nat) : Bool := regionOf a = 0 || regionOf a = 1 || regionOf a = 3

/-- The key that key ID `key` names for memory at `a`: the material KEYSET loaded, or the ID's own unknown key
while none is loaded. Midfield switches hold their own slots. -/
def State.keyOf (s : State) (a key : Nat) : Nat × Nat :=
  match kget (if regionOf a = 3 then (kgetD s.domains (gpaPkg a / 1024) {}).keys else (s.pkg (gpaPkg a)).keys) key with
  | some m => (0, m)
  | none => (key + 1, 0)

/-- What a 16-byte unit holds, as its writer reads it. -/
def State.unit (s : State) (a : Nat) : List Byte := (List.range 16).map (fun i => memRd s.mem (a / 16 * 16 + i))

/-- The noise byte `i` of a unit under that key (R88): it depends on both keys and on what was written. -/
def State.noise (s : State) (a key i : Nat) : Byte :=
  let w := kgetD s.owner (a / 16) (0, 0)
  Config.noise (s.keyOf a key).1 (s.keyOf a key).2 w.1 w.2 (a / 16) (s.unit a) i

/-- Whether the 16-byte unit at `a` reads as written under `key`. -/
def State.owns (s : State) (key a : Nat) : Bool :=
  !encrypted a ||
  (match kget s.owner (a / 16) with
   | none => true
   | some p => decide (p = s.keyOf a key))

/-- One byte as `key` reads it: noise where another owner wrote it (R88). -/
def State.byte (s : State) (key a : Nat) : Byte :=
  if s.owns key a then memRd s.mem a else s.noise a key (a % 16)

/-- `n` bytes, little-endian (R5), as `key` reads them. -/
def State.rdMem (s : State) (key a : Nat) : Nat → Nat
  | 0 => 0
  | n + 1 => (s.byte key a).toNat + 256 * s.rdMem key (a + 1) n

/-- The unit at `a` taken over by `key`, its other bytes becoming what `key` reads there (R88). -/
def State.claim (s : State) (key a : Nat) : State :=
  if encrypted a then
    let s := if s.owns key a then s
      else { s with mem := loop (fun i m => memWr m (a / 16 * 16 + i) (s.noise a key i)) 0 16 s.mem }
    { s with owner := kput s.owner (a / 16) (s.keyOf a key) }
  else s

/-- One byte written under `key`. -/
def State.wrByte (s : State) (key a : Nat) (v : Byte) : State :=
  let s := s.claim key a
  { s with mem := memWr s.mem a v }

/-- `n` bytes written, little-endian. -/
def State.wrMem (s : State) (key a : Nat) : Nat → Nat → State
  | 0, _ => s
  | n + 1, v => (s.wrByte key a (BitVec.ofNat 8 v)).wrMem key (a + 1) n (v / 256)

/-! ### Device registers (R235, Table 12.6) -/

/-- The 16 bytes of a fault record entry, as a number (Table 11.10). -/
def FaultRec.pack (f : FaultRec) : Nat :=
  f.eval.toNat * 2 ^ 64 + f.rank.toNat % 2 ^ 36 * 2 ^ 28 + f.code % 256 * 2 ^ 20 + f.level % 16 * 2 ^ 16 +
    f.act % 4 * 2 ^ 14 + (if f.dbl then 2 ^ 13 else 0) + (if f.only then 2 ^ 12 else 0)

/-- The launch with index `l` that is resident on package `p`. -/
def State.launchOn (s : State) (p l : Nat) : Option (Nat × Launch) :=
  s.launches.find? (fun q => decide (q.1 % 64 = l) && (q.1 / 64 == p || q.2.pkgs.contains p))

/-- The 64-bit migration register at `i` of a set (Table 4.8). -/
def Migration.reg (m : Migration) (i : Nat) : Word :=
  match i with
  | 0 => m.src
  | 1 => m.dst
  | 2 => m.size
  | 3 => m.entry
  | 4 => m.newleaf
  | 5 => m.score
  | 7 => wd ((if m.busy then 2 ^ 63 else 0) + m.status)
  | _ => 0

/-- One byte of region 5 of package `p`; none at an offset the table does not list. The readiness report holds its count at 0x108 and the
page addresses, 8 bytes each, from 0x110 on, as many as the 4 KiB page takes (R93, R240). (DESIGN CHOICE, log 127) What a listed window
holds no register at reads 0 (R7). (DESIGN CHOICE, log 148) -/
def State.devByte (s : State) (p o : Nat) : Option Byte :=
  let k := s.pkg p
  let of := fun (n i : Nat) => some (BitVec.ofNat 8 (n / 256 ^ i))
  if o < 0x30 then
    match o / 8 with
    | 0 => of k.ready.toNat (o % 8)
    | 5 => of (k.dies % 16) (o % 8)
    | i => of (kgetD k.clusters (i - 1) 0).toNat (o % 8)
  else if o < 0x100 then some 0
  else if 0x100 ≤ o ∧ o < 0x1000 then
    let n := k.retired.length
    if o < 0x108 then of (if k.tableFull then 1 else 0) (o - 0x100)
    else if o < 0x10C then of n (o - 0x108)
    else of (k.retired.getD ((o - 0x110) / 8) 0) ((o - 0x110) % 8)
  else if 0x1000 ≤ o ∧ o < 0x1060 then of (kgetD k.power ((o - 0x1000) / 4) 0) (o % 4)
  else if o < 0x2000 then some 0
  else if 0x10000 ≤ o ∧ o < 0x14000 ∧ o % 0x1000 < 0x40 then
    of ((kgetD s.dies (p * 4 + (o - 0x10000) / 0x1000) {}).mig.reg (o % 0x1000 / 8)).toNat (o % 8)
  else if 0x1000000 ≤ o ∧ o < 0x1080000 then
    match s.launchOn p ((o - 0x1000000) / 0x2000) with
    | none => some 0
    | some (_, l) =>
      let q := o % 0x2000
      if q < 0x1000 then of ((l.faults[q / 16]?).map FaultRec.pack |>.getD 0) (q % 16)
      else if q < 0x1004 then of l.overflow (q - 0x1000) else some 0
  else if 0x10000000 ≤ o ∧ o < 0x20000000 then
    of (kgetD (kgetD s.dies (p * 4 + (o - 0x10000000) / 0x4000000) {}).heat (o % 0x4000000) 0) 0
  else none

/-- `n` bytes of region 5. -/
def State.rdDev (s : State) (p o : Nat) : Nat → Option Nat
  | 0 => some 0
  | n + 1 =>
    match s.devByte p o, s.rdDev p (o + 1) n with
    | some b, some r => some (b.toNat + 256 * r)
    | _, _ => none

/-! ### Where an access may go -/

/-- READY bit `i` of the readiness map of package `p` (Table 12.4). -/
def State.readyBit (s : State) (p i : Nat) : Bool := (s.pkg p).ready.getLsbD i

/-- READY of cluster `c`, numbered 256 * package + 64 * die + cluster (R240). -/
def State.clusterReady (s : State) (c : Nat) : Bool := (kgetD (s.pkg (c / 256)).clusters (c % 256 / 64) 0).getLsbD (c % 64)

/-- READY of die `d`, numbered 4 * package + die (R240). -/
def State.dieReady (s : State) (d : Nat) : Bool := (BitVec.ofNat 4 (s.pkg (d / 4)).dies).getLsbD (d % 4)

/-- Whether an access of an endpoint to another package needs a function of its own whose READY bit is clear: every fabric port, or to another
domain the die's network engine (R240). -/
def State.cutOff (s : State) (e a : Nat) : Bool :=
  let h := e / 2 ^ 15
  let p := gpaPkg a
  let k := (s.pkg h).ready
  if regionOf a = 3 ∨ p = h then false
  else if p / 1024 = h / 1024 then decide (bits k 55 20 = 0)
  else !k.getLsbD (56 + e / 2 ^ 13 % 4)

/-- The switch that holds a region 3 address. -/
def switchOf (a : Nat) : Nat := gpaOff a / 2 ^ 37

/-- Whether the data at `a` failed its check and is withheld, until the self-test that follows is done (R231). (DESIGN CHOICE, log 147) -/
def State.failing (s : State) (a : Nat) : Bool := s.dies.any (fun d => d.2.failing.contains (a / 64))

/-- Whether the home answers an access at `a` with an abort completion (R77, R93, R231, R240). -/
def State.aborts (s : State) (a : Nat) : Bool :=
  let p := gpaPkg a
  let o := gpaOff a
  s.failing a || match regionOf a with
  | 0 => (kget s.pkgs p).isNone || decide (256000000000 ≤ o % 2 ^ 38) || !s.readyBit p (4 * (o / 2 ^ 38 % 4) + o / 4096 % 4) ||
      (s.pkg p).retired.contains (a / 65536 * 65536) || !s.dieReady (homeDie a) ||
      !s.clusterReady (homeCluster a)
  | 1 => (kget s.pkgs p).isNone || decide (Config.cxlBytes (homeDie a) ≤ o % 2 ^ 40) || !s.readyBit p (16 + o / 2 ^ 42) ||
      (s.pkg p).retired.contains (a / 65536 * 65536) || !s.dieReady (homeDie a) || !s.clusterReady (homeCluster a)
  | 2 => (kget s.pkgs p).isNone || decide (0x30000 ≤ o % 2 ^ 18) || !s.dieReady (homeDie a) ||
      (decide (classOf (scratchOwner a) = 0) && !s.clusterReady (clusterOf (scratchOwner a)))
  | 3 => false
  | 4 => (kget s.pkgs p).isNone
  | 5 => (kget s.pkgs p).isNone || (s.devByte p o).isNone
  | _ => true

/-- The 64 KiB pages that hold part of the row a page lies in, itself first (R93). (DESIGN CHOICE, log 119) -/
def rowPages (page : Nat) : List Nat := page :: Config.rowMates page

/-- Whether unit `u` of package `p` is under a targeted self-test of one of its dies (R349). -/
def State.tested (s : State) (p u : Nat) : Bool := (List.range 4).any (fun d => decide ((kgetD s.dies (4 * p + d) {}).testUnit = some u))

/-- Whether stack `u` is under a test that covers `a`: of the whole stack (R349), or of the row of an address (Table 11.12). -/
def State.rowTested (s : State) (a u : Nat) : Bool :=
  (List.range 4).any (fun d =>
    let x := kgetD s.dies (4 * gpaPkg a + d) {}
    decide (x.testUnit = some u) && (match x.testGpa with
      | some g => (rowPages (g / 65536 * 65536)).contains (a / 65536 * 65536)
      | none => true))

/-- The etlet whose scratchpad or pipeline the test of a cluster concerns alone, where an error names an address of it. -/
def Die.testEtlet (d : Die) : Option Nat := d.testGpa.bind (fun g => if regionOf g = 2 then some (scratchOwner g) else none)

/-- Whether the row, slice or CXL port that holds `a` is under test: its requests wait (R349, Table 11.12). -/
def State.homeTested (s : State) (a : Nat) : Bool :=
  let o := gpaOff a
  let slice := (let d := kgetD s.dies (homeDie a) {}
    decide (d.testUnit = some (0x40 + homeCluster a % 64)) && d.testEtlet.isNone)
  match regionOf a with
  | 0 => s.rowTested a (4 * (o / 2 ^ 38 % 4) + o / 4096 % 4) || slice
  | 1 => s.tested (gpaPkg a) (0x38 + o / 2 ^ 42) || slice
  | _ => false

/-- Whether `a` lies in a line of a failed slice that did not read back (Table 11.12). -/
def State.badLine (s : State) (a : Nat) : Bool := decide (regionOf a ≤ 1) && (kgetD s.clusters (homeCluster a) {}).badLines.contains (a / 64)

/-- Whether a read at `a` is answered with an abort: also where a failed slice's line did not read back, until it is
written again (Table 11.12). -/
def State.abortsR (s : State) (a : Nat) : Bool :=
  s.aborts a || s.badLine a

/-- The midfield region that holds a physical address, or held it in a copy that is lost. -/
def State.regionAt (s : State) (a : Nat) : Option Region :=
  (kgetD s.domains (gpaPkg a / 1024) {}).regions.find? (fun r =>
    (r.copies ++ r.gone).any (fun c => decide (c.1 = switchOf a ∧ c.2 * 65536 ≤ a % 2 ^ 35 ∧ a % 2 ^ 35 < (c.2 + r.granules) * 65536)))

/-- The address in copy `d` of a region that `a` has in copy `c`. -/
def inCopy (a : Nat) (c d : Nat × Nat) : Nat := gpaPkg a * 2 ^ 47 + 3 * 2 ^ 44 + d.1 * 2 ^ 37 + (a % 2 ^ 35 + d.2 * 65536 - c.2 * 65536)

/-- The address in a region's first living copy of an address that one of the copies `cs` holds. -/
def Region.lead (r : Region) (cs : List (Nat × Nat)) (a : Nat) : Nat :=
  match cs.find? (fun c => decide (c.1 = switchOf a)), r.copies.head? with
  | some c, some d => inCopy a c d
  | _, _ => a

/-- Where an access to a lost copy of a mirrored region goes: to the survivor (R214). -/
def State.survivor (s : State) (a : Nat) : Nat :=
  if regionOf a = 3 then ((s.regionAt a).map (fun r => r.lead r.gone a)).getD a else a

/-- The primary copy's address of a midfield address, where full/empty operations execute (R213). -/
def State.primary (s : State) (a : Nat) : Nat :=
  if regionOf a = 3 then ((s.regionAt a).map (fun r => r.lead (r.copies ++ r.gone) a)).getD a else a

/-- Whether an access at `a` is answered with LOST (R214), as is one to an address of the midfield that no region holds.
(DESIGN CHOICE, log 128) -/
def State.lost (s : State) (a : Nat) : Bool :=
  decide (regionOf a = 3) && (match s.regionAt a with | some r => decide (r.state = 2) | none => true)

/-- The other copy's address of a mirrored region, while both copies live (R213). -/
def State.mirror (s : State) (a : Nat) : Option Nat :=
  match s.regionAt a with
  | some r =>
    if r.state ≠ 0 then none
    else match r.copies.find? (fun c => decide (c.1 = switchOf a)), r.copies.find? (fun c => decide (c.1 ≠ switchOf a)) with
      | some c, some d => some (inCopy a c d)
      | _, _ => none
  | none => none

/-! ### Full/empty bits (R85, R86) -/

/-- Whether the word holding `a` reads EMPTY to `key` (R85). -/
def State.isEmpty (s : State) (key a : Nat) : Bool :=
  s.fe.contains (a / 8) && (regionOf a != 0 || decide (kgetD s.feKey (a / 64) key = key))

/-- The scope of the engine operation that filled the word (R98, R106), 0 where none did. -/
def State.filledBy (s : State) (a : Nat) : Nat := kgetD s.feEng (a / 8) 0

/-- Puts a word number into the sorted list of EMPTY words. -/
def feIns (w : Nat) : List Nat → List Nat
  | [] => [w]
  | x :: l => if x = w then x :: l else if w < x then w :: x :: l else x :: feIns w l

/-- Writes the word's bit; a new owner of an HBM line first makes the whole line FULL (R85). -/
def State.setFe (s : State) (key a : Nat) (empty : Bool) : State :=
  let s := if regionOf a = 0 ∧ kgetD s.feKey (a / 64) key ≠ key then
      { s with fe := s.fe.filter (fun w => decide (w / 8 ≠ a / 64)) } else s
  let s := if regionOf a = 0 then { s with feKey := kput s.feKey (a / 64) key } else s
  { s with fe := if empty then feIns (a / 8) s.fe else s.fe.filter (fun w => decide (w ≠ a / 8)) }

/-! ### Caches (R79 to R83) -/

/-- Whether an L1 or RDC line counts as present: filled under the key, and homed on the die or filled under
the current acquire stamp (R81). -/
def CLine.present (c : CLine) (key stamp line : Nat) : Bool :=
  decide (c.line = line ∧ c.key = key) && (c.home || decide (c.stamp = stamp))

/-- Adds a line to a cache of `cap` lines, replacing one the implementation chooses when it is full. -/
def cacheAdd (n cap : Nat) (c : CLine) (l : List CLine) : List CLine :=
  let l := l.filter (fun x => decide (x.line ≠ c.line))
  let l := if l.length < cap then l else l.eraseIdx (Config.evict n l.length % l.length)
  l ++ [c]

/-- The 64 bytes of a line as `key` reads them. -/
def State.lineData (s : State) (key line : Nat) : BitVec 512 := BitVec.ofNat 512 (s.rdMem key (line * 64) 64)

/-- The value at `a` from a present line of etlet `e`'s L1, or of its die's RDC. -/
def State.cached (s : State) (e key a width : Nat) (l : List CLine) : Option Nat :=
  match l.find? (fun c => c.present key (kgetD s.dies (dieOf e) {}).stamp (a / 64)) with
  | none => none
  | some c => some (if c.home then s.rdMem key a width else c.data.toNat / 256 ^ (a % 64) % 256 ^ width)

/-- A line with bytes replaced (a store updates a line it hits, R79, R81). -/
def CLine.patch (c : CLine) (a width : Nat) (v : Nat) : CLine :=
  { c with data := loop (fun i d =>
      (d &&& ~~~ (BitVec.ofNat 512 (255 * 256 ^ (a % 64 + i)))) ||| BitVec.ofNat 512 (v / 256 ^ i % 256 * 256 ^ (a % 64 + i))) 0 width c.data }

/-- Every L1 copy of a line homed on the die goes, but the storing etlet's own (R79). -/
def State.dropOthers (s : State) (a : Nat) : State :=
  if regionOf a ≤ 1 then
    { s with etlets := s.etlets.map (fun p =>
        if dieOf p.1 = homeDie a then (p.1, { p.2 with l1 := p.2.l1.filter (fun c => decide (c.line ≠ a / 64)) }) else p) }
  else s

/-- One access that reaches a die's memory counts in its page-heat counter (R90). -/
def State.heatUp (s : State) (a : Nat) : State :=
  if regionOf a = 0 ∨ regionOf a = 1 then
    let p := (if regionOf a = 0 then gpaOff a % 2 ^ 38 / 65536 else 0x400000 + gpaOff a % 2 ^ 40 / 65536)
    s.modDie (homeDie a) (fun d => { d with heat := kmod d.heat p 0 (fun n => min 255 (n + 1)), accesses := d.accesses + 1 })
  else s

/-- Whether every miss register of the home slice is in use for a request sent at `sent` by etlet `e`: 256 other lines of the slice are
being fetched for requests sent no later. -/
def State.missFull (s : State) (key a sent : Nat) : Bool :=
  decide (regionOf a ≤ 1) && !(kgetD s.clusters (homeCluster a) {}).l2.contains (a / 64, key) &&
  decide (256 ≤ ((s.save.etlets.flatMap (fun p => p.2.reqs.filterMap (fun r =>
    if r.2.reply = none ∧ r.2.sent ≤ sent ∧ regionOf r.2.gpa ≤ 1 ∧ homeCluster r.2.gpa = homeCluster a ∧ r.2.gpa / 64 ≠ a / 64 ∧
        !(kgetD s.clusters (homeCluster a) {}).l2.contains (r.2.gpa / 64, r.2.key)
    then some (r.2.gpa / 64) else none))).eraseDups.length))

/-- The home L2 holds the line after an access; a miss reaches memory (R80, R90). -/
def State.l2Fill (s : State) (key a : Nat) : State :=
  if regionOf a = 0 ∨ regionOf a = 1 then
    let cl := kgetD s.clusters (homeCluster a) {}
    if cl.l2.contains (a / 64, key) then s
    else
      let s := s.heatUp a
      let l := cl.l2.filter (fun x => decide (x.1 ≠ a / 64))
      let l := if l.length < 65536 then l else l.eraseIdx (Config.evict s.free l.length % l.length)
      s.modCl (homeCluster a) (fun c => { c with l2 := l ++ [(a / 64, key)] })
  else s

/-- A read at the home L2: while every miss register is in use, a miss bypasses the slice and allocates nothing (R82). -/
def State.l2Touch (s : State) (key a : Nat) : State := if s.missFull key a s.now then s.heatUp a else s.l2Fill key a

/-- The pending-write filter with a line more: of 64 lines the oldest has completed at memory by then (R82). (DEDUCED, log 42) -/
def filterAdd (line : Nat) (l : List Nat) : List Nat :=
  if l.contains line then l else (if l.length < 64 then l else l.drop 1) ++ [line]

/-- A write accepted by a slice enters the pending-write filter (R82). -/
def State.l2Write (s : State) (key a : Nat) : State :=
  if regionOf a = 0 ∨ regionOf a = 1 then
    (s.l2Fill key a).modCl (homeCluster a) (fun c => { c with
      writes := filterAdd (a / 64) c.writes,
      badLines := c.badLines.filter (fun x => decide (x ≠ a / 64)) })
  else s

/-- Adds a line to the L1 of etlet `e`. -/
def State.l1Add (s : State) (e : Nat) (c : CLine) : State :=
  if e = s.eid then s.modE (fun x => { x with l1 := cacheAdd s.free 512 c x.l1 })
  else { s with etlets := kmod s.etlets e {} (fun x => { x with l1 := cacheAdd s.free 512 c x.l1 }) }

/-- The data with which a line homed elsewhere is filled: the stores of the die to it that have left their buffers are in it (R81, R95). -/
def State.fillData (s : State) (die key line : Nat) : BitVec 512 :=
  let out := (s.save.etlets.filter (fun p => decide (dieOf p.1 = die))).flatMap (fun p =>
    p.2.posted.filter (fun x => decide (x.done = 0 ∧ x.key = key ∧ x.gpa / 64 = line) && x.ca))
  (out.foldl (fun (c : CLine) (x : SEntry) => c.patch x.gpa x.width x.data.toNat) ⟨line, key, 0, false, s.lineData key line⟩).data

/-- Fills the L1 of etlet `e` (and the die's RDC for a line homed elsewhere) with a CACHED line, under the stamp at which its request
left the die (R79, R81). -/
def State.fill (s : State) (e key a stamp : Nat) : State :=
  if regionOf a = 0 ∨ regionOf a = 1 then
    let home := decide (homeDie a = dieOf e)
    let c : CLine := ⟨a / 64, key, stamp, home, if home then 0 else s.fillData (dieOf e) key (a / 64)⟩
    (if home then s else s.modDie (dieOf e) (fun d => { d with rdc := cacheAdd s.free 1048576 c d.rdc })).l1Add e c
  else s

/-- The die's L1 lines that are homed elsewhere go. -/
def State.dropForeign (s : State) (die : Nat) : State :=
  let f := fun (x : Etlet) => { x with l1 := x.l1.filter (·.home) }
  { s with etl := if dieOf s.eid = die then f s.etl else s.etl,
           etlets := s.etlets.map (fun p => if dieOf p.1 = die then (p.1, f p.2) else p) }

/-- An acquire at package scope or wider advances the die's stamp; a wrap empties the RDC, and no L1 line homed elsewhere is left that
could carry the stamp again (R81). -/
def State.acquire (s : State) (die : Nat) : State :=
  if (kgetD s.dies die {}).stamp = 255 then (s.dropForeign die).modDie die (fun d => { d with stamp := 0, rdc := [] })
  else s.modDie die (fun d => { d with stamp := d.stamp + 1 })

/-- Drops the storing die's own RDC and L1 copies of a line homed elsewhere (R277). -/
def State.dropCopies (s : State) (die a : Nat) : State :=
  if homeDie a = die then s
  else
    let f := fun (x : Etlet) => { x with l1 := x.l1.filter (fun c => decide (c.line ≠ a / 64)) }
    let s := s.modDie die (fun d => { d with rdc := d.rdc.filter (fun c => decide (c.line ≠ a / 64)) })
    { s with etl := if dieOf s.eid = die then f s.etl else s.etl,
             etlets := s.etlets.map (fun p => if dieOf p.1 = die then (p.1, f p.2) else p) }

/-- A store to a CACHED line homed elsewhere updates the storing die's RDC and the etlet's L1 line as it leaves the buffer
(R79, R81, R83, R95). (DEDUCED, log 39) -/
def State.patchCopies (s : State) (e key a width v : Nat) : State :=
  if homeDie a = dieOf e then s
  else
    let f := fun (c : CLine) => if decide (c.line = a / 64 ∧ c.key = key) then c.patch a width v else c
    let s := s.modDie (dieOf e) (fun d => { d with rdc := d.rdc.map f })
    if e = s.eid then s.modE (fun x => { x with l1 := x.l1.map f })
    else { s with etlets := kmod s.etlets e {} (fun x => { x with l1 := x.l1.map f }) }

/-! ### Translation (R71 to R78) -/

/-- The kind of an access. -/
inductive Acc1 where
  | rd | wr | rw | fetch
deriving DecidableEq, Repr

/-- What a translation gives. -/
inductive Xl where
  | ok (gpa : Nat) (ca : Bool)
  | miss
  | bad (code : Nat)
deriving DecidableEq, Repr

/-- R71: bits [63:56] all equal bit 55. -/
def canonical (va : Word) : Bool := decide (bits va 63 55 = 0 ∨ bits va 63 55 = 511)

/-- Whether a canonical address lies in the scratchpad window (R72). -/
def inWindow (va : Word) : Bool := canonical va && decide (bits va 55 28 = 0xF000000)

/-- The bytes of a page mapped at a level (Table 4.1). -/
def pageBytes : Nat → Nat
  | 1 => 2 ^ 30
  | 2 => 2 ^ 21
  | _ => 2 ^ 16

/-- The permissions of a leaf (R74). -/
def leafAllows (leaf : Word) (user : Bool) (k : Acc1) (gpa : Nat) : Bool :=
  let b := fun i => leaf.getLsbD i
  (!user || (b 5 && regionOf gpa != 5)) && regionOf gpa != 2 &&
  (match k with
   | .rd => b 2
   | .wr => b 3
   | .rw => b 2 && b 3
   | .fetch => b 4 && (regionOf gpa = 0 || regionOf gpa = 1))

/-- A translation-cache entry's hit (R75). -/
def TEntry.hits (t : TEntry) (key : Nat) (va : Word) : Bool :=
  decide (t.key = key ∧ t.vpage = va.toNat / pageBytes t.level)

/-- The global physical address a leaf gives. -/
def leafAddr (leaf : Word) (level : Nat) (va : Word) : Nat := leaf.toNat / 4096 * 4096 + va.toNat % pageBytes level

/-- The scratchpad-window access of the thread in focus (R78): the etlet, or none. -/
def State.windowEtlet (s : State) (va : Word) : Option Nat :=
  if bits va 27 18 = 0x3FF then some s.eid
  else s.lnch.etletOf (bits s.th.teamix 34 28 * s.lnch.packages + bits s.th.teamix 27 18) (bits s.th.teamix 17 16) (bits va 27 18)

/-- The midfield window, VA[55:44] = 0xE00 (R212). -/
def inMidWindow (va : Word) : Bool := canonical va && decide (bits va 55 44 = 0xE00)

/-- The copy of a region that a load reads: the one on the issuing die's plane, while it lives (R213). -/
def Region.copyFor (r : Region) (die : Nat) : Nat × Nat :=
  (r.copies.find? (fun c => decide (c.1 / 64 = (if die % 4 < 2 then 0 else 1)))).getD (r.copies.headD (0, 0))

/-- The address in the copy that a load from `die` reads of a midfield address. -/
def State.planeAddr (s : State) (die a : Nat) : Nat :=
  if regionOf a ≠ 3 then a
  else match s.regionAt a with
  | none => a
  | some r => (r.copies.find? (fun c => decide (c.1 = switchOf a))).elim a (fun c => inCopy a c (r.copyFor die))

/-- The mapped region of launch `lk` that a VA lies in, with its domain: every thread of the launch reaches it, from whichever domain
(R212). -/
def State.midRegion (s : State) (lk va : Nat) : Option (Nat × Region) :=
  s.domains.findSome? (fun d =>
    (d.2.regions.find? (fun r => decide (r.launch = lk ∧ r.unmapped = false ∧ r.va ≤ va ∧ va < r.va + r.granules * 65536))).map (fun r => (d.1, r)))

/-- The address of a midfield-window access, in the region's primary copy (R212, R213). -/
def State.midAddr (s : State) (va : Word) : Xl :=
  match s.midRegion s.lkey va.toNat with
  | none => .bad 0x04
  | some (dom, r) =>
    let c := r.copies.headD (0, 0)
    .ok (dom * 1024 * 2 ^ 47 + 3 * 2 ^ 44 + c.1 * 2 ^ 37 + c.2 * 65536 + (va.toNat - r.va)) false

/-- Translates an access of the thread in focus (R71 to R78): from the etlet's translation cache. -/
def State.xlate (s : State) (user : Bool) (k : Acc1) (va : Word) : Xl :=
  if !canonical va then .bad 0x04
  else if inWindow va then
    if k = .fetch ∨ 0x30000 ≤ bits va 17 0 then .bad 0x05
    else match s.windowEtlet va with
      | none => .bad 0x05
      | some e => .ok (scratch e + bits va 17 0) false
  else if inMidWindow va then
    match s.midAddr va with
    | .ok g ca => if k = .fetch then .bad 0x05 else .ok g ca
    | x => x
  else match s.etl.tcache.find? (fun t => t.hits s.kern.key va) with
    | none => .miss
    | some t =>
      let gpa := leafAddr t.leaf t.level va
      if leafAllows t.leaf user k gpa then .ok gpa (t.leaf.getLsbD 6) else .bad 0x05

/-- The walk (R72 to R74) from a table of level `l`: the leaf and its level, or XLATE. A table whose address is not aligned to its size
is used where it stands. (DESIGN CHOICE, log 129) -/
def State.walk (s : State) (key : Nat) (va : Word) : Nat → List (Nat × Nat × Nat) → Option (Nat × Word)
  | _, [] => none
  | table, (l, h, lo) :: rest =>
    let a := table + 8 * bits va h lo
    if gpaBad table || decide (1 < regionOf table) || s.abortsR a then none
    else
      let e := wd (s.rdMem key a 8)
      let next := e.toNat / 4096 * 4096
      if e.getLsbD 0 = false ∨ bits e 11 7 ≠ 0 then none
      else if e.getLsbD 1 then
        if l = 0 ∨ next % pageBytes l ≠ 0 ∨ gpaBad next then none else some (l, e)
      else s.walk key va next rest

/-- The four levels of Table 4.1: level, high and low index bit. -/
def walkLevels : List (Nat × Nat × Nat) := [(0, 55, 43), (1, 42, 30), (2, 29, 21), (3, 20, 16)]

/-- The addresses of the entries that a walk reads (R73). -/
def State.walkReads (s : State) (key : Nat) (va : Word) : Nat → List (Nat × Nat × Nat) → List Nat
  | _, [] => []
  | table, (_, h, lo) :: rest =>
    let a := table + 8 * bits va h lo
    if gpaBad table || decide (1 < regionOf table) || s.abortsR a then []
    else
      let e := wd (s.rdMem key a 8)
      if e.getLsbD 0 = false ∨ bits e 11 7 ≠ 0 ∨ e.getLsbD 1 = true then [a]
      else a :: s.walkReads key va (e.toNat / 4096 * 4096) rest

/-- A walk reads each entry from the entry's home L2 (R73). -/
def State.walkTouch (s : State) (key root : Nat) (va : Word) : State :=
  (s.walkReads key va root walkLevels).foldl (fun s a => s.l2Touch key a) s

/-- The entry of the cluster's translation cache for an access of the etlet in focus (R75). -/
def State.clusterEntry (s : State) (key : Nat) (va : Word) : Option TEntry :=
  (kgetD s.clusters (clusterOf s.eid) {}).tcache.find? (fun t => t.hits key va)

/-- A translation made to the end, by the cluster's cache or a walk where the etlet's cache does not hold the page: what engines and range
operations use (R75, R176, R290), for kernel `k` in user or supervisor mode. -/
def State.xlateNow (s : State) (k : Kernel) (user : Bool) (kind : Acc1) (va : Word) : Xl :=
  match s.xlate user kind va with
  | .miss =>
    match ((s.clusterEntry k.key va).map (fun t => (t.level, t.leaf))).orElse (fun _ => s.walk k.key va k.root.toNat walkLevels) with
    | none => .bad 0x04
    | some (l, leaf) =>
      let gpa := leafAddr leaf l va
      if leafAllows leaf user kind gpa then .ok gpa (leaf.getLsbD 6) else .bad 0x05
  | x => x

/-- What that translation does to the home L2s: a walk reads each entry there (R73, R90). -/
def State.xlateTouch (s : State) (k : Kernel) (user : Bool) (kind : Acc1) (va : Word) : State :=
  match s.xlate user kind va with
  | .miss => if (s.clusterEntry k.key va).isSome then s else s.walkTouch k.key k.root.toNat va
  | _ => s

/-- Whether that translation must wait for the test of a home that holds an entry of its walk (R349). -/
def State.walkBusy (s : State) (k : Kernel) (user : Bool) (kind : Acc1) (va : Word) : Bool :=
  match s.xlate user kind va with
  | .miss => (s.clusterEntry k.key va).isNone && (s.walkReads k.key va k.root.toNat walkLevels).any s.homeTested
  | _ => false

/-- A translation cache of `cap` entries after a fill. -/
def tcAdd (n cap : Nat) (t : TEntry) (l : List TEntry) : List TEntry :=
  let l := l.filter (fun x => decide (x ≠ t))
  (if l.length < cap then l else l.eraseIdx (Config.evict n l.length % l.length)) ++ [t]

/-! ### Rings (R166, R167) -/

/-- The bytes of one slot of a ring (R165). -/
def tileBytes (lines k fmt sp : Nat) : Nat :=
  let el := match fmt with | 7 => 64 | 6 => 32 | 0 => 16 | 1 => 16 | 4 => 4 | _ => 8
  let mx := if fmt = 2 ∨ fmt = 3 ∨ fmt = 4 then lines * k / 32 else 0
  match fmt, sp with
  | 8, _ => lines * (k / 32) * 34
  | _, 0 => lines * k * el / 8 + mx
  | _, 1 => lines * (k / 64) * (32 * el / 8 + 24) + mx
  | _, _ => lines * (k / 64) * (16 * el / 8 + 12) + mx

/-- The slot size: the tile's, rounded up to 256 bytes (R165). -/
def Ring.slotBytes (r : Ring) : Nat := (tileBytes r.lines r.k r.fmt r.sp + 255) / 256 * 256

/-- Whether scratchpad byte `o` lies in an occupied slot of the ring. -/
def Ring.occupies (r : Ring) (o : Nat) : Bool :=
  r.q.any (fun t => decide (r.base + t.slot * r.slotBytes ≤ o ∧ o < r.base + (t.slot + 1) * r.slotBytes))

/-- The lowest of `n` scratchpad bytes from offset `o` in an occupied slot of etlet `e` (R167). -/
def Etlet.hazard (e : Etlet) : Nat → Nat → Option Nat
  | _, 0 => none
  | o, n + 1 => if e.rings.any (fun r => r.2.occupies o) then some o else e.hazard (o + 1) n

/-- Whether a store of `width` bytes at a physical address meets an occupied slot. -/
def State.hazardAt (s : State) (gpa width : Nat) : Bool :=
  if regionOf gpa = 2 then ((s.etletAt (scratchOwner gpa)).hazard (gpa - scratch (scratchOwner gpa)) width).isSome else false

/-! ### The undo log (R134) -/

/-- Whether a boundary's verdict is pending (R134). -/
def Ckpt.pend (c : Ckpt) : Bool := !c.bounds.isEmpty

/-- Whether a team's scratchpad writes are logged now (R134). -/
def Ckpt.logs (c : Ckpt) : Bool := c.on && c.pend && !c.lapsed

/-- Records the word holding `gpa` before a write of kernel `kid` of etlet `e`, or lapses (R134, R136). -/
def logWord (s : State) (e kid gpa : Nat) : State :=
  let et := if e = s.eid then s.etl else kgetD s.etlets e {}
  let c := (kgetD et.kernels kid {}).ckpt
  if c.logs = false ∨ regionOf gpa ≠ 2 then s
  else
    let u : Undo := ⟨gpa / 8 * 8, wd (s.rdMem 0 (gpa / 8 * 8) 8), s.fe.contains (gpa / 8), c.epoch⟩
    let c := if (et.kernels.map (fun k => k.2.ckpt.undo.length)).sum < 2048 then { c with undo := c.undo ++ [u] }
      else { c with lapsed := true, reason := c.reason ||| 2 }
    let f := fun (x : Etlet) => { x with kernels := kmod x.kernels kid {} (fun k => { k with ckpt := c }) }
    if e = s.eid then s.modE f else { s with etlets := kmod s.etlets e {} f }

/-! ### At the home -/

/-- The new value of an atomic (Table 19.3). -/
def amoNew (op n : Nat) (x y : Nat) : Nat :=
  let sx := fun (v : Nat) => if 2 ^ (n - 1) ≤ v then Int.ofNat v - Int.ofNat (2 ^ n) else Int.ofNat v
  match op with
  | 0 => (x + y) % 2 ^ n
  | 1 => y
  | 2 => x &&& y
  | 3 => x ||| y
  | 4 => if sx x ≤ sx y then x else y
  | 5 => if sx x ≤ sx y then y else x
  | 6 => min x y
  | _ => max x y

/-- Reads at the home, through the L2 or the device registers. -/
def State.homeRead (s : State) (key a width : Nat) : Nat :=
  if regionOf a = 5 then (s.rdDev (gpaPkg a) (gpaOff a) width).getD 0 else s.rdMem key a width

/-- The counter named by a move's SCORE, if that names an etlet (R17, R91). -/
def State.scoreOf (s : State) (m : Migration) : Option (Nat × Nat) :=
  let e := m.score.toNat % 2 ^ 32
  if s.endpoint e ∧ classOf e ≤ 1 then some (e, bits m.score 35 32) else none

/-- A write of a migration register (Table 4.8) other than GO. A write while a move is under way counts for the move too.
(DESIGN CHOICE, log 130) -/
def Migration.setReg (m : Migration) (i : Nat) (v : Word) : Migration :=
  match i with
  | 0 => { m with src := v }
  | 1 => { m with dst := v }
  | 2 => { m with size := v }
  | 3 => { m with entry := v }
  | 4 => { m with newleaf := v }
  | 5 => { m with score := v }
  | _ => m

/-- The other copy of a page under migration that a write at `a` also reaches (R91): once NEWLEAF is written, writes at DST reach SRC too,
until the XINV has completed everywhere. -/
def State.migCopy (s : State) (a : Nat) : Option Nat :=
  let m := (kgetD s.dies (homeDie a) {}).mig
  let n := if m.size.toNat % 2 = 0 then 65536 else 2 ^ 21
  if m.busy ∧ m.src.toNat ≤ a ∧ a < m.src.toNat + n then some (m.dst.toNat + (a - m.src.toNat))
  else if m.busy ∧ m.moved ∧ m.dst.toNat ≤ a ∧ a < m.dst.toNat + n then some (m.src.toNat + (a - m.dst.toNat))
  else none

/-- Every line of the pages of `n` bytes from `a` reaches memory once (R90). -/
def State.heatPage (s : State) (a n : Nat) : State :=
  loop (fun i s =>
    let b := a + 65536 * i
    let p := (if regionOf b = 0 then gpaOff b % 2 ^ 38 / 65536 else 0x400000 + gpaOff b % 2 ^ 40 / 65536)
    s.modDie (homeDie b) (fun d => { d with heat := kmod d.heat p 0 (fun k => min 255 (k + 1024)), accesses := d.accesses + 1024 })) 0 (n / 65536) s

/-- A page's bytes copied to another place, with their owners; the words of the copy are FULL (R91). -/
def State.copyPage (s : State) (src dst n : Nat) : State :=
  let mv := fun (u : Nat) (lo hi : Nat) => decide (lo ≤ u ∧ u < hi)
  let base := s.mem.filter (fun (c : Host.Cell) => !mv c.1 dst (dst + n))
  let s := { s with mem := (s.mem.filter (fun (c : Host.Cell) => mv c.1 src (src + n))).foldl (fun (m : Memory) (c : Host.Cell) => memWr m (c.1 - src + dst) c.2) base }
  let own := s.owner.filter (fun c => !mv (c.1 * 16) dst (dst + n))
  { s with
    owner := (s.owner.filter (fun c => mv (c.1 * 16) src (src + n))).foldl (fun (m : KMap (Nat × Nat)) (c : Nat × Nat × Nat) => kput m (c.1 - src / 16 + dst / 16) c.2) own,
    fe := s.fe.filter (fun w => !mv (w * 8) dst (dst + n)), feKey := s.feKey.filter (fun c => !mv (c.1 * 64) dst (dst + n)) }

/-- The bytes of a migration's page (Table 4.8). -/
def Migration.bytes (m : Migration) : Nat := if m.size.toNat = 0 then 65536 else 2 ^ 21

/-- Whether a migration's operands are bad (Table 4.8, STATUS 2). -/
def Migration.bad (m : Migration) (die : Nat) : Bool :=
  let n := m.bytes
  let out := fun (a : Word) => decide (1 < regionOf a.toNat ∨ homeDie a.toNat ≠ die ∨ a.toNat % n ≠ 0) || gpaBad a.toNat
  decide (1 < m.size.toNat) || out m.src || out m.dst || decide (regionOf m.src.toNat = regionOf m.dst.toNat) ||
  decide (bits m.score 63 36 ≠ 0 ∨ m.entry.toNat % 8 ≠ 0 ∨ 1 < regionOf m.entry.toNat ∨
    m.newleaf.toNat / 4096 * 4096 ≠ m.dst.toNat ∨ bits m.newleaf 1 0 ≠ 3 ∨ bits m.newleaf 11 7 ≠ 0)

/-- A write of GO (R91): ignored while BUSY; it refuses bad operands or an HBM source with a waiter that would move
to CXL memory; else the copy is made, and stores go to both copies from here on. (DEDUCED, log 46) -/
def State.migGo (s : State) (die : Nat) (v : Word) : State :=
  let m := (kgetD s.dies die {}).mig
  let set := fun (b : Bool) (st : Nat) (s : State) => s.modDie die (fun d => { d with mig := { m with busy := b, moved := false, status := st } })
  if m.busy ∨ v.getLsbD 0 = false then s
  else if m.bad die then set false 2 s
  else if regionOf m.src.toNat = 0 ∧ s.feq.any (fun q => decide (q.2 ≠ [] ∧ m.src.toNat ≤ q.1 * 8 ∧ q.1 * 8 < m.src.toNat + m.bytes)) then set false 1 s
  else set true m.status (((s.copyPage m.src.toNat m.dst.toNat m.bytes).heatPage m.src.toNat m.bytes).heatPage m.dst.toNat m.bytes)

/-- A register with the bytes of a store replaced. -/
def patchReg (old : Word) (o width v : Nat) : Word :=
  wd (loop (fun i x => x - x / 256 ^ (o + i) % 256 * 256 ^ (o + i) + v / 256 ^ i % 256 * 256 ^ (o + i)) 0 width old.toNat)

/-- A store to a device register (Table 4.8, R235): the bytes stored, GO among them; what is read only or not listed ignores it. -/
def State.devWrite (s : State) (a width v : Nat) : State :=
  let o := gpaOff a
  let die := gpaPkg a * 4 + (o - 0x10000) / 0x1000
  let r := o % 0x1000 / 8
  if 0x10000 ≤ o ∧ o < 0x14000 ∧ r < 8 then
    if r = 6 then s.migGo die (patchReg 0 (o % 8) width v)
    else s.modDie die (fun x => { x with mig := x.mig.setReg r (patchReg (x.mig.reg r) (o % 8) width v) })
  else s

/-- Writes at the home: a device register, or memory, the other copy of a page under migration or of a mirrored region, the L2's
state; the directory drops every other L1 copy on the home's die (R79). -/
def State.homeWrite (s : State) (key a width v : Nat) : State :=
  if regionOf a = 5 then s.devWrite a width v
  else
    let s := ((s.dropOthers a).l2Write key a).wrMem key a width v
    let s := match s.migCopy a with | some b => s.wrMem key b width v | none => s
    if regionOf a = 3 then (match s.mirror a with | some b => s.wrMem key b width v | none => s) else s

/-- Writes a word's full/empty bit, in both copies of a mirrored region (R85, R213); `eng` is the scope of the engine operation that
fills it, 0 for any other access (R98). -/
def State.feWrite (s : State) (key w : Nat) (empty : Bool) (eng : Nat) : State :=
  let s := s.setFe key w empty
  let s := match s.mirror w with | some b => s.setFe key b empty | none => s
  let ws := w / 8 :: (s.mirror w).toList.map (· / 8)
  { s with feEng := if eng = 0 then s.feEng.filter (fun p => !ws.contains p.1) else ws.foldl (fun m x => kput m x eng) s.feEng }

/-- What a full/empty access does when its condition holds (Table 4.7): state and value. -/
def feDo (s : State) (key a : Nat) (op : MemOp) : State × Word :=
  let w := a / 8 * 8
  match op with
  | .ldf => (s.l2Touch key w, wd (s.rdMem key w 8))
  | .ldfe => ((s.l2Touch key w).feWrite key w true 0, wd (s.rdMem key w 8))
  | .stf d => ((s.homeWrite key w 8 d.toNat).feWrite key w false 0, 0)
  | .ste d => ((s.homeWrite key w 8 d.toNat).feWrite key w false 0, 0)
  | .sete => ((s.l2Touch key w).feWrite key w true 0, 0)
  | .setf => ((s.l2Touch key w).feWrite key w false 0, 0)
  | _ => (s, 0)

/-- Whether a full/empty access may act now (Table 4.7). -/
def feOk (s : State) (key a : Nat) : MemOp → Bool
  | .ldf => !s.isEmpty key a
  | .ldfe => !s.isEmpty key a
  | .ste _ => s.isEmpty key a
  | _ => true

/-- Whether a full/empty access is conditional (R87). -/
def MemOp.conditional : MemOp → Bool
  | .ldf | .ldfe | .ste _ => true
  | _ => false

/-- Whether a request writes (R204). -/
def MemOp.writes : MemOp → Bool
  | .load _ _ | .read _ _ | .ldf | .mfquota | .mfstat _ => false
  | _ => true

/-- Whether a request goes to the midfield switches' own store of regions, and to no word (R211). -/
def MemOp.mf : MemOp → Bool
  | .mfalloc _ _ _ | .mffree _ | .mfquota | .mfstat _ => true
  | _ => false

/-- Bytes a request touches. -/
def MemOp.width : MemOp → Nat
  | .load w _ | .store w _ | .amo _ w _ | .cas w _ _ | .fagg w _ => w
  | .bytes l => l.length
  | .read _ l => l.length
  | _ => 8

/-- A loaded value in a register (R320). -/
def extend (width : Nat) (signed : Bool) (v : Nat) : Word := if signed then sext v (8 * width) else wd v

/-- Performs a load, store, atomic or CAS at its home as one indivisible step (R277, R287). -/
def rmwDo (s : State) (key a : Nat) (op : MemOp) : State × Reply :=
  match op with
  | .load w sg => (s.l2Touch key a, .val (extend w sg (s.homeRead key a w)))
  | .read _ l => (l.foldl (fun s b => s.l2Touch key b) s, .bytes (l.map (fun b => s.homeRead key b 1)))
  | .store w d => (s.homeWrite key a w d.toNat, .val 0)
  | .bytes l => (loop (fun i s => s.homeWrite key (a + i) 1 (l.getD i 0)) 0 l.length s, .val 0)
  | .amo f w y =>
    let x := s.homeRead key a w
    (s.homeWrite key a w (amoNew f (8 * w) x (y.toNat % 256 ^ w)), .val (extend w true x))
  | .fagg w y =>
    let x := s.homeRead key a w
    (s.homeWrite key a w (amoNew 0 (8 * w) x (y.toNat % 256 ^ w)), .val (wd x))
  | .cas w e n =>
    let x := s.homeRead key a w
    (if x = e.toNat % 256 ^ w then s.homeWrite key a w (n.toNat % 256 ^ w) else s.l2Touch key a, .val (extend w true x))
  | _ => (s, .val 0)

/-! ### Store buffer and hold queue (R99, R109) -/

/-- Whether two byte ranges meet. -/
def overlap (a n b m : Nat) : Bool := decide (a < b + m ∧ b < a + n)

/-- Bytes of a value of `width` bytes at `a` replaced by those of a store (newest last). -/
def overlayBytes (a width : Nat) (v : Nat) (b w : Nat) (d : Word) : Nat :=
  loop (fun i v =>
    if b ≤ a + i ∧ a + i < b + w then
      v - v / 256 ^ i % 256 * 256 ^ i + d.toNat / 256 ^ (a + i - b) % 256 * 256 ^ i
    else v) 0 width v

/-- The store buffer with the confirmed stores on their way into it (R99, R109). -/
def Etlet.buf (e : Etlet) : List SEntry := e.sbuf ++ e.drainq

/-- The number of the next store of the etlet in focus: above those of all that the buffer and its kernel's hold queue have. -/
def State.storeNo (s : State) : Nat := (s.etl.buf.map (·.no) ++ s.kern.ckpt.held.map (·.no)).foldl max 0 + 1

/-- A value with the bytes of thread `tid`'s own buffered stores and its team's held ones, in the order in which they were issued, the newest
last: past a lapse the buffer has newer ones than the hold queue (R99, R109, R136). -/
def overlayFor (e : Etlet) (kid tid a width v : Nat) : Nat :=
  let held := (kgetD e.kernels kid {}).ckpt.held.map (fun x => (x.no, x.gpa, x.width, x.data))
  let own := (e.buf.filter (fun x => decide (x.tid = tid) && x.sf.isNone)).map (fun x => (x.no, x.gpa, x.width, x.data))
  ((held ++ own).insertionSort (fun x y => x.1 ≤ y.1)).foldl (fun v x => overlayBytes a width v x.2.1 x.2.2.1 x.2.2.2) v

/-- The same for the thread in focus. -/
def State.overlay (s : State) (a width v : Nat) : Nat := overlayFor s.etl s.th.kid s.th.tid a width v

/-- Whether another slot's store-buffer entry matches a load (R99: entries record the 8-byte word), or an image word that BENCHO
has still to write (R283). -/
def State.otherSlotMatch (s : State) (a width : Nat) : Bool :=
  s.etl.buf.any (fun e => decide (e.tid ≠ s.th.tid) && overlap (a / 8 * 8) ((a % 8 + width + 7) / 8 * 8) (e.gpa / 8 * 8) 8) ||
  s.etl.benchW.any (fun b => b.parts.any (fun q => overlap a width q.1 q.2))

/-- Whether the thread's own buffered or held stores give every byte of a load. -/
def State.covered (s : State) (a width : Nat) : Bool :=
  (List.range width).all (fun i =>
    s.etl.buf.any (fun e => decide (e.tid = s.th.tid ∧ e.gpa ≤ a + i ∧ a + i < e.gpa + e.width)) ||
    s.kern.ckpt.held.any (fun e => decide (e.gpa ≤ a + i ∧ a + i < e.gpa + e.width)))

/-- Whether a store under way touches a word that an access of `width` bytes at `a` touches. -/
def SEntry.meets (x : SEntry) (a width : Nat) : Bool :=
  decide (x.done = 0) && overlap (a / 8 * 8) ((a % 8 + width + 7) / 8 * 8) (x.gpa / 8 * 8) 8

/-- A present RDC line of the die of the etlet in focus (R81). -/
def State.rdcLine (s : State) (key a : Nat) : Option CLine :=
  s.myDie.rdc.find? (fun c => c.present key s.myDie.stamp (a / 64))

/-- A load answered at once: from the own scratchpad, the buffer, the hold queue or a present L1 or RDC line
(R99, R109, R79, R81); none when a request must be sent, also where a store of the etlet to the word is still under
way (chapter 5: each thread sees its own operations in program order). -/
def State.loadNow (s : State) (gpa width : Nat) (ca : Bool) : Option Nat :=
  if inScratch s.eid gpa && !s.failing gpa then some (s.overlay gpa width (s.rdMem 0 gpa width))
  else if s.covered gpa width then some (s.overlay gpa width 0)
  else if ca && encrypted gpa && regionOf gpa != 3 && !s.failing gpa && !s.etl.posted.any (fun x => x.meets gpa width) then
    match s.cached s.eid s.kern.key gpa width s.etl.l1, s.cached s.eid s.kern.key gpa width s.myDie.rdc with
    | some v, _ => some (s.overlay gpa width v)
    | none, some v => some (s.overlay gpa width v)
    | none, none => none
  else none

/-- What a load answered at once does to the L1: a miss that the RDC answers allocates a line (R79). -/
def State.loadFill (s : State) (gpa width : Nat) (ca : Bool) : State :=
  if inScratch s.eid gpa || s.covered gpa width || !ca || (s.cached s.eid s.kern.key gpa width s.etl.l1).isSome then s
  else match s.rdcLine s.kern.key gpa with
    | some c => s.l1Add s.eid c
    | none => s

/-! ### The slice (R82) -/

/-- Whether the slice holds a request back: a bypassing read until the last pending write to its line is done, a write until a miss
register is free (R82). -/
def State.sliceHolds (s : State) (q : Req) : Bool :=
  s.missFull q.key q.gpa q.sent && (q.op.writes || (kgetD s.clusters (homeCluster q.gpa) {}).writes.contains (q.gpa / 64))

/-- Whether the home slice's pending-write filter, of 64 lines, accepts a write (R82). (DEDUCED, log 42) -/
def State.filterRoom (s : State) (g : Nat) : Bool :=
  decide (1 < regionOf g) || (let w := (kgetD s.clusters (homeCluster g) {}).writes; w.contains (g / 64) || decide (w.length < 64))

/-- Whether a read of an engine at its home must wait: for a test of the home, or in a bypass for a pending write of the line (R82, R349). -/
def State.readBusy (s : State) (key a : Nat) : Bool :=
  s.homeTested a || (s.missFull key a s.now && (kgetD s.clusters (homeCluster a) {}).writes.contains (a / 64))

/-- Whether a write of an engine must wait: for a test of the home, the slice's pending-write filter or a miss register (R82, R349). -/
def State.writeBusy (s : State) (key a : Nat) : Bool := s.homeTested a || !s.filterRoom a || s.missFull key a s.now

end Sys2Proof.Machine
end

