-- ==== Sys2Proof/Machine/SyncOps.lean ====
section
/-! DEFINITION. Waking a thread, and the nodes of sync objects: populations, arrivals, decisions, adoption,
tokens, step clocks and correction rules. -/

namespace Sys2Proof.Machine

/-! ### Wakes (R26, R43) -/

/-- Takes one word from each of the loop ports `ks` of the thread in focus and returns its credit (R46, R59); observing a word of
package scope or wider is an acquire (R98, R106). -/
def popWords (ks : List Nat) (s : State) : State :=
  ks.foldl (fun s k =>
    match kgetD s.th.inq k [] with
    | [] => s
    | w :: r =>
      let s := (s.modT (fun t => { t with inq := kput t.inq k r })).modEt w.srcE (fun x => { x with
        crIn := x.crIn ++ [(w.srcSlot, w.srcPort, w.srcTid)] })
      if 4 ≤ w.scope then s.acquire (dieOf s.eid) else s) s

/-- A thread after its wait: READY from the next cycle on (R26), and past its bundle unless an A-class partner still has to
complete. -/
def Thread.wake (now : Nat) (t : Thread) : Thread :=
  if t.deferred.isSome then { t with st := .ready, wokenAt := some now } else endTest { t with st := .ready, wokenAt := some now, kill := none }

/-- The words of the loop ports that the bundle read go, once the reply has come (R54, R59). -/
def popPending (s : State) : State :=
  match s.th.pops with
  | [] => s
  | ks => popWords ks (s.modT (fun t => { t with pops := [] }))

/-- The thread in focus gets its reply: d is written, and it is READY at its next bundle (R26). (DEDUCED, log 17) -/
def finish (v : Option Word) (s : State) : State :=
  let p := s.ph
  let s := popPending s
  let s := match v with
    | some x => { s with ph := 0 }.wr s.th.waitD x
    | none => s
  { readyWhere (fun w => decide (w = .bench)) (s.modT (Thread.wake s.now)) with ph := p }

/-- The contexts benched anywhere. (DEDUCED, log 102) -/
def State.allBenched (s : State) : List Thread := s.save.etlets.flatMap (fun p => p.2.bench) ++ s.images.flatMap (·.2)

/-- The etlet whose dugout holds what reaches a benched thread: the one that holds its launch's kernel under its virtual index, which MAPSET
may have changed since (R43, R47), else that of its bench. -/
def State.targetOf (s : State) (t : Thread) (e : Nat) : Nat :=
  ((s.save.etlets.find? (fun p => p.2.kernels.any (fun k => decide (k.2.launch = t.lk ∧ k.2.vix = t.teamix.toNat / 64)))).map (·.1)).getD e

/-- Whether a wake for thread `tid` is held. -/
def State.heldWake (s : State) (tid : Nat) : Bool := s.save.etlets.any (fun p => p.2.held.any (fun h => decide (h.tid = tid)))

/-- A wake for the benched thread `tid` is held in the dugout and raises ABSENT (R43). (DEDUCED, log 141) -/
def holdWake (tid : Nat) (v : Option Word) (s : State) (task : Bool := false) (scope : Nat := 0) : State :=
  match s.benchOf tid, s.allBenched.find? (fun t => decide (t.tid = tid)) with
  | some e, some t => s.modEt (s.targetOf t e) (fun x => { x with held := x.held ++ [⟨tid, v, task, scope⟩], absent := x.absent ++ [⟨t.lk, t.lastSlot⟩] })
  | _, _ => s

/-- Wakes thread `tid`; the wake of a benched one is held, with the scope of the acquire it makes (R43). -/
def wake (tid : Nat) (v : Option Word) (s : State) (scope : Nat := 0) : State :=
  match s.whereTid tid with
  | some (e, l) => within e l (finish v) s
  | none => holdWake tid v s false scope

/-- The wakes of benched threads that `p` accepts are held, each once (R43, R226). -/
def wakeBenched (p : Thread → Bool) (s : State) : State :=
  (s.allBenched.filter p).foldl (fun s t => if s.heldWake t.tid then s else holdWake t.tid none s) s

/-- Changes thread `tid`, wherever it is. -/
def modTid (tid : Nat) (f : Thread → Thread) (s : State) : State :=
  match s.whereTid tid with
  | some (e, l) => within e l (fun s => s.modT f) s
  | none =>
    let g := fun (l : List Thread) => l.map (fun t => if t.tid = tid then f t else t)
    let h := fun (x : Etlet) => { x with
      bench := g x.bench, parked := g x.parked, goIn := g x.goIn,
      fwd := x.fwd.map (fun p => match p.2 with | .go t => (p.1, .go (if t.tid = tid then f t else t)) | _ => p) }
    { s with etl := h s.etl, etlets := kmap s.etlets h, images := kmap s.images g }

/-- A fresh number. (DESIGN CHOICE, log 8) -/
def State.fresh (s : State) : Nat × State := (s.free, { s with free := s.free + 1 })

/-! ### Objects and nodes (R113, R119, R120) -/

/-- The object under a key. -/
def State.obj (s : State) (k : Nat) : Option SyncObj := kget s.objs k

/-- Changes object `k`. -/
def State.modObj (s : State) (k : Nat) (f : SyncObj → SyncObj) : State :=
  match kget s.objs k with
  | none => s
  | some o => { s with objs := kput s.objs k (f o) }

/-- A node of an object. -/
def SyncObj.node (o : SyncObj) (n : Nat) : Node := kgetD o.nodes n {}

/-- Changes a node of an object. -/
def State.modNode (s : State) (k n : Nat) (f : Node → Node) : State :=
  s.modObj k (fun o => match kget o.nodes n with
    | none => o
    | some x => { o with nodes := kput o.nodes n (f x) })

/-- Whether a node is the top of its package's tree at scope 5 or 6, whose parent is a neighbour and none that the hierarchy fixes. -/
def SyncObj.top (o : SyncObj) (n : Nat) : Bool := decide (5 ≤ o.scope) && (o.node n).up.isNone

/-- The node that a node is a child of (R119): none at a root. -/
def SyncObj.par (o : SyncObj) (n : Nat) : Option Nat := if o.top n then (o.node n).parent else (o.node n).up

/-- Every child of node `n`, in ascending station number, which numbers its ARR bits (R120). -/
def SyncObj.kids (o : SyncObj) (n : Nat) : List Nat := (o.nodes.filter (fun p => decide (o.par p.1 = some n))).map (·.1)

/-- The live children of node `n` (R120). -/
def SyncObj.children (o : SyncObj) (n : Nat) : List Nat := (o.kids n).filter (fun c => !(o.node c).absent)

/-- The child number of `c` below `n` (R120). -/
def SyncObj.childIx (o : SyncObj) (n c : Nat) : Nat := ((o.kids n).findIdx? (· = c)).getD 0

/-- The expected population E of a node (R120). -/
def SyncObj.expect (o : SyncObj) (n : Nat) : Nat :=
  (if classOf n = 0 then o.t - (o.node n).gone.length else 0) + (o.children n).length

/-- The number of set bits. -/
def popcount : Nat → Nat → Nat
  | 0, _ => 0
  | k + 1, n => n % 2 + popcount k (n / 2)

/-- What a node sends to its neighbours now (R117). -/
def SyncObj.liveView (o : SyncObj) (n : Nat) : NodeView :=
  let x := o.node n
  { root := x.root, dist := x.dist, ph := x.ph, mark := x.mark, c := x.c,
    full := x.rep.any (fun r => decide (r.ph = x.ph)) && decide (o.expect n ≤ x.cnt) }

/-- What node `n` has sent before cycle `now`: its own round start in that cycle does not show yet (R117). (DEDUCED, log 78) -/
def SyncObj.view (o : SyncObj) (now n : Nat) : NodeView :=
  if (o.node n).pubAt = some now then (o.node n).pub else o.liveView n

/-- The node's bit set of waiting or arrived participants and of children that have reported its phase complete (R123 rule 3). -/
def SyncObj.trueArr (o : SyncObj) (now n : Nat) : Nat :=
  let x := o.node n
  let a := x.waits.foldl (fun a w => a ||| 2 ^ w.2.1) 0
  (o.children n).foldl (fun a c => if (o.view now c).full ∧ (o.view now c).ph = x.ph then a ||| 2 ^ o.childIx n c else a) a

/-! ### Trees (R119) -/

/-- Whether port `n` of a package is live: a fabric port that is UP and READY, or a network engine that is READY. -/
def Pkg.live (k : Pkg) (n : Nat) : Bool :=
  if n < 36 then decide ((kgetD k.ports n {}).state = 1) && k.ready.getLsbD (20 + n) else k.ready.getLsbD (56 + (n - 36))

/-- Whether two packages share a link both of whose ports are live (R119). (DEDUCED, log 135) -/
def State.linked (s : State) (p q : Nat) : Bool :=
  s.links.any (fun l => decide ((l.a = p ∧ l.b = q) ∨ (l.a = q ∧ l.b = p)) && (s.pkg l.a).live l.ap && (s.pkg l.b).live l.bp)

/-- The package stations that share a live link with package station `n`. -/
def SyncObj.links (s : State) (o : SyncObj) (n : Nat) : List Nat :=
  (o.nodes.filter (fun q => o.top q.1 && !q.2.absent && decide (q.1 ≠ n) && s.linked (pkgOf n) (pkgOf q.1))).map (·.1)

/-- One round of the tree rule at node `n` (R119). -/
def treeRule (s : State) (o : SyncObj) (n : Nat) (x : Node) : Node :=
  if o.top n then
    let nb := (o.links s n).map (fun q => (q, o.view s.now q))
    let r := (nb.filter (fun p => decide (p.2.dist < 63))).foldl (fun (r : Nat) (p : Nat × NodeView) => min r p.2.root) n
    if r = n then { x with root := n, dist := 0, parent := none }
    else
      let c := nb.filter (fun (p : Nat × NodeView) => decide (p.2.root = r ∧ p.2.dist < 63))
      let d := c.foldl (fun (d : Nat) (p : Nat × NodeView) => min d p.2.dist) 63
      { x with root := r, dist := min 63 (d + 1), parent := (c.find? (fun (p : Nat × NodeView) => decide (p.2.dist = d))).map (·.1) }
  else match x.up with
  | none => { x with root := n, dist := 0, parent := none }
  | some p => { x with root := (o.view s.now p).root, dist := min 63 ((o.view s.now p).dist + 1), parent := some p }

/-- The hop counts from package station `n` over live links. -/
def SyncObj.hops (s : State) (o : SyncObj) (n : Nat) : KMap Nat :=
  loop (fun i (m : KMap Nat) => (m.filter (fun p => decide (p.2 = i))).foldl (fun m p =>
    (o.links s p.1).foldl (fun m q => if (kget m q).isSome then m else m ++ [(q, i + 1)]) m) m) 0 64 [(n, 0)]

/-- The top of the tree that a node lies in by the hierarchy, and the hops to it. -/
def SyncObj.above (o : SyncObj) : Nat → Nat → Nat × Nat
  | 0, n => (n, 0)
  | f + 1, n => match (o.node n).up with
    | none => (n, 0)
    | some p => let r := o.above f p; (r.1, r.2 + 1)

/-- Whether the tree is legitimate at a node (R119): its root is the home, or at scopes 5 and 6 the lowest live station that its package
station is connected to; its distance is the hop count; its parent is a neighbour one hop nearer. -/
def SyncObj.treeOk (s : State) (o : SyncObj) (n : Nat) : Bool :=
  let x := o.node n
  let t := o.above 4 n
  let hs := if o.top t.1 then o.hops s t.1 else []
  let root := hs.foldl (fun r p => min r p.1) t.1
  decide (x.root = root ∧ x.dist = kgetD hs root 0 + t.2) &&
  (match x.up, x.parent with
   | some p, q => decide (q = some p) && !(o.node p).absent
   | none, none => decide (root = n)
   | none, some q => (o.links s n).contains q && decide (kgetD (o.hops s q) root 64 + 1 = x.dist))

/-- Whether the tree is legitimate at every live node. -/
def SyncObj.treesOk (s : State) (o : SyncObj) : Bool := o.nodes.all (fun p => p.2.absent || o.treeOk s p.1)

/-! ### The barrier predicate (R122, R124) -/

/-- R122 clauses 1, 2 and 4 at a node. -/
def SyncObj.barOk (o : SyncObj) (n : Nat) : Bool :=
  let x := o.node n
  decide (x.cnt = popcount 64 x.arr) &&
  (o.children n).all (fun c => decide ((o.node c).ph = x.ph ∨ ((o.node c).ph + 1) % 4 = x.ph)) &&
  (List.range 64).all (fun i => !(BitVec.ofNat 64 x.arr).getLsbD i ||
    x.waits.any (fun w => decide (w.2.1 = i ∧ classOf n = 0)) ||
    ((o.kids n)[i]?).any (fun c => decide ((o.node c).ph = x.ph ∧ o.expect c ≤ (o.node c).cnt)))

/-- The same clauses as a node records them: of its children, what each reported (R124). Each report says whether the clauses held at the
child, and so below it. (DESIGN CHOICE, log 149) -/
def SyncObj.recOk (o : SyncObj) (n : Nat) : Bool :=
  let x := o.node n
  decide (x.cnt = popcount 64 x.arr) &&
  (o.children n).all (fun c => (o.node c).rep.all (fun r => r.ok && decide ((r.ph = x.ph ∨ (r.ph + 1) % 4 = x.ph) ∧ r.cnt = popcount 64 r.arr))) &&
  (List.range 64).all (fun i => !(BitVec.ofNat 64 x.arr).getLsbD i ||
    x.waits.any (fun w => decide (w.2.1 = i ∧ classOf n = 0)) ||
    ((o.kids n)[i]?).any (fun c => (o.node c).rep.any (fun r => r.ok && decide (r.ph = x.ph ∧ r.cnt = popcount 64 r.arr ∧ o.expect c ≤ r.cnt))))

/-! ### Tokens and step clocks -/

/-- The nodes in depth-first preorder, the token's virtual ring (R125). -/
def SyncObj.ring (o : SyncObj) : Nat → List Nat → List Nat
  | 0, _ => []
  | _, [] => []
  | f + 1, n :: rest => n :: o.ring f (o.children n ++ rest)

/-- The ring from the root. -/
def SyncObj.order (o : SyncObj) : List Nat :=
  o.ring (o.nodes.length + 1) ((o.nodes.filter (fun p => (o.par p.1).isNone && !p.2.absent)).map (·.1))

/-- Whether node `n` is privileged (R125). -/
def SyncObj.priv (o : SyncObj) (n : Nat) : Bool :=
  let r := o.order
  match r.findIdx? (· = n) with
  | none => false
  | some 0 => decide ((o.node n).x = (o.node (r.getLastD n)).x)
  | some (i + 1) => decide ((o.node n).x ≠ (o.node (r.getD i n)).x)

/-- How many nodes are privileged (R125). -/
def SyncObj.privs (o : SyncObj) : Nat := (o.order.filter o.priv).length

/-- The live neighbours of a node in the tree. -/
def SyncObj.nbrs (o : SyncObj) (n : Nat) : List Nat :=
  (match o.par n with | some p => if (o.node p).absent then [] else [p] | none => []) ++ o.children n

/-- A 16-bit difference, from -32,768 to 32,767 (R127). -/
def diff16 (a b : Nat) : Int :=
  let d := (a + 65536 - b % 65536) % 65536
  if d < 32768 then Int.ofNat d else Int.ofNat d - 65536

/-- Whether a step clock is legitimate: tree neighbours differ by at most 1 (R127). -/
def SyncObj.clockOk (o : SyncObj) : Bool :=
  o.nodes.all (fun p => p.2.absent || (o.nbrs p.1).all (fun q => decide ((diff16 p.2.c (o.node q).c).natAbs ≤ 1)))

/-- Whether an object and its tree are legitimate (R119, R122, R125, R127). -/
def SyncObj.legit (s : State) (o : SyncObj) : Bool :=
  o.treesOk s &&
  (match o.kind with
   | 0 => o.nodes.all (fun p => p.2.absent || o.barOk p.1)
   | 1 => decide (o.privs = 1) && decide ((o.nodes.filter (fun p => p.2.grant.isSome)).length ≤ 1)
   | _ => o.clockOk)

/-! ### Barriers (R121) -/

/-- An event the acquire half of a sync operation makes (R108). -/
def syncAcquire (scope tid : Nat) (s : State) : State :=
  if 4 ≤ scope then (match (s.whereTid tid).map (·.1) |>.or (s.benchOf tid) with | some e => s.acquire (dieOf e) | none => s) else s

/-- A context as an epoch boundary records it: at its bundle, its arrival cancelled, without the loop-port queues (R133). -/
def Thread.recorded (slot : Nat) (t : Thread) : Thread := { t with st := .ready, inq := [], deferred := none, lastSlot := slot }

/-- A new decision on object `k` (R124, R126, R127). -/
def decide_ (k : Nat) (ok : Bool) (verdict : Option Bool) (s : State) : Nat × State :=
  let (i, s) := s.fresh
  (i + 1, s.modObj k (fun o => { o with decisions := o.decisions ++ [{ id := i + 1, made := s.now, ok := ok, verdict := verdict }] }))

/-- The benched threads of kernel `kid` of the etlet in focus. -/
def State.teamBenched (s : State) (kid : Nat) : List Thread :=
  match kget s.etl.kernels kid with
  | none => []
  | some k => s.allBenched.filter (fun t => decide (t.lk = k.launch ∧ t.teamix.toNat / 64 = k.vix))

/-- The threads of kernel `kid` that wait for a slot of the etlet in focus, or are on their way to it (R44). -/
def State.teamAway (s : State) (kid : Nat) : List Thread :=
  match kget s.etl.kernels kid with
  | none => []
  | some k =>
    (s.etl.parked ++ s.etl.goIn ++ s.save.etlets.flatMap (fun p => p.2.fwd.filterMap (fun q => match q.2 with
      | .go t => if q.1 = s.eid then some t else none
      | _ => none))).filter (fun t => decide (t.lk = k.launch))

/-- The contexts of the threads of kernel `kid`: seated on the etlet in focus, benched, parked or on their way (R133). -/
def State.teamContexts (s : State) (kid : Nat) : List Thread :=
  ((kset s.etl.threads s.slot s.thr).filter (fun q => decide (q.2.kid = kid ∧ q.1 < 62))).map (fun q => q.2.recorded q.1) ++
  (s.teamBenched kid ++ s.teamAway kid).map (fun t => t.recorded t.lastSlot)

/-- At an epoch boundary, the release `dec` of a barrier whose participants include every thread of the team, the contexts of the team are
recorded and a new epoch opens (R133). -/
def epochBoundary (k n dec : Nat) (s : State) : State :=
  match s.obj k with
  | none => s
  | some o =>
    within n (if n = s.eid then s.slot else 0) (fun s =>
      { s with etl := { s.etl with kernels := s.etl.kernels.map (fun p =>
          let kr := p.2
          if kr.launch = o.launch ∧ kr.ckpt.on ∧ (kgetD s.launches o.launch {}).threads ≤ o.t then
            let e := kr.ckpt.epoch + 1
            let b : Bound := { object := k, dec := dec, scope := o.scope, epoch := e, ctx := s.teamContexts p.1 }
            (p.1, { kr with ckpt := { kr.ckpt with holding := true, epoch := e, bounds := kr.ckpt.bounds ++ [b] } })
          else p) } }) s

/-- Releases the waiting participants of a node with phase `ph` (R121 rule 4) under the decision that produced the phase; where none did,
the release is denied (R124). -/
def releaseNode (k n ph : Nat) (dec : Option Nat) (s : State) : State :=
  match s.obj k with
  | none => s
  | some o =>
    match (o.node n).waits with
    | [] => s
    | ws =>
      let (i, s) := match dec with
        | some i => (i, s)
        | none => decide_ k false (some false) s
      let s := if classOf n = 0 then epochBoundary k n i s else s
      let s := s.modNode k n (fun x => { x with waits := [] })
      ws.foldl (fun s w =>
        let s := modTid w.1 (fun t => { t with pend := t.pend ++ [(i, k)] }) s
        let s := syncAcquire o.scope w.1 s
        if w.2.2 then wake w.1 (some (wd ph)) s o.scope else s) s

/-- A node adopts phase `ph`; if `rel`, it passes it on and releases its waiters (R121 rule 4, R123). -/
def adopt (k n ph : Nat) (dec : Option Nat) (rel : Bool) (s : State) : State :=
  match s.obj k with
  | none => s
  | some o =>
    let s := s.modNode k n (fun x => { x with ph := ph, arr := 0, cnt := 0, rep := none, mark := dec })
    if rel then releaseNode k n ph dec { s with smsgs := s.smsgs ++ (o.children n).map (fun c => SyncMsg.phase k c ph dec) } else s

/-- The root decides a release, with its snapshot (R121 rule 3, R124). -/
def decideRelease (k n : Nat) (s : State) : State :=
  match s.obj k with
  | none => s
  | some o =>
    let (i, s) := decide_ k (o.recOk n) none s
    adopt k n (((o.node n).ph + 1) % 4) (some i) true s

/-- R121 rule 2 at a node, and rule 3 at the root. -/
def rule2 (k n : Nat) (s : State) : State :=
  match s.obj k with
  | none => s
  | some o =>
    let x := o.node n
    if o.expect n ≤ x.cnt then
      match o.par n with
      | some _ =>
        if x.rep.any (fun r => decide (r.ph = x.ph)) then s
        else { s.modNode k n (fun x => { x with rep := some ⟨x.ph, x.cnt, x.arr, o.recOk n⟩ }) with smsgs := s.smsgs ++ [.report k n x.ph] }
      | none => if 0 < o.expect n then decideRelease k n s else s
    else s

/-- A participant arrives at its core node (R121 rule 1). -/
def arrive (k n tid bit : Nat) (waits : Bool) (s : State) : State :=
  match s.obj k with
  | none => s
  | some o =>
    let x := o.node n
    if x.waits.any (fun w => decide (w.1 = tid)) then
      s.modNode k n (fun x => { x with waits := x.waits.map (fun w => if w.1 = tid then (w.1, w.2.1, w.2.2 || waits) else w) })
    else
      rule2 k n (s.modNode k n (fun x => { x with
        waits := x.waits ++ [(tid, bit, waits)],
        arr := x.arr ||| 2 ^ bit, cnt := (x.cnt + 1) % 256 }))

/-- A child's completion report reaches the node that its PARENT cell names, which counts it if it is its child (R121 rule 2). -/
def report (k c : Nat) (s : State) : State :=
  match s.obj k with
  | none => s
  | some o =>
    match o.par c with
    | none => s
    | some p =>
      if (o.node c).parent ≠ some p ∨ (BitVec.ofNat 64 (o.node p).arr).getLsbD (o.childIx p c) then s
      else rule2 k p (s.modNode k p (fun x => { x with arr := x.arr ||| 2 ^ o.childIx p c, cnt := (x.cnt + 1) % 256 }))

/-! ### Tokens (R125) -/

/-- Grants the token to the head of a privileged node's waiters (R125, R126). -/
def grantToken (k n : Nat) (s : State) : State :=
  match s.obj k with
  | none => s
  | some o =>
    let x := o.node n
    if o.priv n ∧ x.grant = none then
      match x.tokq with
      | [] => s
      | t :: q =>
        let (i, s) := decide_ k (decide (o.privs = 1)) none s
        let s := s.modNode k n (fun x => { x with tokq := q, grant := some t, gdec := i })
        let s := modTid t (fun th => { th with pend := th.pend ++ [(i, k)], grants := th.grants ++ [k] }) s
        wake t (some 0) (syncAcquire o.scope t s) o.scope
    else s

/-- The grant of a node ends, and if the node is privileged it passes the privilege; the next position grants if it has a waiter
(R125). -/
def passToken (k n : Nat) (s : State) : State :=
  match s.obj k with
  | none => s
  | some o =>
    let r := o.order
    let s := s.modNode k n (fun x => { x with grant := none })
    match r.findIdx? (· = n) with
    | none => s
    | some i =>
      if o.priv n then
        grantToken k (r.getD ((i + 1) % r.length) n)
          (s.modNode k n (fun x => { x with x := if i = 0 then (x.x + 1) % 65536 else (o.node (r.getD (i - 1) n)).x }))
      else s

/-! ### Step clocks (R127) -/

/-- Whether a node's clock may advance: a core node's when each of its live participants waits in STEP and each neighbour reads c or c + 1,
another's when no neighbour is behind it (R127). -/
def SyncObj.canStep (o : SyncObj) (n : Nat) : Bool :=
  let x := o.node n
  let live := if classOf n = 0 then o.t - x.gone.length else 0
  if live = 0 then (o.nbrs n).all (fun q => decide (0 ≤ diff16 (o.node q).c x.c))
  else (o.nbrs n).all (fun q => decide (diff16 (o.node q).c x.c = 0 ∨ diff16 (o.node q).c x.c = 1)) &&
    decide ((x.waits.filter (·.2.2)).length = live)

/-- A node's clock advances and releases its waiting participants. -/
def stepNode (k n : Nat) (s : State) : State :=
  match s.obj k with
  | none => s
  | some o =>
    if o.canStep n then
      let c := ((o.node n).c + 1) % 65536
      let ws := (o.node n).waits
      let s := s.modNode k n (fun x => { x with c := c, waits := [] })
      let (i, s) := if ws = [] then (0, s) else decide_ k true none s
      ws.foldl (fun s w =>
        let s := modTid w.1 (fun t => { t with pend := t.pend ++ [(i, k)] }) s
        wake w.1 (some (wd c)) (syncAcquire o.scope w.1 s) o.scope) s
    else s

/-! ### Leaving and correction (R119, R121, R123) -/

/-- A participant leaves every population of its launch's objects at etlet `e` (R121, R119, R365). -/
def leaveAll (e tid bit launch : Nat) (s : State) : State :=
  s.objs.foldl (fun s p =>
    let k := p.1
    -- a holder that GO has moved releases where it was granted
    let s := match (s.obj k).bind (fun o => o.nodes.find? (fun q => decide (q.1 ≠ e ∧ q.2.grant = some tid))) with
      | some q => passToken k q.1 s
      | none => s
    match s.obj k with
    | none => s
    | some o =>
      if o.launch = launch ∧ bit < o.t ∧ (kget o.nodes e).isSome ∧ !(o.node e).gone.contains bit then
        let had := (BitVec.ofNat 64 (o.node e).arr).getLsbD bit
        let s := s.modNode k e (fun x => { x with
          gone := x.gone ++ [bit], waits := x.waits.filter (fun w => decide (w.1 ≠ tid)),
          arr := if had then x.arr - 2 ^ bit else x.arr, cnt := if had ∧ o.kind = 0 then (x.cnt + 255) % 256 else x.cnt,
          tokq := x.tokq.filter (fun w => decide (w ≠ tid)) })
        let s := if (o.node e).grant = some tid then passToken k e s else s
        if o.kind = 0 then rule2 k e s else s
      else s) s

/-- The correction rules of one node at a round's first cycle (R119, R123, R127), on what its neighbours sent before. A node whose corrected
CNT is below E has not completed its phase and reports when it does. (DEDUCED, log 78) -/
def correct (k n : Nat) (s : State) : State :=
  match s.obj k with
  | none => s
  | some o =>
    let s := s.modNode k n (fun x => { treeRule s o n x with pub := o.view s.now n, pubAt := some s.now })
    match s.obj k with
    | none => s
    | some o =>
      let x := o.node n
      let from_ := (x.parent.filter (fun p => !(o.node p).absent)).map (o.view s.now)
      match o.kind with
      | 0 =>
        let s := match from_ with
          | none => s
          | some v => if x.ph = v.ph then s else adopt k n v.ph v.mark (decide ((x.ph + 1) % 4 = v.ph)) s
        let s := s.modObj k (fun o => { o with nodes := kmod o.nodes n {} (fun x => { x with arr := o.trueArr s.now n }) })
        let s := s.modNode k n (fun x => { x with cnt := popcount 64 x.arr })
        rule2 k n (s.modObj k (fun o => { o with nodes := kmod o.nodes n {} (fun x => { x with rep := if o.expect n ≤ x.cnt then x.rep else none }) }))
      | 1 => s
      | _ =>
        match from_ with
        | none => s
        | some v => if 1 < (diff16 x.c v.c).natAbs then s.modNode k n (fun x => { x with c := v.c }) else s

end Sys2Proof.Machine
end

