-- ==== Sys2Proof/Machine/Ops.lean ====
section
/-! DEFINITION. The shared operations: taking a trap and returning from one, the containment policy, ending
threads and launches, the store buffer's effects, the dispatch log, and the checks every instruction makes
when it issues. -/

namespace Sys2Proof.Machine

/-! ### Cause codes (Table 11.5) -/

def cIllegal : Nat := 0x01
def cPriv : Nat := 0x02
def cAlign : Nat := 0x03
def cXlate : Nat := 0x04
def cProt : Nat := 0x05
def cDabort : Nat := 0x06
def cPerm : Nat := 0x07
def cRinghaz : Nat := 0x08
def cNofe : Nat := 0x09
def cTrapins : Nat := 0x0A
def cEngine : Nat := 0x0B
def cFoul : Nat := 0x0C
def cLost : Nat := 0x0D
def cBattery : Nat := 0x0E
def cVote : Nat := 0x0F
def cAbsent : Nat := 0x10
def cHandler : Nat := 0x11
def cLoop : Nat := 0x12
def cWindow : Nat := 0x13

/-- A check-3 to check-6 failure of Table 8.1, or a register-number ILLEGAL: INFO = 1 (R157). -/
def illegalReg (n : Nat) : Cause := { code := cIllegal, eval := wd n, info := 1 }

/-! ### Critical packets (R202) -/

/-- Whether a port lies on plane 0 (A) or 1 (B) (R11). -/
def portPlane (n : Nat) : Nat := if n < 18 then 0 else 1

/-- Whether a port carries packets: it is UP, and its READY bit is set (R203, R240). -/
def Pkg.portUp (k : Pkg) (n : Nat) : Bool := decide ((kgetD k.ports n {}).state = 1) && k.ready.getLsbD (20 + n)

/-- The live ports of one plane. -/
def Pkg.upOn (k : Pkg) (plane : Nat) : List Nat := (List.range 36).filter (fun n => decide (portPlane n = plane) && k.portUp n)

/-- A critical packet of package `p` leaves on both planes, through one port of each, with the next number of its source (R202). -/
def sendCritical (p : Nat) (w : Notice) (s : State) : State :=
  s.modPkg p (fun k => { k with
    critNext := (k.critNext + 1) % 2 ^ 32,
    critSent := (k.critSent ++ [({ no := k.critNext, ports := [0, 1].filterMap (fun i => (k.upOn i).head?), what := w } : Critical)]).drop (k.critSent.length + 1 - 1024) })

/-- A notice that concerns launch `lk` leaves the package of the etlet in focus, where the launch's record stands on another (Table 10.1). -/
def tell (lk : Nat) (w : Notice) (s : State) : State := if lk / 64 = pkgOf s.eid then s else sendCritical (pkgOf s.eid) w s

/-! ### The fault record (R230) -/

/-- Adds an entry to a launch's fault record; past 256 only the overflow count advances. -/
def record (lk : Nat) (f : FaultRec) (s : State) : State :=
  match kget s.launches lk with
  | none => s
  | some l =>
    let s := tell lk (.fault lk f) s
    { s with
      launches := kput s.launches lk
        (if l.faults.length < 256 then { l with faults := l.faults ++ [f] } else { l with overflow := (l.overflow + 1) % 2 ^ 32 }) }

/-! ### Freeing slots, kernels and launches (R35, R229) -/

/-- The thread in focus leaves its gang. -/
def ungang (s : State) : State := s.modT (fun t => { t with status := setBits t.status 3 1 0, gangN := 0, gangLead := 0 })

/-- Every member of the gang of the thread in focus leaves it (R38). -/
def disbandAll (s : State) : State :=
  let t := s.th
  if t.gangN = 0 then s
  else (List.range t.gangN).foldl (fun s i => within (t.gangLead + 8 * i) s.slot ungang s) s

/-- Removes a thread from every wait list (R229, R340); its repetition buffer and the matrix engine are free of it (R172, R174). -/
def purge (tid : Nat) (s : State) : State :=
  readyWhere (fun w => match w with
      | .vrb => (match s.etl.vrb with | some b => decide (b.owner = tid) | none => false)
      | .mmaDrain => true
      | .bench => true
      | .ring _ => true
      | _ => false)
    { s with
      clusters := kmap s.clusters (fun c => { c with
        queues := kmap c.queues (fun q => { q with deqs := q.deqs.filter (fun x => decide (x ≠ tid)), enqs := q.enqs.filter (fun x => decide (x.1 ≠ tid)) }),
        sweepers := kmap c.sweepers (fun w => { w with waiters := w.waiters.filter (fun x => decide (x ≠ tid)) }) }),
      feq := kmap s.feq (fun l => l.filter (fun r => decide (r.tid ≠ tid))),
      etl := { s.etl with
        scWait := kmap s.etl.scWait (fun l => l.filter (fun w => decide (w.1 ≠ tid))),
        reqs := s.etl.reqs.filter (fun r => decide (r.2.tid ≠ tid)),
        mmas := s.etl.mmas.filter (fun m => decide (m.tid ≠ tid) || m.started.isSome),
        vq := s.etl.vq.filter (fun v => decide (v.tid ≠ tid)),
        solver := s.etl.solver.filter (fun q => !(decide (q.tid = tid) && q.held)),
        vrb := match s.etl.vrb with | some b => if b.owner = tid then none else some b | none => none } }

/-- The sweepers of launch `lk` are freed (R180). -/
def freeSweepers (lk : Nat) (s : State) : State :=
  { s with clusters := kmap s.clusters (fun c => { c with
      sweepers := kmap c.sweepers (fun w => if w.launch = some lk then { w with launch := none, todo := [], pending := [], ready := [], waiters := [] } else w) }) }

/-- A launch that completes gives back its sweepers, queues, regions and sync objects (R180, R191, R212). (DEDUCED, log 76) -/
def closeLaunch (lk : Nat) (s : State) : State :=
  let s := freeSweepers lk s
  { s with
    clusters := kmap s.clusters (fun c => { c with
      queues := kmap c.queues (fun q => if q.launch = some lk then { q with launch := none, items := [], deqs := [], enqs := [] } else q) }),
    domains := kmap s.domains (fun d => { d with
      quota := d.regions.foldl (fun q r => if r.launch = lk then kmod q r.key (0, 0) (fun p => (p.1, p.2 - r.charged)) else q) d.quota,
      regions := d.regions.filter (fun r => decide (r.launch ≠ lk)) }),
    objs := s.objs.filter (fun p => decide (p.2.launch ≠ lk)) }

/-- The threads that travel in a list of forwarded items. -/
def goers (l : List (Nat × Fwd)) : List Thread := l.filterMap (fun p => match p.2 with | .go t => some t | _ => none)

/-- Whether kernel `kid` still has a thread on the etlet in focus: in a slot, parked, on its way or benched. -/
def State.kernelBusy (s : State) (kid : Nat) : Bool :=
  (kset s.etl.threads s.slot s.thr).any (fun p => decide (p.2.kid = kid)) || !(s.teamBenched kid).isEmpty ||
  (let lk := (kgetD s.etl.kernels kid {}).launch
   s.save.etlets.any (fun p => (goers (p.2.fwd.filter (fun q => decide (q.1 = s.eid)))).any (fun t => decide (t.lk = lk))) ||
   s.etl.parked.any (fun t => decide (t.lk = lk)) || s.etl.goIn.any (fun t => decide (t.lk = lk)))

/-- The owner of a ring whose kernel has gone: no launch has this key. -/
def noKernel : Nat := 2 ^ 64

/-- Frees kernel `kid` of the etlet in focus: slot table, LEND bit, kernel ID and permutation window, its triggers
disarmed into the fault record (R35, R208); its rings are another kernel's from then on (R344). -/
def releaseHere (kid : Nat) (s : State) : State :=
  match kget s.etl.kernels kid with
  | none => s
  | some k =>
    let lk := k.launch
    let s := s.etl.trigs.foldl (fun s p => if p.2.kid = kid then
        record lk { eval := wd (p.2.word % 2 ^ 36 + p.1 * 2 ^ 40), rank := p.2.rank, code := cEngine, level := 1, only := true } s else s) s
    let s := s.modE (fun e => { e with
      slots := e.slots.filter (fun p => decide (p.2 ≠ kid)), lend := e.lend &&& (255 - 2 ^ kid), lastKey := some k.key,
      trigs := e.trigs.filter (fun p => decide (p.2.kid ≠ kid)), kernels := kdel e.kernels kid,
      rings := kmap e.rings (fun r => if r.kid = lk then { r with kid := noKernel } else r) })
    match kget s.launches lk with
    | none => s
    | some l => { s with launches := kput s.launches lk { l with live := l.live.filter (fun e => decide (e ≠ s.eid)) } }

/-- Whether a thread of launch `lk` still stands anywhere. -/
def State.launchAlive (s : State) (lk : Nat) : Bool :=
  s.save.etlets.any (fun p =>
    let ks := (p.2.kernels.filter (fun k => decide (k.2.launch = lk))).map (·.1)
    p.2.threads.any (fun t => ks.contains t.2.kid) || p.2.bench.any (fun t => decide (t.lk = lk)) ||
    p.2.parked.any (fun t => decide (t.lk = lk)) || p.2.goIn.any (fun t => decide (t.lk = lk)) ||
    (goers p.2.fwd).any (fun t => decide (t.lk = lk))) ||
  s.images.any (fun p => p.2.any (fun t => decide (t.lk = lk)))

/-- When a kernel's last thread has left the etlet, its kernel ID is freed; when the launch has no thread left, so are
its kernels everywhere, and the launch has ended (R35). So it is when a handler ends on an etlet that the launch's threads have left by
GO. (DESIGN CHOICE, log 136) -/
def releaseKernel (kid : Nat) (s : State) : State :=
  let lk := (kgetD s.etl.kernels kid {}).launch
  if s.kernelBusy kid then s
  else
    let s := releaseHere kid s
    let s := if s.launchAlive lk then s
      else eachEtlet (fun _ => true) (fun s => (s.etl.kernels.filter (fun p => decide (p.2.launch = lk))).foldl (fun s p => releaseHere p.1 s) s) s
    match kget s.launches lk with
    | none => s
    | some l => if l.live = [] then { s with launches := kput s.launches lk { l with ended := true } } else s

/-- The words in a thread's loop-port queues are discarded, each returning its credit (R43, R46). -/
def dropWords (t : Thread) (s : State) : State :=
  (t.inq.flatMap (·.2)).foldl (fun s w => s.modEt w.srcE (fun x => { x with crIn := x.crIn ++ [(w.srcSlot, w.srcPort, w.srcTid)] })) s

/-- The gangs that wait for the thread of slot `l` of the etlet in focus, of launches that `p` accepts, cannot form: every waiting member
returns 1 (R314). -/
def breakGangs (l : Nat) (p : Nat → Bool) (s : State) : State :=
  let i := idxOf s.eid % 16
  (List.range 16).foldl (fun (s : State) j =>
    let e := s.eid - 8 * i + 8 * j
    let x := s.etletAt e
    match kget x.threads l with
    | none => s
    | some t =>
      match t.st with
      | .waiting (.gang n) => if j ≠ i ∧ i / n = j / n ∧ p (kgetD x.kernels t.kid {}).launch then within e l (finish (some 1)) s else s
      | _ => s) s

/-- Frees the slot and windows of the thread in focus. -/
def freeSlot (s : State) : State :=
  let t := s.th
  let s := dropWords t s
  releaseKernel t.kid (breakGangs s.slot (fun _ => true) (readyWhere (fun w => decide (w = .bench)) { purge t.tid s with thr := none }))

/-- Whether two etlets belong to one team at a level (Table 1.7): 1 etlet to 5 domain, above: the launch. -/
def physTeam (level a b : Nat) : Bool :=
  match level with
  | 0 => decide (a = b)
  | 1 => decide (a = b)
  | 2 => decide (clusterOf a = clusterOf b)
  | 3 => decide (dieOf a = dieOf b)
  | 4 => decide (pkgOf a = pkgOf b)
  | 5 => decide (pkgOf a / 1024 = pkgOf b / 1024)
  | _ => true

/-- Whether two etlets of a launch belong to one team at a level (Table 1.7, R31): by their virtual indices, by their place where the launch
does not hold both. -/
def Launch.sameTeam (l : Launch) (level a b : Nat) : Bool :=
  match l.virtOf a, l.virtOf b with
  | some v, some w =>
    (match level with
     | 0 => decide (a = b)
     | 1 => decide (a = b)
     | 2 => decide (v.1 = w.1 ∧ v.2.1 = w.2.1 ∧ v.2.2 / 16 = w.2.2 / 16)
     | 3 => decide (v.1 = w.1 ∧ v.2.1 = w.2.1)
     | 4 => decide (v.1 = w.1)
     | 5 => decide (v.1 / l.packages = w.1 / l.packages)
     | _ => true)
  | _, _ => physTeam level a b

/-- The etlets of the team of etlet `e` at a level, for launch `lk`. -/
def State.team (s : State) (level lk e : Nat) : Nat → Bool := (kgetD s.launches lk {}).sameTeam level e

/-- The kernel IDs of a launch on the etlet in focus. -/
def State.kidsOf (s : State) (lk : Nat) : List Nat := (s.etl.kernels.filter (fun p => decide (p.2.launch = lk))).map (·.1)

/-! ### Copy tags (R161, R162, R362) -/

/-- The threads benched from the etlet in focus (R225). -/
def State.benched (s : State) : List Thread :=
  s.etl.bench ++ s.etl.benchOut.filterMap (fun p => (kgetD s.images p.2 []).find? (fun t => decide (t.tid = p.1)))

/-- What a thread waiting in TWALL or TWANY receives, when the tags satisfy its mask. -/
def Thread.tagHit (tags : Word) (t : Thread) : Option Word :=
  match t.st with
  | .waiting (.tags all m) =>
    if (all && decide (tags &&& m = m)) || (!all && decide (tags &&& m ≠ 0)) then some (tags &&& m) else none
  | _ => none

/-- The widest scope of the commands whose tags are in `v`. -/
def Etlet.tagsScope (x : Etlet) (v : Word) : Nat :=
  (List.range 64).foldl (fun n i => if v.getLsbD i then max n (kgetD x.tagScope i 0) else n) 0

/-- Observing tags set is an acquire at the scope of each command (R106). -/
def tagAcquire (v : Word) (s : State) : State := if 4 ≤ s.etl.tagsScope v then s.acquire (dieOf s.eid) else s

/-- Releases the tag waits of the etlet in focus that the tags satisfy (R362); a benched one's wake is held (R43). -/
def tagWake (s : State) : State :=
  ((kset s.etl.threads s.slot s.thr).map (·.2) ++ s.benched).foldl (fun s t =>
    match t.tagHit s.etl.tags with
    | some v => if s.heldWake t.tid then s else wake t.tid (some v) (tagAcquire v s) (s.etl.tagsScope v)
    | none => s) s

/-- The benched threads of the etlet in focus that wait for a tag in `m` to be free: their wakes are held (R43, R226). -/
def tagFreeWakes (m : Word) (s : State) : State :=
  let out := s.benched.map (·.tid)
  wakeBenched (fun t => out.contains t.tid && (match t.st with | .waiting (.tagBusy x) => m.getLsbD x | _ => false)) s

/-- Sets the tags in `m`, whose commands were of scope `sc` (R161). -/
def setTags (m : Word) (sc : Nat) (s : State) : State :=
  tagWake (tagFreeWakes m (readyWhere (fun w => match w with | .tagBusy x => decide (64 ≤ x) || m.getLsbD x | .ring _ => true | _ => false)
    (s.modE (fun e => { e with
      tags := e.tags ||| m,
      tagAt := s.now,
      tagNew := if e.tagAt = s.now then e.tagNew ||| m else m,
      tagScope := (List.range 64).foldl (fun k x => if m.getLsbD x then kput k x sc else k) e.tagScope }))))

/-- The copy engine's commands, with those that wait for room in it. -/
def Etlet.cmds (e : Etlet) : List CopyCmd := e.copyq ++ e.fired

/-- Room in the copy engine, of 64 commands, goes to the PUTs of fired triggers, in the order in which they fired (R161). -/
def admitFired (s : State) : State :=
  s.modE (fun e => { e with copyq := e.copyq ++ e.fired.take (64 - e.copyq.length), fired := e.fired.drop (64 - e.copyq.length) })

/-- Lets the threads issue again that wait for accesses or engine commands of others, everywhere (R177, R383). -/
def reachWakes (s : State) : State :=
  if s.save.etlets.any (fun p => p.2.threads.any (fun t => decide (t.2.st = .waiting .reach))) then
    eachEtlet (fun _ => true) (readyWhere (fun w => decide (w = .reach))) s
  else s

/-- Engine commands of the etlet in focus that `p` accepts and that have not started are dropped, and their tags set (R229); what waits for
them goes on, RRESET on another etlet for a multicast CPYR too (R163, R177). (DEDUCED, log 72) -/
def dropCommands (p : CopyCmd → Bool) (s : State) : State :=
  let out := fun (c : CopyCmd) => p c && !c.running
  let m := s.etl.copyq.foldl (fun t c => if out c ∧ c.tag < 64 then t ||| wd (2 ^ c.tag) else t) 0
  let far := s.etl.copyq.any (fun c => out c && c.mc && decide (c.kind = .cpyr))
  let s := setTags m 1 (admitFired (s.modE (fun e => { e with copyq := e.copyq.filter (fun c => !out c), fired := e.fired.filter (fun c => !out c) })))
  reachWakes (if far then eachEtlet (fun _ => true) (readyWhere (fun w => match w with | .ring _ => true | _ => false)) s else s)

/-- The slot of the battery partner of the thread in focus. -/
def State.partnerSlot (s : State) : Option Nat :=
  s.th.partner.bind (fun p => (s.etl.threads.find? (fun x => decide (x.2.tid = p))).map (·.1))

/-- The thread in focus leaves by containment (R229): its participants leave, its events, held stores and unstarted engine
commands are dropped, its slot is freed. -/
def killOne (s : State) : State :=
  if s.thr.isNone then s
  else
    let t := s.th
    let s := disbandAll s
    let s := s.modK (fun k => { k with ckpt := { k.ckpt with held := k.ckpt.held.filter (fun h => decide (h.tid ≠ t.tid)) } })
    let s := dropCommands (fun c => decide (c.tid = t.tid)) s
    freeSlot (leaveAll s.eid t.tid (bits t.teamix 5 0) s.lkey s)

/-- The thread in focus is ended by containment, with its battery partner: the two count as one for the policy (R229, R232). -/
def killThread (s : State) : State :=
  match s.partnerSlot with
  | some l => within s.eid l killOne (killOne s)
  | none => killOne s

/-- The threads of the etlet in focus that stand in no slot: benched, parked, travelling. -/
def State.away (s : State) : List Thread := s.benched ++ s.etl.parked ++ s.etl.goIn ++ goers s.etl.fwd

/-- Ends those of them that `p` accepts (R229). -/
def endAway (p : Thread → Bool) (s : State) : State :=
  let mine' := s.away.filter p
  let out := mine'.map (·.tid)
  let keep := fun (t : Thread) => !out.contains t.tid
  let s := mine'.foldl (fun s t => leaveAll s.eid t.tid (bits t.teamix 5 0) t.lk (dropWords t (purge t.tid s))) s
  let s := (s.etl.heldLp.filter (fun w => out.contains w.1)).foldl (fun s w => dropWords { inq := [(0, [w.2])] } s) s
  let s := { s with images := (kmap s.images (fun l => l.filter keep)).filter (fun p => decide (p.2 ≠ [])) }
  s.modE (fun e => { e with
    bench := e.bench.filter keep, benchOut := e.benchOut.filter (fun p => !out.contains p.1),
    parked := e.parked.filter keep, goIn := e.goIn.filter keep,
    fwd := e.fwd.filter (fun p => match p.2 with | .go t => keep t | _ => true),
    held := e.held.filter (fun w => !out.contains w.tid), heldLp := e.heldLp.filter (fun w => !out.contains w.1) })

/-- Ends the threads of launch `lk` on the etlet in focus, discards its held stores and undo log, and drops its
engine commands that have not started, setting their tags (R229). -/
def endOnEtlet (lk : Nat) (s : State) : State :=
  let ks := s.kidsOf lk
  let s := (endAway (fun t => decide (t.lk = lk)) s).modE (fun e => { e with
    kernels := e.kernels.map (fun p => if p.2.launch = lk then (p.1, { p.2 with ckpt := { p.2.ckpt with held := [], undo := [] } }) else p) })
  let s := dropCommands (fun c => decide (c.lk = lk)) (eachSlot (fun t => ks.contains t.kid) killThread s)
  ks.foldl (fun s k => releaseKernel k s) s

/-- Thread `tid` and the etlet it stands on: in a slot, on a bench, parked or travelling. -/
def State.standing (s : State) (tid : Nat) : Option (Nat × Thread) :=
  s.save.etlets.findSome? (fun p =>
    ((p.2.threads.map (·.2) ++ p.2.bench ++ p.2.parked ++ p.2.goIn ++ goers p.2.fwd ++
      p.2.benchOut.filterMap (fun q => (kgetD s.images q.2 []).find? (fun t => decide (t.tid = q.1)))).find?
        (fun t => decide (t.tid = tid))).map (fun t => (p.1, t)))

/-- Ends a thread that stands in no slot, with its kernel where it was the last (R229). -/
def endOne (tid lk : Nat) (s : State) : State :=
  let s := dropCommands (fun c => decide (c.tid = tid)) (endAway (fun t => decide (t.tid = tid)) s)
  (s.kidsOf lk).foldl (fun s k => releaseKernel k s) s

/-- Ends the team of thread `tid` (launch `lk`, last on etlet `e0`) at a level (R227, R229). -/
def endTeam (level lk e0 tid : Nat) (s : State) : State :=
  if level = 0 then
    match s.whereTid tid with
    | some (e, l) => within e l killThread s
    | none =>
      match s.standing tid with
      | some (e, _) => within e (if e = s.eid then s.slot else 64) (endOne tid lk) s
      | none => s
  else
    let s := eachEtlet (s.team level lk e0) (endOnEtlet lk) s
    if s.launchAlive lk then s else freeSweepers lk s

/-! ### Rollback (R135) -/

/-- Whether retry is available to kernel `k`'s etlet team (R228). (DEDUCED, log 35) -/
def Ckpt.canRetry (c : Ckpt) : Bool := c.on && !c.lapsed && c.saved.isSome && decide (c.rolled < 3)

/-- Whether retry is available to the team at a level (R228). -/
def State.canRetry (s : State) (level lk e0 : Nat) : Bool :=
  let ks := (s.etletIds.filter (s.team (max 1 level) lk e0)).flatMap (fun e =>
    (s.etletAt e).kernels.filter (fun p => decide (p.2.launch = lk)))
  !ks.isEmpty && ks.all (fun p => p.2.ckpt.canRetry)

/-- Whether the teams at a level have been rolled back already since their last confirmed boundary. -/
def State.rolledBack (s : State) (level lk e0 : Nat) : Bool :=
  let ks := (s.etletIds.filter (s.team (max 1 level) lk e0)).flatMap (fun e =>
    (s.etletAt e).kernels.filter (fun p => decide (p.2.launch = lk)))
  !ks.isEmpty && ks.all (fun p => p.2.ckpt.on && decide (0 < p.2.ckpt.rolled))

/-- Room in the buffer goes to the confirmed held stores first (R109). -/
def refillBuf (s : State) : State :=
  s.modE (fun e => { e with sbuf := e.sbuf ++ e.drainq.take (32 - e.sbuf.length), drainq := e.drainq.drop (32 - e.sbuf.length) })

/-- The waits that a store's leaving the buffer may end. -/
def storeWaits : Wait → Bool
  | .sbuf _ => true
  | .sbufFull => true
  | .ack => true
  | _ => false

/-- Entries have left the buffer: others take their room, and what waited for them goes on. -/
def storeRoom (s : State) : State := readyWhere storeWaits (refillBuf s)

/-- Undo entries applied, newest first (R135 step 2). -/
def undoAll (us : List Undo) (s : State) : State :=
  us.reverse.foldl (fun s u => (s.wrMem 0 u.gpa 8 u.old.toNat).setFe 0 u.gpa u.empty) s

/-- The arrivals and requests of threads at core node `n` of their launch's objects are cancelled (R133, R135). -/
def cancelArrivals (tids : List Nat) (n : Nat) (s : State) : State :=
  { s with objs := kmap s.objs (fun o => { o with nodes := o.nodes.map (fun p =>
      if p.1 = n then
        (p.1, (p.2.waits.filter (fun w => tids.contains w.1)).foldl (fun (x : Node) w =>
          let had := (BitVec.ofNat 64 x.arr).getLsbD w.2.1
          { x with
            waits := x.waits.filter (fun y => decide (y.1 ≠ w.1)), arr := if had then x.arr - 2 ^ w.2.1 else x.arr,
            cnt := if had ∧ o.kind = 0 then (x.cnt + 255) % 256 else x.cnt }) { p.2 with tokq := p.2.tokq.filter (fun t => !tids.contains t) })
      else p) }) }

/-- A thread with its recorded context (R135 step 4), its undelivered events among it (R225); its loop-port queues and credits, the verdicts
still to come and where it stands stay, and so do the foul bits, which a denial has just set. (DESIGN CHOICE, log 150) -/
def Thread.back (st : TState) (ctx t : Thread) : Thread :=
  { ctx with
    st := st, kid := t.kid, base := t.base, vbase := t.vbase, inq := t.inq, credits := t.credits, foul := t.foul,
    pend := ctx.pend.filter (fun p => t.pend.contains p), lastSlot := t.lastSlot, lk := t.lk, img := t.img, imgNo := t.imgNo, votes := [],
    pops := [], after := none, vfl := none, from_ := t.from_ }

/-- Rolls back the launch's etlet team on the etlet in focus (R135): what is later than its recorded contexts. `foul` says that the cause is
FOUL. Its stores of the denied epoch that are still in the store buffer go too. (DESIGN CHOICE, log 150) -/
def rollEtlet (lk : Nat) (foul : Bool) (s : State) : State :=
  (s.kidsOf lk).foldl (fun s kid =>
    let c := (kgetD s.etl.kernels kid {}).ckpt
    let st : TState := if foul then .waiting (.rollback c.scope) else .ready
    let ctx := fun (t : Thread) => (c.saved.getD []).find? (fun x => decide (x.tid = t.tid))
    let mine := fun (t : Thread) => (ctx t).isSome
    let tids := (s.teamContexts kid).filter mine |>.map (·.tid)
    let s := cancelArrivals tids s.eid (tids.foldl (fun s t => purge t s) (undoAll (c.undo.filter (fun u => decide (c.cut ≤ u.epoch))) s))
    let s := tids.foldl (fun s t => modTid t (fun x => match ctx x with | some y => Thread.back st y x | none => x) s) s
    let keep := fun (x : SEntry) => !(tids.contains x.tid && decide (x.dobj = 0 ∧ c.cut ≤ x.epoch))
    storeRoom (s.modE (fun e => { e with
     sbuf := e.sbuf.filter keep, drainq := e.drainq.filter keep,
     held := e.held.filter (fun h => !tids.contains h.tid),
     kernels := kmod e.kernels kid {} (fun k => { k with ckpt := { c with
      undo := c.undo.filter (fun u => decide (u.epoch < c.cut)), bounds := c.bounds.filter (fun b => decide (b.epoch < c.cut)),
      held := c.held.filter (fun h => decide (h.epoch < c.cut)), rolled := c.rolled + 1 } }) }))) s

/-! ### The containment policy (R227, R388) -/

/-- The thread an event concerns: its launch, identity, last etlet, rank, POLICY, whether it can take a trap, and whether the team has
already gone back on another thread's event of the same release (R124). -/
structure Who where
  lk : Nat
  tid : Nat
  eid : Nat
  rank : Word
  policy : Nat
  alive : Bool
  again : Bool := false
deriving DecidableEq, Repr

/-- The loop of R227 from a level. -/
def policyRun (w : Who) (c : Cause) (dbl : Bool) : Nat → Nat → State → State
  | 0, _, s => s
  | f + 1, lv, s =>
    let rec_ := fun (l a : Nat) => record w.lk { eval := c.eval, rank := w.rank, code := c.code, level := l, act := a, dbl := dbl }
    if 5 < lv then rec_ 6 1 (endTeam 6 w.lk w.eid w.tid s)
    else match w.policy / 4 ^ lv % 4 with
    | 0 =>
      let s := rec_ lv 0 s
      if w.alive then modTid w.tid (fun t => { t with events := t.events ++ [{ c with level := lv, imp := true }] }) s else s
    | 1 =>
      if w.again && s.rolledBack lv w.lk w.eid then rec_ lv 1 s
      else if s.canRetry lv w.lk w.eid then
        rec_ lv 1 (eachEtlet (s.team (max 1 lv) w.lk w.eid) (rollEtlet w.lk (decide (c.code = cFoul))) s)
      else policyRun w c dbl f (lv + 1) s
    | 2 => rec_ lv 2 (endTeam lv w.lk w.eid w.tid s)
    | _ => rec_ (min 6 (lv + 1)) 3 (endTeam (lv + 1) w.lk w.eid w.tid s)

/-- An event of thread `tid` of launch `lk`, last on etlet `e` (R222, R227): from the thread level, or from the
etlet-team level when its queue of 8 is full or it has ended: a thread whose EXIT has issued counts as ended. (DEDUCED, log 34) (DESIGN
CHOICE, log 151) -/
def raiseEvent (lk tid e : Nat) (rank : Word) (c : Cause) (s : State) (again : Bool := false) : State :=
  let s := tell lk (if c.code = cLost then .lost lk c.eval else .event lk c.code) s
  match s.standing tid with
  | some (e, t) =>
    if t.st = .waiting .exitDrain then policyRun ⟨lk, tid, e, t.rank, (kgetD s.launches lk {}).policy, false, again⟩ c false 7 1 s
    else if t.events.length < 8 then policyRun ⟨lk, tid, e, t.rank, t.policy.toNat, true, again⟩ c false 7 0 s
    else policyRun ⟨lk, tid, e, t.rank, t.policy.toNat, false, again⟩ c false 7 1 s
  | none => policyRun ⟨lk, tid, e, rank, (kgetD s.launches lk {}).policy, false, again⟩ c false 7 1 s

/-- An event of the thread in focus. -/
def raiseMine (c : Cause) (s : State) : State := raiseEvent s.lkey s.th.tid s.eid s.th.rank c s

/-! ### Traps (R217 to R224) -/

/-- ECAUSE of a cause (Table 11.3). -/
def Cause.pack (c : Cause) : Word :=
  wd (c.info % 1024 * 2 ^ 16 + c.level % 16 * 2 ^ 12 + (if c.imp then 256 else 0) + c.code % 256)

/-- Trap entry (R218): STATUS and the bundle are saved, supervisor mode and EXL set, loops suspended, a skip
window dropped (R292), and control goes to SVEC. EPC is pc as it stands. -/
def enterTrap (c : Cause) (t : Thread) : Thread :=
  { t with estatus := t.status, epc := t.pc, ecause := c.pack, eval := c.eval,
           status := (t.status ||| 0x11) &&& ~~~(0x6 : Word), pc := t.svec,
           skip := 0, deferred := none, kill := none, votes := [], pops := [], after := none, st := .ready }

/-- A trap with EXL set (R219): the thread ends, and the policy runs from the etlet-team level. (DEDUCED, log 31) -/
def doubleTrap (c : Cause) (s : State) : State :=
  let w : Who := ⟨s.lkey, s.th.tid, s.eid, s.th.rank, s.lnch.policy, false, false⟩
  policyRun w c true 7 1 (killThread s)

/-- A trap in a hand-off slot (R224): the handler ends, and the policy runs from the etlet-team level. (DEDUCED, log 32) -/
def handlerTrap (c : Cause) (s : State) : State :=
  let w : Who := ⟨s.lkey, s.th.tid, s.eid, s.th.rank, s.lnch.policy, false, false⟩
  policyRun w c false 7 1 (freeSlot s)

/-- What a trap undoes on the etlet: the capture of the thread in focus, whose repetition buffer is then free (R174), its place before
the accumulators (R172), and its request to the solver (R188). -/
def dropCapture (s : State) : State :=
  let s := s.modE (fun e => { e with solver := e.solver.filter (fun q => !(decide (q.tid = s.th.tid) && q.held)) })
  let s := if s.etl.mmas.any (fun m => decide (m.tid = s.th.tid) && m.aux.isSome) then
      readyWhere (fun w => decide (w = .mmaDrain ∨ w = .bench)) (s.modE (fun e => { e with mmas := e.mmas.filter (fun m => !(decide (m.tid = s.th.tid) && m.aux.isSome)) }))
    else s
  match s.etl.vrb with
  | some b => if b.owner = s.th.tid ∧ b.capture then readyWhere (fun w => decide (w = .vrb)) (s.modE (fun e => { e with vrb := none })) else s
  | none => s

/-- A thread whose wait ends with a trap: it is ready from the next cycle on (R26). -/
def Thread.roused (now : Nat) (t : Thread) : Thread := if t.st = .ready then t else { t with wokenAt := some now }

/-- Nothing of a bundle in progress is kept. -/
def State.clean (s : State) : State := { s with latch := none, ph := 0, adv := false, late := none, lateSt := none, lateGo := none, lateBench := none }

/-- What every trap does first: nothing of the bundle is kept, a gang is disbanded (R38) and the thread's capture discarded (R174). -/
def trapStart (c : Cause) (s : State) : State := dropCapture { (disbandAll (s.modT (Thread.roused s.now))).clean with trap := some c }

/-- Takes a trap at the bundle of the thread in focus (R218, R219, R224). -/
def takeTrap (c : Cause) (s : State) : State :=
  let s := trapStart c s
  if s.handoff ∧ s.th.handler ≠ 2 then handlerTrap c s
  else if s.th.status.getLsbD 4 then doubleTrap c s
  else s.modT (enterTrap c)

/-- The words of a loop-port queue as they stood, with those that have come since; the word that has gone comes back. -/
def rejoin (old now : List LpWord) : List LpWord :=
  match old with
  | [] => now
  | w :: r => if r.isPrefixOf now && !old.isPrefixOf now then w :: now else now

/-- The gang member in focus has not executed the bundle in progress: its context, its requests, what it dispatched or captured and the loop
ports' words are as before (R38). What its accesses have done at their homes stays. (DEDUCED, log 160) -/
def undoMember (s : State) : State :=
  let t := s.th
  match kget s.etl.gangBack s.slot with
  | none => s
  | some b =>
    if b.ctx.tid ≠ t.tid then s
    else
      let inq := (List.range 4).map (fun k => (k, rejoin (kgetD b.ctx.inq k []) (kgetD t.inq k [])))
      let s := s.modT (fun t => { b.ctx with
        st := .ready
        events := t.events
        inq := inq.filter (fun q => !q.2.isEmpty)
        credits := t.credits
        foul := t.foul
        pend := t.pend
        issuedAt := t.issuedAt
        issues := t.issues
        wokenAt := some s.now })
      { s with
        feq := kmap s.feq (fun l => l.filter (fun r => decide (r.tid ≠ t.tid)))
        etl := { s.etl with
          gangBack := kdel s.etl.gangBack s.slot
          reqs := s.etl.reqs.filter (fun r => decide (r.2.tid ≠ t.tid))
          fagg := s.etl.fagg.map (fun g => { g with members := g.members.filter (fun m => decide (m.tid ≠ t.tid) || g.sent.isSome) })
          solver := s.etl.solver.filter (fun q => decide (q.tid ≠ t.tid))
          vq := s.etl.vq.filter (fun o => decide (o.tid ≠ t.tid) || b.seqs.contains o.seq)
          vrb := s.etl.vrb.map (fun r => if r.owner = t.tid ∧ r.capture then { r with ops := r.ops.take b.caps } else r) } }

/-- A precise trap that comes with a reply (R223); in a gang no member has then executed the bundle (R38). -/
def replyTrap (c : Cause) (s : State) : State :=
  let t := s.th
  takeTrap c ((List.range t.gangN).foldl (fun s i =>
    let e := t.gangLead + 8 * i
    if e = s.eid then s else within e s.slot undoMember s) s)

/-- The return from a trap (R220): PC = EPC and STATUS = ESTATUS, the read-only GANG bit as it stands. -/
def returnTrap (s : State) : State :=
  s.modT (fun t => { t with pc := t.epc, status := setBits (t.estatus &&& 0x1F) 3 1 (bits t.status 3 3) })

/-- Runs `f`, which concerns another thread, within the bundle in progress. -/
def aside (f : State → State) (s : State) : State :=
  { f s with trap := s.trap, latch := s.latch, ph := s.ph, adv := s.adv, late := s.late, lateSt := s.lateSt, lateGo := s.lateGo, lateBench := s.lateBench }

/-! ### The dispatch log (R175, R176) -/

/-- Whether all 64 entries hold unread faults. -/
def State.dlogFull (s : State) : Bool :=
  decide (64 ≤ (s.etl.dlog.filter (fun d => d.cause.isSome && !d.read)).length)

/-- The address of the bundle that issues. -/
def State.pcNow (s : State) : Word := if s.ph = 2 then s.bpc else s.th.pc

/-- The 30-bit body of the instruction that issues. -/
def State.body (s : State) : Nat := if s.ph = 2 then s.bundle / 2 ^ 32 % 2 ^ 30 else s.bundle % 2 ^ 30

/-- An entry added; it replaces the oldest entry without an unread fault when 64 are held. -/
def dlogPut (d : DEntry) (l : List DEntry) : List DEntry :=
  if l.length < 64 then l ++ [d]
  else match l.findIdx? (fun x => x.cause.isNone || x.read) with
    | some i => l.eraseIdx i ++ [d]
    | none => l ++ [d]

/-- The next sequence number and its entry (R175). -/
def logDispatch (slot tid : Nat) (pc : Word) (body : Nat) (s : State) : Nat × State :=
  let q := s.etl.dnext
  (q, s.modE (fun e => { e with
    dnext := (q + 1) % 65536
    dnextOld := if e.dnextAt = some s.now then e.dnextOld else q
    dnextAt := some s.now
    dlog := dlogPut ⟨q, slot, tid, pc, body, none, false⟩ e.dlog }))

/-- An engine fault (R176): recorded in the entry and raised as an ENGINE event with EVAL = the number. -/
def engineFault (lk seq tid cause : Nat) (rank va : Word) (s : State) : State :=
  let s := s.modE (fun e => { e with dlog := e.dlog.map (fun d => if d.seq = seq then { d with cause := some (cause, va), read := false } else d) })
  raiseEvent lk tid s.eid rank { code := cEngine, eval := wd seq } s

/-! ### The store buffer (R99, R109) -/

/-- One store performed at its home (R95); a failure there leaves its reply, a DABORT or LOST event, to come (R77, R194,
R214). -/
def storeEffect (e : SEntry) (s : State) : State :=
  let fail := fun (n : Nat) => s.modE (fun x => { x with posted := x.posted ++ [{ e with done := n }] })
  let g := s.survivor e.gpa
  if s.aborts g then fail 2
  else if s.lost g then fail 3
  else
    let kid := ((s.etl.kernels.find? (fun p => decide (p.2.launch = e.launch))).map (·.1)).getD 8
    let s := if inScratch s.eid g then logWord s s.eid kid g else s
    s.homeWrite e.key g e.width e.data.toNat

/-- Whether a store's home is on the die of the etlet in focus (R99). -/
def State.onDie (s : State) (gpa : Nat) : Bool :=
  (regionOf gpa = 0 || regionOf gpa = 1 || regionOf gpa = 2) && decide (homeDie gpa = dieOf s.eid)

/-- Whether a store must wait in the buffer for earlier stores of its thread that are still under way: one to host memory or a device
register for all of them (R107), one after a FENCE.SS for those before it, wherever their homes and its own (R103). -/
def SEntry.behind (x : SEntry) (posted : List SEntry) : Bool :=
  posted.any (fun y => decide (y.tid = x.tid ∧ y.done = 0) && (decide (regionOf x.gpa = 4 ∨ regionOf x.gpa = 5) || decide (y.ssn < x.ssn)))

/-- Whether a store must wait in the buffer for image words that its thread's earlier BENCHO has still to write (R98). -/
def SEntry.afterImage (x : SEntry) (ws : List BenchW) : Bool := ws.any (fun b => decide (b.tid = x.tid ∧ b.no < x.born))

/-- A store to a home off the die leaves the buffer: it updates the die's RDC copy of a CACHED line (R81, R95) and is under way; one that no
READY function carries is answered with an abort (R240). -/
def sendStore (x : SEntry) (s : State) : State :=
  let s := if x.ca then s.patchCopies s.eid x.key x.gpa x.width x.data.toNat else s
  s.modE (fun y => { y with
    posted := y.posted ++ [{ x with seq := y.reqSeq, sent := s.now, done := if s.cutOff s.eid x.gpa then 2 else x.done }], reqSeq := (y.reqSeq + 1) % 2 ^ 24 })

/-- The head entry has left the buffer (R99). -/
def popHead (s : State) : State := storeRoom (s.modE (fun y => { y with sbuf := y.sbuf.drop 1 }))

/-- Whether a store of thread `tid` that `p` accepts has still to take effect, or its failure to be reported (R102, R103).
(DEDUCED, log 38) -/
def State.storesOut (s : State) (tid : Nat) (p : SEntry → Bool) : Bool :=
  s.etl.buf.any (fun e => decide (e.tid = tid) && p e) ||
  s.etl.posted.any (fun e => decide (e.tid = tid) && ((decide (e.done = 0) && p e) || decide (2 ≤ e.done))) ||
  s.etl.benchW.any (fun b => decide (b.tid = tid) && b.parts.any (fun q =>
    p { slot := 0, tid := tid, gpa := q.1, width := 8, data := 0, key := b.key, va := 0 }))

/-- Goes on once the thread's earlier stores that `p` accepts have taken effect (R101 to R103, R106). Until then the thread is out of the
rotation. (DEDUCED, log 40) -/
def afterThose (p : SEntry → Bool) (s : State) (body : State → State) : State :=
  if s.storesOut s.th.tid p then waitFor .ack 112 s else body s

/-- The same for all earlier stores, or for those to homes on the die. -/
def afterStores (all : Bool) (s : State) (body : State → State) : State := afterThose (fun e => all || s.onDie e.gpa) s body

/-- The stores that an atomic or an engine command waits for: those to homes on the die, and those before a FENCE.SS at package scope or
wider (R101, R103, R106). -/
def State.before (s : State) (e : SEntry) : Bool := s.onDie e.gpa || decide (e.ssn < s.th.ssn)

/-- A release at die scope, as an engine command makes it (R106). -/
def release (s : State) (body : State → State) : State := afterThose s.before s body

/-- An atomic is a release at die scope that drains the buffer of its thread's earlier entries (R101). -/
def drained (s : State) (body : State → State) : State :=
  if s.etl.buf.any (fun e => decide (e.tid = s.th.tid)) then waitFor .ack 112 s else release s body

/-- A full fence at scope `n`: the thread goes on once its earlier stores have taken effect, and at package scope or wider the acquire
stamp advances (R103). -/
def fullFence (n : Nat) (s : State) (body : State → State) : State :=
  afterStores (decide (4 ≤ n)) s (fun s => body (if 4 ≤ n then s.acquire (dieOf s.eid) else s))

/-- Whether the team of the thread in focus holds stores now (R109, R133). -/
def State.holds (s : State) : Bool := let c := s.kern.ckpt; c.on && c.holding && !c.lapsed

/-- Whether the thread must first wait for its verdicts (R109, R134). -/
def State.pending (s : State) : Bool := s.kern.ckpt.on && !s.th.pend.isEmpty

/-- The stores in the etlet's one hold queue (Table 1.2). -/
def Etlet.heldCount (e : Etlet) : Nat := (e.kernels.map (fun k => k.2.ckpt.held.length)).sum

/-- An entry enters the buffer; where that is full it stands in line for it (R99). (DEDUCED, log 41) -/
def bufPut (x : SEntry) (s : State) : State :=
  s.modE (fun e => if e.sbuf.length < 32 ∧ e.drainq = [] then { e with sbuf := e.sbuf ++ [x] } else { e with drainq := e.drainq ++ [x] })

/-- An ordinary or release store enters the buffer, or the hold queue; a full queue lapses the checkpoint
(R99, R109, R136). -/
def pushStore (gpa width : Nat) (data va : Word) (scope : Nat) (ca : Bool) (s : State) : State :=
  let en : SEntry := {
    slot := s.slot, tid := s.th.tid, gpa := gpa, width := width, data := data, key := s.kern.key, va := va, scope := scope, ca := ca,
    launch := s.lkey, rank := s.th.rank, ssn := s.th.ssn, born := s.free, epoch := s.kern.ckpt.epoch, no := s.storeNo }
  if s.holds && !(regionOf gpa = 2) then
    if s.etl.heldCount < 512 then
      s.modK (fun k => { k with ckpt := { k.ckpt with held := k.ckpt.held ++
        [⟨gpa, width, data, s.slot, s.th.tid, k.key, va, scope, k.ckpt.epoch, ca, s.th.rank, s.th.ssn, s.free, s.storeNo⟩] } })
    else bufPut en (s.modK (fun k => { k with ckpt := { k.ckpt with lapsed := true, reason := k.ckpt.reason ||| 1 } }))
  else bufPut en s

/-- Whether the store buffer has no room for `n` more (R99). -/
def State.sbufFull (s : State) (n : Nat) : Bool := decide (32 < s.etl.sbuf.length + n) || decide (s.etl.drainq ≠ [])

/-! ### The dugout (R13, R39) -/

/-- What waits in a cluster's dugout (R13, R39, R43, R44, R47, R87): messages beyond the inbound buffers, held wakes and
words, parked threads, forwarded items. -/
def State.dugout (s : State) (c : Nat) : Nat :=
  (s.save.etlets.filter (fun p => decide (clusterOf p.1 = c))).foldl (fun n p =>
    n + (p.2.inbox.length - 8) + p.2.held.length + p.2.heldLp.length + p.2.parked.length + p.2.fwd.length) 0

/-- How many accesses to the scratchpad of etlet `e` are on their way to it as active messages (R42). -/
def State.asMessages (s : State) (e : Nat) : Nat :=
  (s.save.etlets.map (fun p => (p.2.reqs.filter (fun r => decide (p.1 ≠ e ∧ r.2.reply = none ∧ regionOf r.2.gpa = 2 ∧ scratchOwner r.2.gpa = e))).length)).sum

/-- Whether VC0 to an etlet stalls: hand-off slots, inbound buffer and dugout are full (R39). (DEDUCED, log 87) -/
def State.vc0Stalls (s : State) (e : Nat) : Bool :=
  decide (8 ≤ (s.etletAt e).inbox.length + (s.etletAt e).msgs.length + s.asMessages e) && decide (4096 ≤ s.dugout (clusterOf e))

/-! ### Checks at issue (R54, R59, R272) -/

/-- The window and read-only checks of one field (R28, R29, R58, R272). -/
def fieldCheck (limit vlimit pregs : Nat) : Fld → Option Cause
  | .src n => if limit ≤ n ∧ n < 112 then some { code := cWindow, eval := wd n } else none
  | .dst n =>
    if limit ≤ n ∧ n < 112 then some { code := cWindow, eval := wd n }
    else if n = 113 ∨ n = 118 ∨ n = 119 then some (illegalReg n) else none
  | .both n =>
    if limit ≤ n ∧ n < 112 then some { code := cWindow, eval := wd n }
    else if n = 113 ∨ n = 118 ∨ n = 119 then some (illegalReg n) else none
  | .vec n => if vlimit ≤ n then some { code := cWindow, eval := wd (256 + n) } else none
  | .pm n => if pregs ≤ n then some { code := cWindow, eval := wd (512 + n) } else none
  | .run a n =>
    if 112 ≤ a + n then some (illegalReg (a + n))
    else if limit ≤ a + n then some { code := cWindow, eval := wd (a + n) } else none
  | .head _ => none

/-- The first failing field (R54 step 4). -/
def fieldsCheck (limit vlimit pregs : Nat) : List Fld → Option Cause
  | [] => none
  | f :: fs => match fieldCheck limit vlimit pregs f with
    | some c => some c
    | none => fieldsCheck limit vlimit pregs fs

/-- A run whose length a register gives, SEND's, may not reach the special registers (R272, R350). -/
def runCheck (i : Instr) (s : State) : Option Cause :=
  match i with
  | .send a b => if 112 ≤ a + bits (s.rd b) 3 0 then some (illegalReg (a + bits (s.rd b) 3 0)) else none
  | _ => none

/-- Steps 2 (gateway), 3 and 4 of R54 for one instruction. -/
def precheck (i : Instr) (s : State) : Option Cause :=
  if i.matrix ∧ s.gateway then some { code := cIllegal, eval := wd s.bundle }
  else if i.privileged ∧ s.user then some { code := cPriv, eval := wd s.bundle }
  else (fieldsCheck s.th.limit s.th.vlimit (if s.handoff then 0 else s.kern.pregs) i.fields).orElse (fun _ => runCheck i s)

/-- A write of a loop port that is not bound, or bound outside the launch shape (R46). -/
def lpUnbound (s : State) (fs : List Fld) : Option Nat :=
  fs.findSome? (fun f => match f.lpWrite with
    | some k => if bits (kgetD s.th.chan k 0) 63 63 = 1 ∧ (s.lnch.chanEtlet (kgetD s.th.chan k 0)).isSome then none else some k
    | none => none)

/-- Whether a loop port read is empty (R59). -/
def lpEmpty (s : State) (fs : List Fld) : Bool :=
  fs.any (fun f => match f.lpRead with | some k => decide (kgetD s.th.inq k [] = []) | none => false)

/-- Whether a loop port written has no credit (R59). -/
def lpNoCredit (s : State) (fs : List Fld) : Bool :=
  fs.any (fun f => match f.lpWrite with | some k => decide (kgetD s.th.credits k 16 = 0) | none => false)

/-- What the bundle's loop ports and common registers hold it back with: a trap, a wait, or nothing (R46, R59,
R41, R134); a loop-port write is a release at die scope (R98, R106). -/
def portCheck (s : State) (fs : List Fld) : Option (Cause ⊕ Wait) :=
  if fs.all (fun f => f.lpRead.isNone && f.lpWrite.isNone && !f.cmWrite) then none
  else match lpUnbound s fs with
  | some k => some (.inl (illegalReg (120 + k)))
  | none =>
    if s.pending then some (.inr .verdict)
    else if lpEmpty s fs then (if s.handoff then some (.inl { code := cHandler }) else some (.inr .lport))
    else if lpNoCredit s fs then some (.inr .lport)
    else if fs.any (fun f => f.lpWrite.isSome) && s.storesOut s.th.tid s.before then some (.inr .ack)
    else none

/-- Whether the thread in focus is capturing (R174). -/
def State.capturing (s : State) : Bool :=
  match s.etl.vrb with
  | some b => decide (b.owner = s.th.tid) && b.capture
  | none => false

/-- Whether a VLD or VST of the thread in focus is still to be performed (R104). -/
def State.vmemPending (s : State) : Bool :=
  s.etl.vq.any (fun v => decide (v.tid = s.th.tid) && v.instr.vmem && v.out.isNone) ||
  (match s.etl.vrb with
   | some b => decide (b.owner = s.th.tid) && !b.capture && decide (b.pass < b.count) && b.ops.any (fun o => o.1.vmem)
   | none => false)

/-- The register fields with which an instruction counts for the loop ports: none while the thread captures it, since it reads and sends when
each pass is dispatched (R174, R380). -/
def State.ports (s : State) (i : Instr) : List Fld := if s.capturing && i.vector then [] else i.fields

/-- The loop ports that fields read. -/
def portsRead (fs : List Fld) : List Nat := (fs.filterMap (fun f => f.lpRead)).eraseDups

/-- The bundle's loop-port words go, or go with the reply that the thread now awaits (R46, R54, R59). -/
def popPorts (fs : List Fld) (s : State) : State :=
  match portsRead fs with
  | [] => s
  | ks =>
    match s.th.st with
    | .waiting .mem => s.modT (fun t => { t with pops := ks })
    | .waiting (.fe _) => s.modT (fun t => { t with pops := ks })
    | _ => popWords ks s

/-- Whether the bundle did not issue after all: it trapped, or waits to issue again. -/
def State.unissued (s : State) : Bool :=
  s.trap.isSome || (match s.th.st with | .waiting w => w.again | .ready => false)

/-- Issues one instruction: the checks of R54 steps 3 and 4, the loop ports of R59, then its own effect. Inside
a pair the step has made the checks for both instructions. -/
def issueS (i : Instr) (s : State) (body : State → State) : State :=
  if s.ph ≠ 0 then body s
  else
    let s := { s with trap := none }
    match precheck i s with
    | some c => takeTrap c s
    | none =>
      match portCheck s (s.ports i) with
      | some (.inl c) => takeTrap c s
      | some (.inr w) => waitFor w 112 s
      | none =>
        let t := body s
        if t.unissued then t else popPorts (s.ports i) t

/-- The outcomes of a meaning. -/
abbrev Res := Host.Outcome State Fault Refusal

/-- The outcome of an instruction that issues. -/
def issue (i : Instr) (s : State) (body : State → State) : Res := .next (issueS i s body)

/-- In a hand-off slot the instruction raises HANDLER with EVAL = 0 (R40). -/
def noHandler (s : State) (body : State → State) : State :=
  if s.handoff then takeTrap { code := cHandler } s else body s

/-- Under checkpoint the instruction first waits for the thread's verdicts (R109, R134). -/
def afterVerdicts (s : State) (body : State → State) : State :=
  if s.pending then waitFor .verdict 112 s else body s

/-- Writes d and goes on: what an instruction of fixed latency does (R25). (DEDUCED, log 13) -/
def result (d : Nat) (v : Word) (s : State) : State := advance (s.wr d v)

/-- A thread-local event on slot `l` of etlet `e`: `f` runs there with the focus set. (DESIGN CHOICE, log 11) -/
def at_ (e l : Nat) (s : State) (f : State → State) : Res := .next (within e l f s)

/-- An event of etlet `e`. -/
def atE (e : Nat) (s : State) (f : State → State) : Res :=
  .next (within e (if e = s.eid then s.slot else 0) f s)

end Sys2Proof.Machine
end

