-- ==== Sys2Proof/Machine/Alu.lean ====
section
/-! DEFINITION. The integer instructions (primaries 0x28 to 0x34): R274, R275, R286, R291, R297, R329, R333,
R334, R346, R351, R353, R387. -/

namespace Sys2Proof.Machine

/-- The mould of R274: reads g[a] and g[b], writes g[d]. -/
def alu3 (i : Instr) (d a b : Nat) (f : Word → Word → Word) (s : State) : Res :=
  issue i s (fun s => result d (f (s.rd a) (s.rd b)) s)

/-- The mould of R286: reads g[a], writes g[d]. -/
def alu2 (i : Instr) (d a : Nat) (f : Word → Word) (s : State) : Res :=
  issue i s (fun s => result d (f (s.rd a)) s)

/-- The 32-bit result of a W operation, sign-extended (R274). -/
def wResult (v : Word) : Word := sext v.toNat 32

/-- High 64 bits of the product of two integers (R334). -/
def mulHigh (x y : Int) : Word := BitVec.ofInt 64 ((x * y) / 2 ^ 64)

/-- ROTR (Table 22.2). -/
def rotr64 (x : Word) (n : Nat) : Word := if n = 0 then x else (x >>> n) ||| (x <<< (64 - n))

/-- The number of zero bits above the highest 1 bit, over `n` bits (R286). -/
def clzN : Nat → Word → Nat
  | 0, _ => 0
  | n + 1, x => if x.getLsbD n then 0 else 1 + clzN n x

/-- The number of zero bits below the lowest 1 bit among the top `n` bits (R286). -/
def ctzN : Nat → Word → Nat
  | 0, _ => 0
  | n + 1, x => if x.getLsbD (63 - n) then 0 else 1 + ctzN n x

/-- Bit i of the result is bit 63 - i (R286). -/
def brev64 (x : Word) : Word := loop (fun i r => if x.getLsbD (63 - i) then r ||| wd (2 ^ i) else r) 0 64 0

/-- Byte i of the result is byte 7 - i (R286). -/
def bswap64 (x : Word) : Word := wd (loop (fun i r => r + x.toNat / 256 ^ (7 - i) % 256 * 256 ^ i) 0 8 0)

/-- Quotient and remainder of R297. -/
def divide (signed : Bool) (x y : Word) : Word × Word :=
  if y = 0 then (BitVec.allOnes 64, x)
  else if signed then
    if x = 0x8000000000000000 ∧ y = BitVec.allOnes 64 then (x, 0)
    else (BitVec.ofInt 64 (x.toInt.tdiv y.toInt), BitVec.ofInt 64 (x.toInt.tmod y.toInt))
  else (wd (x.toNat / y.toNat), wd (x.toNat % y.toNat))

/-- Long-latency arithmetic (R25): the bundle is left, and the thread waits 24 cycles for its value. -/
def longAlu (d : Nat) (v : Word) (fl : Nat) (cycles : Nat) (s : State) : State :=
  (advance s).modT (fun t => { t with st := .waiting .alu, waitD := d, res := v, flags := fl, resAt := s.now + cycles })

/-- The division instructions (R297). -/
def divOp (i : Instr) (d a b : Nat) (f : Word → Word → Word) (s : State) : Res :=
  issue i s (fun s => longAlu d (f (s.rd a) (s.rd b)) 0 24 s)

/-- A false compare annuls the next sk + 1 bundles (R291, R292). -/
def annul (sk : Nat) (t : Bool) (s : State) : State :=
  if t then s else s.modT (fun th => { th with skip := sk + 1 })

/-- ADD (R274): g[d] = (g[a] + g[b]) mod 2^64. -/
def execAdd (d a b : Nat) (s : State) : Res := alu3 (.add d a b) d a b (fun x y => x + y) s

/-- SUB (R359). -/
def execSub (d a b : Nat) (s : State) : Res := alu3 (.sub d a b) d a b (fun x y => x - y) s

/-- AND (R274). -/
def execAnd (d a b : Nat) (s : State) : Res := alu3 (.and d a b) d a b (fun x y => x &&& y) s

/-- OR (R336). -/
def execOr (d a b : Nat) (s : State) : Res := alu3 (.or d a b) d a b (fun x y => x ||| y) s

/-- XOR (R385). -/
def execXor (d a b : Nat) (s : State) : Res := alu3 (.xor d a b) d a b (fun x y => x ^^^ y) s

/-- ANDN (R274). -/
def execAndn (d a b : Nat) (s : State) : Res := alu3 (.andn d a b) d a b (fun x y => x &&& ~~~y) s

/-- SLL (R346). -/
def execSll (d a b : Nat) (s : State) : Res := alu3 (.sll d a b) d a b (fun x y => x <<< (y.toNat % 64)) s

/-- SRL (R346). -/
def execSrl (d a b : Nat) (s : State) : Res := alu3 (.srl d a b) d a b (fun x y => x >>> (y.toNat % 64)) s

/-- SRA (R346). -/
def execSra (d a b : Nat) (s : State) : Res := alu3 (.sra d a b) d a b (fun x y => x.sshiftRight (y.toNat % 64)) s

/-- ROTR (R346). -/
def execRotr (d a b : Nat) (s : State) : Res := alu3 (.rotr d a b) d a b (fun x y => rotr64 x (y.toNat % 64)) s

/-- MIN (R329), signed. -/
def execMin (d a b : Nat) (s : State) : Res := alu3 (.min d a b) d a b (fun x y => if x.toInt ≤ y.toInt then x else y) s

/-- MAX (R329), signed. -/
def execMax (d a b : Nat) (s : State) : Res := alu3 (.max d a b) d a b (fun x y => if x.toInt ≤ y.toInt then y else x) s

/-- MINU (R329), unsigned. -/
def execMinu (d a b : Nat) (s : State) : Res := alu3 (.minu d a b) d a b (fun x y => if x.toNat ≤ y.toNat then x else y) s

/-- MAXU (R329), unsigned. -/
def execMaxu (d a b : Nat) (s : State) : Res := alu3 (.maxu d a b) d a b (fun x y => if x.toNat ≤ y.toNat then y else x) s

/-- ADDW (R274). -/
def execAddw (d a b : Nat) (s : State) : Res := alu3 (.addw d a b) d a b (fun x y => wResult (x + y)) s

/-- SUBW (R359). -/
def execSubw (d a b : Nat) (s : State) : Res := alu3 (.subw d a b) d a b (fun x y => wResult (x - y)) s

/-- MUL (R334): low 64 bits. -/
def execMul (d a b : Nat) (s : State) : Res := alu3 (.mul d a b) d a b (fun x y => x * y) s

/-- MULH (R334): high 64 bits, signed. -/
def execMulh (d a b : Nat) (s : State) : Res := alu3 (.mulh d a b) d a b (fun x y => mulHigh x.toInt y.toInt) s

/-- MULHU (R334): high 64 bits, unsigned. -/
def execMulhu (d a b : Nat) (s : State) : Res := alu3 (.mulhu d a b) d a b (fun x y => mulHigh x.toNat y.toNat) s

/-- MULW (R334). -/
def execMulw (d a b : Nat) (s : State) : Res := alu3 (.mulw d a b) d a b (fun x y => wResult (x * y)) s

/-- DIV (R297): signed quotient. -/
def execDiv (d a b : Nat) (s : State) : Res := divOp (.div d a b) d a b (fun x y => (divide true x y).1) s

/-- DIVU (R297). -/
def execDivu (d a b : Nat) (s : State) : Res := divOp (.divu d a b) d a b (fun x y => (divide false x y).1) s

/-- REM (R297): signed remainder. -/
def execRem (d a b : Nat) (s : State) : Res := divOp (.rem d a b) d a b (fun x y => (divide true x y).2) s

/-- REMU (R297). -/
def execRemu (d a b : Nat) (s : State) : Res := divOp (.remu d a b) d a b (fun x y => (divide false x y).2) s

/-- CLZ (R286). -/
def execClz (d a : Nat) (s : State) : Res := alu2 (.clz d a) d a (fun x => wd (clzN 64 x)) s

/-- CTZ (R286). -/
def execCtz (d a : Nat) (s : State) : Res := alu2 (.ctz d a) d a (fun x => wd (ctzN 64 x)) s

/-- POPC (R339). -/
def execPopc (d a : Nat) (s : State) : Res := alu2 (.popc d a) d a (fun x => wd (popcount 64 x.toNat)) s

/-- BREV (R286). -/
def execBrev (d a : Nat) (s : State) : Res := alu2 (.brev d a) d a (brev64) s

/-- BSWAP (R286). -/
def execBswap (d a : Nat) (s : State) : Res := alu2 (.bswap d a) d a (bswap64) s

/-- SEXT (R353): SignExtend(g[a][pos:0], 64). -/
def execSext (d a b : Nat) (s : State) : Res := alu2 (.sext d a b) d a (fun x => sext x.toNat (b + 1)) s

/-- ZEXT (R387): ZeroExtend(g[a][pos:0], 64). -/
def execZext (d a b : Nat) (s : State) : Res := alu2 (.zext d a b) d a (fun x => wd (x.toNat % 2 ^ (b + 1))) s

/-- ADDI (R275). -/
def execAddi (d a : Nat) (i : Imm) (s : State) : Res := alu2 (.addi d a i) d a (fun x => x + i.sval 10) s

/-- ANDI (R275). -/
def execAndi (d a : Nat) (i : Imm) (s : State) : Res := alu2 (.andi d a i) d a (fun x => x &&& i.sval 10) s

/-- ORI (R337). -/
def execOri (d a : Nat) (i : Imm) (s : State) : Res := alu2 (.ori d a i) d a (fun x => x ||| i.zval) s

/-- XORI (R385). -/
def execXori (d a : Nat) (i : Imm) (s : State) : Res := alu2 (.xori d a i) d a (fun x => x ^^^ i.zval) s

/-- SLLI (R346). -/
def execSlli (d a n : Nat) (s : State) : Res := alu2 (.slli d a n) d a (fun x => x <<< (n % 64)) s

/-- SRLI (R346). -/
def execSrli (d a n : Nat) (s : State) : Res := alu2 (.srli d a n) d a (fun x => x >>> (n % 64)) s

/-- SRAI (R346). -/
def execSrai (d a n : Nat) (s : State) : Res := alu2 (.srai d a n) d a (fun x => x.sshiftRight (n % 64)) s

/-- ROTRI (R346). -/
def execRotri (d a n : Nat) (s : State) : Res := alu2 (.rotri d a n) d a (fun x => rotr64 x (n % 64)) s

/-- MOVI (R333). -/
def execMovi (d : Nat) (i : Imm) (s : State) : Res := issue (.movi d i) s (fun s => result d (i.sval 17) s)

/-- MOVHI (R333): K into bits [63:32], bits [31:0] kept. -/
def execMovhi (d k : Nat) (s : State) : Res :=
  issue (.movhi d k) s (fun s => result d ((s.rd d &&& 0xFFFFFFFF) ||| (wd k <<< 32)) s)

/-- CMP (R291): a 64-bit compare that annuls the next sk + 1 bundles when it is false. -/
def execCmp (k c a : Nat) (b : CmpRhs) (s : State) : Res :=
  issue (.cmp k c a b) s (fun s => annul k (condition c (s.rd a) (s.cmpRhs b)) (advance s))

/-- CMP.W (R291): as CMP on the low halves. -/
def execCmpW (k c a : Nat) (b : CmpRhs) (s : State) : Res :=
  issue (.cmpW k c a b) s (fun s => annul k (condition c (cmpWord c (s.rd a)) (cmpWord c (s.cmpRhs b))) (advance s))

/-- SETC.EQ (R351): 1 if the condition holds, else 0. -/
def execSetcEq (d a b : Nat) (s : State) : Res :=
  alu3 (.setcEq d a b) d a b (fun x y => if condition 0 x y then 1 else 0) s

/-- SETC.NE (R351): 1 if the condition holds, else 0. -/
def execSetcNe (d a b : Nat) (s : State) : Res :=
  alu3 (.setcNe d a b) d a b (fun x y => if condition 1 x y then 1 else 0) s

/-- SETC.LT (R351): 1 if the condition holds, else 0. -/
def execSetcLt (d a b : Nat) (s : State) : Res :=
  alu3 (.setcLt d a b) d a b (fun x y => if condition 2 x y then 1 else 0) s

/-- SETC.GE (R351): 1 if the condition holds, else 0. -/
def execSetcGe (d a b : Nat) (s : State) : Res :=
  alu3 (.setcGe d a b) d a b (fun x y => if condition 3 x y then 1 else 0) s

/-- SETC.LTU (R351): 1 if the condition holds, else 0. -/
def execSetcLtu (d a b : Nat) (s : State) : Res :=
  alu3 (.setcLtu d a b) d a b (fun x y => if condition 4 x y then 1 else 0) s

/-- SETC.GEU (R351): 1 if the condition holds, else 0. -/
def execSetcGeu (d a b : Nat) (s : State) : Res :=
  alu3 (.setcGeu d a b) d a b (fun x y => if condition 5 x y then 1 else 0) s

/-- SETC.BS (R351): 1 if the condition holds, else 0. -/
def execSetcBs (d a b : Nat) (s : State) : Res :=
  alu3 (.setcBs d a b) d a b (fun x y => if condition 6 x y then 1 else 0) s

/-- SETC.BC (R351): 1 if the condition holds, else 0. -/
def execSetcBc (d a b : Nat) (s : State) : Res :=
  alu3 (.setcBc d a b) d a b (fun x y => if condition 7 x y then 1 else 0) s

end Sys2Proof.Machine
end

