-- ==== Sys2Proof/Machine/Control.lean ====
section
/-! DEFINITION. Control: NOP, EXIT, ERET, TRAP, branches, jumps, hardware loops, gangs and fences
(R103, R220, R221, R284, R285, R296, R301, R309, R313, R317, R325 to R327, R335). -/

namespace Sys2Proof.Machine

/-- NOP (R335). -/
def execNop (s : State) : Res := issue .nop s advance

/-- Whether a thread is eligible in cycle `now`, its scoreboard and yield apart (R24): a reply makes it eligible in the cycle after
(R26). -/
def Thread.eligible (t : Thread) (now : Nat) : Bool :=
  decide (t.st = .ready ∧ t.wokenAt ≠ some now) && (match t.issuedAt with | none => true | some c => decide (c + 7 < now))

/-- EXIT (R35, R301): out of the rotation until its drains end; EXIT_COMPLETE then frees the slot. -/
def execExit (s : State) : Res := issue .exit s (waitFor .exitDrain 112)

/-- Whether an exiting thread's drains have ended (R301). -/
def State.exitReady (s : State) : Bool :=
  let t := s.th
  !(match s.etl.vrb with | some b => decide (b.owner = t.tid) && !b.capture | none => false) &&
  !s.etl.vq.any (fun v => decide (v.tid = t.tid)) &&
  !s.etl.buf.any (fun e => decide (e.tid = t.tid)) && !s.kern.ckpt.held.any (fun h => decide (h.tid = t.tid)) &&
  !s.pending

/-- ERET (R220, R300). -/
def execEret (s : State) : Res := issue .eret s returnTrap

/-- TRAP (R221, R366): its partner completes, and EPC is the next bundle after the loop end test. -/
def execTrap (a i : Nat) (s : State) : Res :=
  issue (.trap a i) s (fun s =>
    let c : Cause := { code := cTrapins, eval := s.rd a, info := i }
    if s.ph = 0 then takeTrap c (popPorts [.src a] (advance s)) else { s with late := some c, adv := true })

/-- BR (R284). -/
def execBr (o : Nat) (s : State) : Res := issue (.br o) s (fun s => jumpTo (s.th.pc + 8 * sext o 24) s)

/-- BRL (R284): g1 receives the return address. -/
def execBrl (o : Nat) (s : State) : Res :=
  issue (.brl o) s (fun s => jumpTo (s.th.pc + 8 * sext o 24) (s.wr 1 (s.th.pc + 8)))

/-- JMPL (R317). -/
def execJmpl (d a : Nat) (s : State) : Res :=
  issue (.jmpl d a) s (fun s =>
    let t := s.rd a
    if t.toNat % 8 ≠ 0 then takeTrap { code := cAlign, eval := t } s
    else jumpTo t (s.wr d (s.th.pc + 8)))

/-- Whether LSETUP of loop `p` with body [ls, le] raises LOOP (R327). -/
def loopClash (t : Thread) (p : Nat) (ls le : Word) : Bool :=
  let (js, je) := if p = 0 then (t.ls1, t.le1) else (t.ls0, t.le0)
  t.la p || (t.la (1 - p) && decide (js.toNat ≤ ls.toNat ∧ ls.toNat ≤ je.toNat ∧ je.toNat < le.toNat))

/-- LSETUP (R325, R327). -/
def lsetup (p count len : Nat) (s : State) : State :=
  let t := s.th
  let ls := t.pc + 8
  let le := ls + 8 * wd len
  if loopClash t p ls le then takeTrap { code := cLoop, eval := wd p } s
  else
    let s := s.modT (fun t => if p = 0 then { t with ls0 := ls, le0 := le, lc0 := wd count } else { t with ls1 := ls, le1 := le, lc1 := wd count })
    if count = 0 then s.modT (fun t => { t.setLa p 0 with pc := le + 8 })
    else if s.ph = 0 then
      -- the end test of an enclosing loop at this bundle comes before the new loop can be tested
      s.modT (fun t => (endTest (t.setLa p 0)).setLa p 1)
    else { s.modT (fun t => t.setLa p 1) with adv := true }

/-- LSETUP with an immediate count (R325). -/
def execLsetupImm (p : Nat) (c : Imm) (e : Nat) (s : State) : Res :=
  issue (.lsetupImm p c e) s (lsetup p c.zval.toNat e)

/-- LSETUP with a register count (R325). -/
def execLsetupReg (p r e : Nat) (s : State) : Res :=
  issue (.lsetupReg p r e) s (fun s => lsetup p (s.rd r).toNat e s)

/-! ### Gangs (R37, R38, R296, R313, R314) -/

/-- The etlets of a gang of `n` members around the etlet in focus (R313). -/
def State.gangEtlets (s : State) (n : Nat) : List Nat :=
  let p := idxOf s.eid % 16
  (List.range n).map (fun i => s.eid - 8 * (p % n) + 8 * i)

/-- The slot-table entries and LEND bit of a kernel, which must agree (R37). -/
def Etlet.share (e : Etlet) (kid : Nat) : List Nat × Bool :=
  ((e.slots.filter (fun p => decide (p.2 = kid))).map (·.1), (BitVec.ofNat 8 e.lend).getLsbD kid)

/-- Whether an etlet's slot can be a member beside the thread in focus (R313). -/
def State.gangMate (s : State) (e : Nat) : Bool :=
  let x := s.etletAt e
  match kget x.threads s.slot with
  | none => false
  | some t =>
    let k := kgetD x.kernels t.kid {}
    decide (k.launch = s.lkey ∧ x.share t.kid = s.etl.share s.th.kid) && !k.battery && !s.kern.battery

/-- Whether an etlet's slot waits in GANG for `n` members. -/
def State.gangWaits (s : State) (e n : Nat) : Bool :=
  match kget (s.etletAt e).threads s.slot with
  | some t => decide (t.st = .waiting (.gang n))
  | none => false

/-- GANG (R313). -/
def execGang (d a : Nat) (s : State) : Res :=
  issue (.gang d a) s (fun s => noHandler s (fun s =>
    let n := (s.rd a).toNat
    if n ≠ 2 ∧ n ≠ 4 ∧ n ≠ 8 then result d 2 s
    else if bits s.th.status 3 3 = 1 then result d 3 s
    else
      let es := s.gangEtlets n
      let others := es.filter (fun e => decide (e ≠ s.eid))
      if others.all s.gangMate then
        if others.all (fun e => s.gangWaits e n) then
          let mark := fun (s : State) => s.modT (fun t => { t with status := setBits t.status 3 1 1, gangN := n, gangLead := es.headD 0 })
          let s := others.foldl (fun s e => within e s.slot (fun s => mark (finish (some 0) s)) s) s
          mark (result d 0 s)
        else waitFor (.gang n) d s
      else
        let w := others.filter (fun e => s.gangWaits e n)
        result d 1 (w.foldl (fun s e => within e s.slot (finish (some 1)) s) s)))

/-- DISBAND (R296), in one member; the step issues a gang's bundle in each. -/
def execDisband (s : State) : Res := issue .disband s (fun s => advance (ungang s))

/-! ### Fences (R103, R309) -/

/-- FENCE (R103). -/
def execFence (n : Nat) (s : State) : Res := issue (.fence n) s (fun s => fullFence n s advance)

/-- FENCE.SS (R103): at scope 4 or wider a later store leaves the buffer only after the earlier ones have taken effect. -/
def execFenceSs (n : Nat) (s : State) : Res :=
  issue (.fenceSs n) s (fun s => advance (if 4 ≤ n then s.modT (fun t => { t with ssn := t.ssn + 1 }) else s))

/-- FENCE.LA (R103): at scope 4 or wider the acquire stamp advances. -/
def execFenceLa (n : Nat) (s : State) : Res :=
  issue (.fenceLa n) s (fun s => advance (if 4 ≤ n then s.acquire (dieOf s.eid) else s))

end Sys2Proof.Machine
end

