-- ==== Sys2Proof/Machine/Flow.lean ====
section
/-! DEFINITION. The fabric ports: which port a flow uses, the flits that leave through it, and critical packets (R11, R195, R197, R201,
R202, R215). -/

namespace Sys2Proof.Machine

/-- The live ports of a plane, or of the surviving plane. -/
def Pkg.livePorts (k : Pkg) (plane : Nat) : List Nat := if k.upOn plane = [] then k.upOn (1 - plane) else k.upOn plane

/-- The number of the flow of endpoint `e` to package `p` on virtual channel `vc` (R195). -/
def flowId (vc e p : Nat) : Nat := (vc * 2 ^ 32 + e) * 2 ^ 17 + p

/-- The port a flow is pinned to (R195). -/
def Pkg.pin (k : Pkg) (f : Nat) : Option Nat :=
  let e := f / 2 ^ 17 % 2 ^ 32
  let p := f % 2 ^ 17
  let l := k.livePorts (p % 2)
  l[(e + p) % l.length]?

/-- Changes a port. -/
def State.modPort (s : State) (pkg port : Nat) (f : Port → Port) : State :=
  if port < 36 then s.modPkg pkg (fun k => { k with ports := kmod k.ports port {} f }) else s

/-- A change of a port's state is a critical packet of its package (Table 10.1, R202). -/
def changePort (pkg port : Nat) (f : Port → Port) (s : State) : State :=
  let t := s.modPort pkg port f
  let st := (kgetD (t.pkg pkg).ports port {}).state
  if st = (kgetD (s.pkg pkg).ports port {}).state then t else sendCritical pkg (.port port st) t

/-- A flit leaves through a port and stands in its replay buffer, which holds the last 512 (R201). -/
def Port.send (p : Port) : Port :=
  { p with txNext := (p.txNext + 1) % 2 ^ 32, unacked := (p.unacked ++ [p.txNext]).drop (p.unacked.length + 1 - 512) }

/-- A packet of a flow leaves through port `n` of package `h` in this cycle (R195, R201). -/
def State.useFlow (s : State) (h f n : Nat) : State :=
  (s.modPkg h (fun k => { k with flows := kput k.flows f { port := n, last := s.now } })).modPort h n Port.send

/-- A packet of endpoint `e` goes to package `p` on virtual channel `vc`: through the port of its flow, which its first packet
pins and which a flow that stalls does not use; to another domain through the network engine of `e`'s die (R195, R197, R215).
None where it cannot go now. (DEDUCED, log 51) -/
def usePort (vc e p : Nat) (s : State) : Option State :=
  let h := pkgOf e
  let k := s.pkg h
  if p = h then some s
  else if p / 1024 ≠ h / 1024 then (if s.readyBit h (56 + dieOf e % 4) then some s else none)
  else match kget k.flows (flowId vc e p) with
  | some f => if k.portUp f.port ∧ f.stalled = false then some (s.useFlow h (flowId vc e p) f.port) else none
  | none => (k.pin (flowId vc e p)).map (s.useFlow h (flowId vc e p))

/-- The endpoint that answers for a global physical address: its home slice, its scratchpad's etlet, or the package's first etlet. -/
def homeEid (a : Nat) : Nat :=
  match regionOf a with
  | 2 => scratchOwner a
  | 0 => homeDie a * 2 ^ 13 + sliceOf a * 8 + 5
  | 1 => homeDie a * 2 ^ 13 + sliceOf a * 8 + 5
  | _ => homeDie a * 2 ^ 13

/-- A good copy of critical packet `seq` of a source, which says `what`: the first is kept; the last 1,024 numbers of a source are
remembered (R202). -/
def Pkg.hear (src seq : Nat) (what : Option Notice) (k : Pkg) : Pkg :=
  let l := kgetD k.crit src []
  if l.contains seq then k
  else { k with crit := kput k.crit src ((l ++ [seq]).drop (l.length + 1 - 1024)), critIn := k.critIn ++ what.toList.map (fun w => (src, w)) }

end Sys2Proof.Machine
end

