-- ==== Sys2Proof/Machine/Fp.lean ====
section
/-! DEFINITION. The number formats and their arithmetic (R137, R140 to R152, R155, R156): exact values, one
rounding, flags, block quantisation and CF8. -/

namespace Sys2Proof.Machine

/-- A floating-point format (Table 7.3): exponent bits, fraction bits, bias, the code of the largest finite
magnitude, the codes of +infinity and of the canonical NaN, whether it has infinities, and whether a NaN with a
clear fraction MSB is signalling (R141). -/
structure Fmt where
  eb : Nat
  fb : Nat
  bias : Nat
  max : Nat
  inf : Nat
  nan : Nat
  hasInf : Bool := true
  hasSig : Bool := true
deriving DecidableEq, Repr

def fp64 : Fmt := { eb := 11, fb := 52, bias := 1023, max := 0x7FEFFFFFFFFFFFFF, inf := 0x7FF0000000000000, nan := 0x7FF8000000000000 }
def fp32 : Fmt := { eb := 8, fb := 23, bias := 127, max := 0x7F7FFFFF, inf := 0x7F800000, nan := 0x7FC00000 }
def fp16 : Fmt := { eb := 5, fb := 10, bias := 15, max := 0x7BFF, inf := 0x7C00, nan := 0x7E00 }
def bf16 : Fmt := { eb := 8, fb := 7, bias := 127, max := 0x7F7F, inf := 0x7F80, nan := 0x7FC0 }
def af48 : Fmt := { eb := 10, fb := 37, bias := 511, max := 0x7FDFFFFFFFFF, inf := 0x7FE000000000, nan := 0x7FF000000000, hasSig := false }
def e5m2 : Fmt := { eb := 5, fb := 2, bias := 15, max := 0x7B, inf := 0x7C, nan := 0x7E, hasSig := false }
def e4m3 : Fmt := { eb := 4, fb := 3, bias := 7, max := 0x7E, inf := 0x7E, nan := 0x7F, hasInf := false, hasSig := false }
def e2m1 : Fmt := { eb := 2, fb := 1, bias := 1, max := 7, inf := 7, nan := 0, hasInf := false, hasSig := false }

/-- The sign bit's weight. -/
def Fmt.sgn (f : Fmt) : Nat := 2 ^ (f.eb + f.fb)

/-- An exact value: (-1)^neg * m * 2^e, an infinity, or a NaN. -/
inductive Val where
  | nan (sig : Bool)
  | inf (neg : Bool)
  | fin (neg : Bool) (m : Nat) (e : Int)
deriving DecidableEq, Repr

/-- The value of an encoding (R140). -/
def Val.of (f : Fmt) (x : Nat) : Val :=
  let x := x % (2 * f.sgn)
  let neg := decide (f.sgn ≤ x)
  let c := x % f.sgn
  let ex := c / 2 ^ f.fb
  let fr := c % 2 ^ f.fb
  if f.max < c then
    if f.hasInf ∧ fr = 0 then .inf neg else .nan (f.hasSig && decide (fr < 2 ^ (f.fb - 1)))
  else if ex = 0 then .fin neg fr (1 - Int.ofNat f.bias - Int.ofNat f.fb)
  else .fin neg (2 ^ f.fb + fr) (Int.ofNat ex - Int.ofNat f.bias - Int.ofNat f.fb)

/-- Whether a value is a NaN. -/
def Val.isNan : Val → Bool
  | .nan _ => true
  | _ => false

/-- Whether a value is a signalling NaN. -/
def Val.isSig : Val → Bool
  | .nan s => s
  | _ => false

/-- The sign of a value. -/
def Val.neg? : Val → Bool
  | .nan _ => false
  | .inf n => n
  | .fin n _ _ => n

/-- The value with the opposite sign. -/
def Val.negate : Val → Val
  | .nan s => .nan s
  | .inf n => .inf (!n)
  | .fin n m e => .fin (!n) m e

/-- NV if an operand signals (R141). -/
def sigFlag (vs : List Val) : Nat := if vs.any Val.isSig then fNV else 0

/-- The number of bits of `m`. -/
def bitLen (m : Nat) : Nat := if m = 0 then 0 else Nat.log2 m + 1

/-- Whether rounding takes the greater magnitude: `n` is the lesser one, `r` the remainder below 2^d, `st` a
further nonzero part (Table 7.1). -/
def roundUp (rm : Nat) (neg : Bool) (n r d : Nat) (st : Bool) : Bool :=
  let half := 2 ^ d / 2
  let some_ := decide (r ≠ 0) || st
  match rm with
  | 1 => false
  | 2 => some_ && !neg
  | 3 => some_ && neg
  | 4 => decide (1 ≤ d) && decide (half ≤ r)
  | _ => decide (1 ≤ d) && (decide (half < r) || (decide (r = half) && (st || decide (n % 2 = 1))))

/-- The result of an overflow (Table 7.4). -/
def Fmt.overflow (f : Fmt) (rm : Nat) (sat neg : Bool) : Nat :=
  (if neg then f.sgn else 0) +
    (if sat || !f.hasInf then f.max
     else match rm with
      | 1 => f.max
      | 2 => if neg then f.max else f.inf
      | 3 => if neg then f.inf else f.max
      | _ => f.inf)

/-- m * 2^e, and a further part below one unit of m if `st`, rounded to a format: code and flags (R137, R139). -/
def Fmt.round (f : Fmt) (rm : Nat) (sat neg : Bool) (m : Nat) (e : Int) (st : Bool) : Nat × Nat :=
  let s := if neg then f.sgn else 0
  if m = 0 ∧ !st then (s, 0)
  else
    let top : Int := e + Int.ofNat (bitLen m) - 1
    let qmin : Int := 1 - Int.ofNat f.bias - Int.ofNat f.fb
    let at_ := fun (q : Int) =>
      if q ≤ e then (m * 2 ^ (e - q).toNat, false)
      else
        let d := (q - e).toNat
        let n := m / 2 ^ d
        let r := m % 2 ^ d
        (if roundUp rm neg n r d st then n + 1 else n, decide (r ≠ 0))
    let qn := top - Int.ofNat f.fb
    let q := if qmin ≤ qn then qn else qmin
    let (n, x) := at_ q
    let inexact := x || st
    let code := (q + Int.ofNat f.fb + Int.ofNat f.bias).toNat * 2 ^ f.fb + n - 2 ^ f.fb
    if f.max < code then (f.overflow rm sat neg, fOF + fNX)
    else
      let emin : Int := 1 - Int.ofNat f.bias
      let tiny := decide (top < emin) && !(decide (top + 1 = emin) && decide ((at_ qn).1 = 2 ^ (f.fb + 1)))
      (s + code, (if inexact then fNX else 0) + (if tiny && inexact then fUF else 0))

/-- A value put into a format (R143): code and flags. -/
def Fmt.put (f : Fmt) (rm : Nat) (sat : Bool) (v : Val) (st : Bool := false) : Nat × Nat :=
  match v with
  | .nan _ => (f.nan, 0)
  | .inf neg =>
    if sat || !f.hasInf then ((if neg then f.sgn else 0) + f.max, fOF + fNX)
    else ((if neg then f.sgn else 0) + f.inf, 0)
  | .fin neg m e => f.round rm sat neg m e st

/-! ### Exact sums and products (R141) -/

/-- x * y, with NV for 0 times infinity and for a signalling operand. -/
def Val.mul (x y : Val) : Val × Nat :=
  let s := sigFlag [x, y]
  match x, y with
  | .nan _, _ => (.nan false, s)
  | _, .nan _ => (.nan false, s)
  | .inf a, .inf b => (.inf (a != b), 0)
  | .inf a, .fin b m _ => if m = 0 then (.nan false, fNV) else (.inf (a != b), 0)
  | .fin a m _, .inf b => if m = 0 then (.nan false, fNV) else (.inf (a != b), 0)
  | .fin a m e, .fin b n g => (.fin (a != b) (m * n) (e + g), 0)

/-- The signed numerator of a finite value over 2^g. -/
def Val.over (neg : Bool) (m : Nat) (e g : Int) : Int :=
  let v := Int.ofNat (m * 2 ^ (e - g).toNat)
  if neg then -v else v

/-- x + y; `rm` fixes the sign of an exact zero. -/
def Val.add (rm : Nat) (x y : Val) : Val × Nat :=
  let s := sigFlag [x, y]
  match x, y with
  | .nan _, _ => (.nan false, s)
  | _, .nan _ => (.nan false, s)
  | .inf a, .inf b => if a = b then (.inf a, 0) else (.nan false, fNV)
  | .inf a, .fin _ _ _ => (.inf a, 0)
  | .fin _ _ _, .inf b => (.inf b, 0)
  | .fin a m e, .fin b n h =>
    if m = 0 ∧ n = 0 then (.fin (if a = b then a else decide (rm = 3)) 0 e, 0)
    else if m = 0 then (y, 0)
    else if n = 0 then (x, 0)
    else
      let g := min e h
      let v := Val.over a m e g + Val.over b n h g
      (if v = 0 then .fin (decide (rm = 3)) 0 g else .fin (decide (v < 0)) v.natAbs g, 0)

/-- The order of two values that are not NaN: negative, zero or positive. -/
def Val.cmp (x y : Val) : Int :=
  match x, y with
  | .inf a, .inf b => if a = b then 0 else if a then -1 else 1
  | .inf a, _ => if a then -1 else 1
  | _, .inf b => if b then 1 else -1
  | .fin a m e, .fin b n h => Val.over a m e (min e h) - Val.over b n h (min e h)
  | _, _ => 0

/-- x / y (R303): value, flags and a further part. -/
def Val.div (prec : Nat) (x y : Val) : Val × Nat × Bool :=
  let s := sigFlag [x, y]
  match x, y with
  | .nan _, _ => (.nan false, s, false)
  | _, .nan _ => (.nan false, s, false)
  | .inf _, .inf _ => (.nan false, fNV, false)
  | .inf a, .fin b _ _ => (.inf (a != b), 0, false)
  | .fin a _ e, .inf b => (.fin (a != b) 0 e, 0, false)
  | .fin a m e, .fin b n h =>
    if n = 0 then (if m = 0 then (.nan false, fNV, false) else (.inf (a != b), fDZ, false))
    else if m = 0 then (.fin (a != b) 0 e, 0, false)
    else
      let k := prec + 3 + bitLen n
      (.fin (a != b) (m * 2 ^ k / n) (e - h - Int.ofNat k), 0, decide (m * 2 ^ k % n ≠ 0))

/-- The integer square root of `n`, whose root has at most `k` bits. -/
def isqrt : Nat → Nat → Nat → Nat
  | 0, r, _ => r
  | k + 1, r, n => isqrt k (if (r + 2 ^ k) * (r + 2 ^ k) ≤ n then r + 2 ^ k else r) n

/-- An exponent made even: m * 2^e with e even. -/
def evenExp (m : Nat) (e : Int) : Nat × Int := if e % 2 = 0 then (m, e) else (2 * m, e - 1)

/-- The square root (R303). -/
def Val.sqrt (prec : Nat) (x : Val) : Val × Nat × Bool :=
  match x with
  | .nan s => (.nan false, if s then fNV else 0, false)
  | .inf n => if n then (.nan false, fNV, false) else (.inf false, 0, false)
  | .fin n m e =>
    if m = 0 then (x, 0, false)
    else if n then (.nan false, fNV, false)
    else
      let (m, e) := evenExp m e
      let k := prec + 3
      let w := m * 2 ^ (2 * k)
      let r := isqrt (bitLen w / 2 + 1) 0 w
      (.fin false r (e / 2 - Int.ofNat k), 0, decide (r * r ≠ w))

/-! ### Special functions (R156, Table 7.11) -/

/-- 1 / sqrt x. -/
def Val.rsqrt (x : Val) : Val × Nat × Bool :=
  match x with
  | .nan s => (.nan false, if s then fNV else 0, false)
  | .inf n => if n then (.nan false, fNV, false) else (.fin false 0 0, 0, false)
  | .fin n m e =>
    if m = 0 then (.inf n, fDZ, false)
    else if n then (.nan false, fNV, false)
    else
      let (m, e) := evenExp m e
      let k := bitLen m + 30
      let w := 2 ^ (2 * k)
      let r := isqrt (k + 1) 0 (w / m)
      (.fin false r (-(e / 2) - Int.ofNat k), 0, decide (r * r * m ≠ w))

/-- Fixed-point places of FEXP2 and FLOG2: the functions' values are computed to well over 300 places, far beyond the
closest approach of any FP32 operand's value to a rounding boundary. (DEDUCED, log 60) -/
def fixP : Nat := 320

/-- The natural logarithm of 2, in 2^-320: the sum of 1 / (k 2^k). -/
def ln2Fix : Nat := loop (fun k a => a + 2 ^ fixP / (k * 2 ^ k)) 1 320 0

/-- exp(y) for a fixed-point y below 1: its series. -/
def expFix (y : Nat) : Nat :=
  (loop (fun k (p : Nat × Nat) => let t := p.1 * y / 2 ^ fixP / k; (t, p.2 + t)) 1 80 (2 ^ fixP, 2 ^ fixP)).2

/-- ln(t) for a fixed-point t from 1 to 2: 2 atanh((t - 1) / (t + 1)). -/
def lnFix (t : Nat) : Nat :=
  let z := (t - 2 ^ fixP) * 2 ^ fixP / (t + 2 ^ fixP)
  let z2 := z * z / 2 ^ fixP
  2 * (loop (fun k (p : Nat × Nat) => (p.1 * z2 / 2 ^ fixP, p.2 + p.1 / (2 * k + 1))) 0 110 (z, 0)).2

/-- 2^x. -/
def Val.exp2 (x : Val) : Val × Nat × Bool :=
  match x with
  | .nan s => (.nan false, if s then fNV else 0, false)
  | .inf n => (if n then .fin false 0 0 else .inf false, 0, false)
  | .fin n m e =>
    if m = 0 then (.fin false 1 0, 0, false)
    else if 10 < e + Int.ofNat (bitLen m) then (.fin false 1 (if n then -2000 else 2000), 0, false)
    else
      let v := Val.over n m e (min e 0)
      let u : Int := Int.ofNat (2 ^ (min e 0).natAbs)
      let w := v / u
      let f := (v % u).toNat
      if f = 0 then (.fin false 1 w, 0, false)
      else (.fin false (expFix (f * 2 ^ fixP / u.toNat * ln2Fix / 2 ^ fixP)) (w - Int.ofNat fixP), 0, true)

/-- log2 x. -/
def Val.log2 (x : Val) : Val × Nat × Bool :=
  match x with
  | .nan s => (.nan false, if s then fNV else 0, false)
  | .inf n => if n then (.nan false, fNV, false) else (.inf false, 0, false)
  | .fin n m e =>
    if m = 0 then (.inf true, fDZ, false)
    else if n then (.nan false, fNV, false)
    else
      let k := bitLen m - 1
      let w := e + Int.ofNat k
      if m = 2 ^ k then (.fin (decide (w < 0)) w.natAbs 0, 0, false)
      else
        let v := w * Int.ofNat (2 ^ fixP) + Int.ofNat (lnFix (m * 2 ^ fixP / 2 ^ k) * 2 ^ fixP / ln2Fix)
        if v < 0 then (.fin true (v.natAbs - 1) (-Int.ofNat fixP), 0, true)
        else (.fin false v.toNat (-Int.ofNat fixP), 0, true)

/-! ### Operations on encodings: result and flags -/

/-- A rounded result with flags raised before it. -/
def Fmt.out (f : Fmt) (rm : Nat) (r : Val × Nat) : Nat × Nat :=
  let (c, g) := f.put rm false r.1
  (c, g ||| r.2)

/-- As `out`, with a further part. -/
def Fmt.out3 (f : Fmt) (rm : Nat) (r : Val × Nat × Bool) : Nat × Nat :=
  let (c, g) := f.put rm false r.1 r.2.2
  (c, g ||| r.2.1)

def fpAdd (f : Fmt) (rm x y : Nat) : Nat × Nat := f.out rm (Val.add rm (.of f x) (.of f y))
def fpSub (f : Fmt) (rm x y : Nat) : Nat × Nat := f.out rm (Val.add rm (.of f x) (Val.of f y).negate)
def fpMul (f : Fmt) (rm x y : Nat) : Nat × Nat := f.out rm (Val.mul (.of f x) (.of f y))
def fpDiv (f : Fmt) (rm x y : Nat) : Nat × Nat := f.out3 rm (Val.div f.fb (.of f x) (.of f y))
def fpSqrt (f : Fmt) (rm x : Nat) : Nat × Nat := f.out3 rm (Val.sqrt f.fb (.of f x))
def fpRcp (rm x : Nat) : Nat × Nat := fp32.out3 rm (Val.div fp32.fb (.fin false 1 0) (.of fp32 x))
def fpRsq (rm x : Nat) : Nat × Nat := fp32.out3 rm (Val.of fp32 x).rsqrt
def fpExp2 (rm x : Nat) : Nat × Nat := fp32.out3 rm (Val.of fp32 x).exp2
def fpLog2 (rm x : Nat) : Nat × Nat := fp32.out3 rm (Val.of fp32 x).log2

/-- FMIN (`hi` false) and FMAX (R141). -/
def fpMinMax (f : Fmt) (hi : Bool) (x y : Nat) : Nat × Nat :=
  let a := Val.of f x
  let b := Val.of f y
  let fl := sigFlag [a, b]
  if a.isNan ∧ b.isNan then (f.nan, fl)
  else if a.isNan then (y, fl)
  else if b.isNan then (x, fl)
  else
    let less := decide (a.cmp b < 0) || (decide (a.cmp b = 0) && a.neg? && !b.neg?)
    (if less != hi then x else y, fl)

/-- FCPS: x with the sign of y (R302). -/
def fpCps (f : Fmt) (x y : Nat) : Nat :=
  if (Val.of f x).isNan then f.nan else x % f.sgn + y / f.sgn % 2 * f.sgn

/-- x * y + c, -c added, or c - x * y: kinds 0, 1, 2 (R311). -/
def fpFma (f : Fmt) (k rm x y c : Nat) : Nat × Nat :=
  let (p, fl) := Val.mul (.of f x) (.of f y)
  let c := Val.of f c
  let (r, g) := Val.add rm (if k = 2 then p.negate else p) (if k = 1 then c.negate else c)
  f.out rm (r, g ||| fl)

/-- The conditions of FCMP (R307): 0 EQ, 1 NE, 2 LT, 3 LE, 4 GT, 5 GE, 6 UN, 7 OR; with the NV flag. -/
def fpCmp (f : Fmt) (cc x y : Nat) : Bool × Nat :=
  let a := Val.of f x
  let b := Val.of f y
  let un := a.isNan || b.isNan
  let c := a.cmp b
  let t := match cc with
    | 0 => !un && decide (c = 0)
    | 1 => un || decide (c ≠ 0)
    | 2 => !un && decide (c < 0)
    | 3 => !un && decide (c ≤ 0)
    | 4 => !un && decide (0 < c)
    | 5 => !un && decide (0 ≤ c)
    | 6 => un
    | _ => !un
  (t, if a.isSig || b.isSig || (un && decide (2 ≤ cc ∧ cc ≤ 5)) then fNV else 0)

/-- FCLASS's mask (Table 20.6). -/
def fpClass (x : Nat) : Nat :=
  match Val.of fp32 x with
  | .nan s => if s then 2 ^ 8 else 2 ^ 9
  | .inf n => if n then 1 else 2 ^ 7
  | .fin n m _ =>
    if m = 0 then (if n then 2 ^ 3 else 2 ^ 4)
    else if m < 2 ^ 23 then (if n then 2 ^ 2 else 2 ^ 5)
    else (if n then 2 else 2 ^ 6)

/-! ### Conversions (R143, R144) -/

/-- Float to float. -/
def cvtFF (src dst : Fmt) (rm x : Nat) : Nat × Nat :=
  let v := Val.of src x
  dst.out rm (v, sigFlag [v])

/-- A two's complement or unsigned integer of `n` bits to float. -/
def cvtIF (dst : Fmt) (signed : Bool) (n rm x : Nat) : Nat × Nat :=
  let x := x % 2 ^ n
  if signed ∧ 2 ^ (n - 1) ≤ x then dst.out rm (.fin true (2 ^ n - x) 0, 0) else dst.out rm (.fin false x 0, 0)

/-- Float to an integer of `n` bits, as an n-bit pattern. -/
def cvtFI (src : Fmt) (signed : Bool) (n rm x : Nat) : Nat × Nat :=
  let hi := if signed then 2 ^ (n - 1) - 1 else 2 ^ n - 1
  let lo := if signed then 2 ^ (n - 1) else 0
  match Val.of src x with
  | .nan _ => (0, fNV)
  | .inf neg => (if neg then lo else hi, fNV)
  | .fin neg m e =>
    let (k, x) :=
      if 0 ≤ e then (m * 2 ^ e.toNat, false)
      else
        let d := e.natAbs
        let q := m / 2 ^ d
        let r := m % 2 ^ d
        (if roundUp rm neg q r d false then q + 1 else q, decide (r ≠ 0))
    if neg then (if lo < k then (lo, fNV) else ((2 ^ n - k) % 2 ^ n, if x then fNX else 0))
    else if hi < k then (hi, fNV)
    else (k, if x then fNX else 0)

/-- FCVT by its code (Table 7.5): the value of g[d] and the flags. -/
def fcvt (b rm : Nat) (x : Nat) : Word × Nat :=
  let z := fun (r : Nat × Nat) => (wd r.1, r.2)
  match b with
  | 0 => z (cvtFF fp64 fp32 rm x)
  | 1 => z (cvtFF fp32 fp64 rm x)
  | 2 => z (cvtIF fp64 true 64 rm x)
  | 3 => z (cvtIF fp64 false 64 rm x)
  | 4 => z (cvtFI fp64 true 64 rm x)
  | 5 => z (cvtFI fp64 false 64 rm x)
  | 6 => z (cvtIF fp32 true 32 rm x)
  | 7 => z (cvtIF fp32 false 32 rm x)
  | 8 => let r := cvtFI fp32 true 32 rm x; (sext r.1 32, r.2)
  | 9 => z (cvtFI fp32 false 32 rm x)
  | 10 => z (cvtFF fp16 fp32 rm x)
  | 11 => z (cvtFF fp32 fp16 rm x)
  | 12 => z (cvtFF bf16 fp32 rm x)
  | _ => z (cvtFF fp32 bf16 rm x)

/-! ### Blocks (R145, R146) -/

/-- Element format of a block code: 0 E4M3, 1 E5M2, 2 E2M1. -/
def mxFmt (k : Nat) : Fmt := match k with | 0 => e4m3 | 1 => e5m2 | _ => e2m1

/-- A value times 2^k. -/
def Val.scale (v : Val) (k : Int) : Val :=
  match v with
  | .fin n m e => .fin n m (e + k)
  | v => v

/-- The value of an element under a scale code; all are NaN under 0xFF (R145). -/
def mxVal (f : Fmt) (scale code : Nat) : Val :=
  if scale = 0xFF then .nan false else (Val.of f code).scale (Int.ofNat scale - 127)

/-- The largest finite magnitude among values. -/
def maxMag (vs : List Val) : Val :=
  vs.foldl (fun b v => match v with
    | .fin _ m e => if (Val.fin false m e).cmp b ≤ 0 then b else .fin false m e
    | _ => b) (.fin false 0 0)

/-- The exponent that R146 chooses. -/
def mxExp (f : Fmt) (vs : List Val) : Int :=
  match maxMag vs with
  | .fin _ m e =>
    if m = 0 then (if vs.any (fun v => match v with | .inf _ => true | _ => false) then 127 else -127)
    else
      match Val.of f f.max with
      | .fin _ mm me =>
        let k := e + Int.ofNat (bitLen m) - (me + Int.ofNat (bitLen mm))
        let k := if (Val.fin false m (e - k)).cmp (.fin false mm me) ≤ 0 then k else k + 1
        max (-127) (min 127 k)
      | _ => 0
  | _ => 0

/-- A block quantised (R146): scale code, element codes, flags. -/
def quantise (f : Fmt) (vs : List Val) : Nat × List Nat × Nat :=
  if vs.any Val.isNan then (0xFF, vs.map (fun _ => f.nan), fNV)
  else
    let e := mxExp f vs
    let rs := vs.map (fun v => f.put 0 true (v.scale (-e)))
    ((e + 127).toNat, rs.map (·.1), rs.foldl (fun a r => a ||| r.2) 0)

/-! ### CF8 (R147 to R150) -/

/-- The prefix codes of Table 7.8: (length, code) by exponent. -/
def cf8Codes : Nat → List (Nat × Nat)
  | 0 => [(8, 0xFC), (8, 0xFD), (7, 0x7C), (6, 0x3C), (5, 0x1C), (4, 0xC), (3, 4), (2, 0),
          (2, 1), (3, 5), (4, 0xD), (5, 0x1D), (6, 0x3D), (7, 0x7D), (8, 0xFE), (8, 0xFF)]
  | 1 => [(8, 0xFC), (8, 0xFD), (8, 0xFE), (8, 0xFF), (7, 0x7C), (6, 0x3C), (5, 0x1C), (4, 0xC),
          (3, 4), (2, 0), (2, 1), (3, 5), (4, 0xD), (5, 0x1D), (6, 0x3D), (7, 0x7D)]
  | 2 => [(7, 0x7C), (6, 0x3C), (5, 0x1C), (4, 0xC), (3, 4), (2, 0), (2, 1), (3, 5),
          (4, 0xD), (5, 0x1D), (6, 0x3D), (7, 0x7D), (8, 0xFC), (8, 0xFD), (8, 0xFE), (8, 0xFF)]
  | _ => (List.range 16).map (fun i => (4, i))

/-- The bits a table needs for the elements (R149). -/
def cf8Bits (t : Nat) (es : List Nat) : Nat :=
  es.foldl (fun n e => n + ((cf8Codes t).getD (e / 8 % 16) (4, 0)).1) 0

/-- The table R149 chooses and its L. -/
def cf8Choose (es : List Nat) : Nat × Nat :=
  [0, 1, 2, 3].foldl (fun b t =>
    let n := cf8Bits t es
    if n ≤ 128 ∧ (n + 15) / 16 < b.2 then (t, (n + 15) / 16) else b) (3, 9)

/-- The bytes of a CF8 block (R147). -/
def cf8Block (scale : Nat) (es : List Nat) : List Nat :=
  let (t, l) := cf8Choose es
  let (n, v) := es.foldl (fun (p : Nat × Nat) e =>
    let c := (cf8Codes t).getD (e / 8 % 16) (4, 0)
    (p.1 + c.1, p.2 * 2 ^ c.1 + c.2)) (0, 0)
  let v := v * 2 ^ (16 * l - n)
  let nib := fun e => e / 128 % 2 * 8 + e % 8
  [t * 64 + l, scale] ++
  (List.range 16).map (fun k => nib (es.getD (2 * k) 0) + 16 * nib (es.getD (2 * k + 1) 0)) ++
  (List.range (2 * l)).map (fun i => v / 2 ^ (16 * (l - 1 - i / 2)) / (if i % 2 = 0 then 1 else 256) % 256)

/-- Reads `n` codes from a bit string of `k` bits held in `v`, the first bit highest: exponents and bits left. -/
def cf8Codes? (t : Nat) : Nat → Nat → Nat → Option (List Nat × Nat)
  | 0, k, _ => some ([], k)
  | n + 1, k, v =>
    match (cf8Codes t).findIdx? (fun c => decide (c.1 ≤ k ∧ v / 2 ^ (k - c.1) % 2 ^ c.1 = c.2)) with
    | none => none
    | some e =>
      let k' := k - ((cf8Codes t).getD e (4, 0)).1
      (cf8Codes? t n k' v).map (fun p => (e :: p.1, p.2))

/-- Decodes the CF8 block whose bytes `bs` start at its header (R150): its scale and E4M3 codes (none when it is malformed
or runs out of bytes), and the bytes it advances by; `fits` says whether it ends within the bytes. -/
def cf8Decode (bs : List Nat) : Option (Nat × List Nat) × Nat × Bool :=
  let h := bs.getD 0 0
  let l := h % 16
  let n := if l = 0 then 20 else 18 + 2 * l
  let fits := decide (2 ≤ bs.length ∧ n ≤ bs.length)
  if !fits then (none, n, false)
  else if l = 0 ∨ 8 < l ∨ h / 16 % 4 ≠ 0 then (none, n, true)
  else
    let v := (List.range l).foldl (fun v i => v * 65536 + bs.getD (18 + 2 * i) 0 + 256 * bs.getD (19 + 2 * i) 0) 0
    match cf8Codes? (h / 64 % 4) 32 (16 * l) v with
    | none => (none, n, true)
    | some (es, k) =>
      if v % 2 ^ k ≠ 0 then (none, n, true)
      else
        let code := fun (p : Nat × Nat) =>
          let nb := bs.getD (2 + p.2 / 2) 0 / (if p.2 % 2 = 0 then 1 else 16) % 16
          nb / 8 * 128 + p.1 * 8 + nb % 8
        (some (bs.getD 1 0, (es.zip (List.range 32)).map code), n, true)

/-- VRED's FP32 sum of 64 lanes (R155): result and flags. -/
def vredSum (rm : Nat) (lanes : List Nat) : Nat × Nat :=
  let half := fun (p : List Nat × Nat) =>
    (List.range (p.1.length / 2)).foldl (fun (q : List Nat × Nat) i =>
      let r := fpAdd fp32 rm (p.1.getD (2 * i) 0) (p.1.getD (2 * i + 1) 0)
      (q.1 ++ [r.1], q.2 ||| r.2)) ([], p.2)
  let r := loop (fun _ p => half p) 0 6 (lanes, 0)
  (r.1.getD 0 0, r.2)

end Sys2Proof.Machine
end

