-- ==== Sys2Proof/Machine/Float.lean ====
section
/-! DEFINITION. The scalar floating-point instructions (R139, R141, R144, R156, R302, R303, R306 to R308, R310,
R311). -/

namespace Sys2Proof.Machine

/-- Writes a result and raises its flags at write-back (R139). -/
def resultF (d : Nat) (r : Nat × Nat) (s : State) : State := (result d (wd r.1) s).raise r.2

/-- The mould of R302: x and y from g[a] and g[b], rounded with FCSR.RM as of issue. -/
def fp2 (i : Instr) (f : Fmt) (d a b : Nat) (op : Nat → Nat → Nat → Nat × Nat) (s : State) : Res :=
  issue i s (fun s => resultF d (op s.rm ((s.rd a).toNat % (2 * f.sgn)) ((s.rd b).toNat % (2 * f.sgn))) s)

/-- FDIV and FSQRT: the thread waits 24 cycles for the value (R303). -/
def fpLong (i : Instr) (d : Nat) (op : State → Nat × Nat) (s : State) : Res :=
  issue i s (fun s => let r := op s; longAlu d (wd r.1) r.2 24 s)

/-- The operand of a format in g[n]. -/
def State.rdF (s : State) (f : Fmt) (n : Nat) : Nat := (s.rd n).toNat % (2 * f.sgn)

/-- FADD.D (R302). -/
def execFaddD (d a b : Nat) (s : State) : Res := fp2 (.faddD d a b) fp64 d a b (fpAdd fp64) s

/-- FSUB.D (R302). -/
def execFsubD (d a b : Nat) (s : State) : Res := fp2 (.fsubD d a b) fp64 d a b (fpSub fp64) s

/-- FMUL.D (R302). -/
def execFmulD (d a b : Nat) (s : State) : Res := fp2 (.fmulD d a b) fp64 d a b (fpMul fp64) s

/-- FDIV.D (R302, R303). -/
def execFdivD (d a b : Nat) (s : State) : Res :=
  fpLong (.fdivD d a b) d (fun s => fpDiv fp64 s.rm (s.rdF fp64 a) (s.rdF fp64 b)) s

/-- FMIN.D (R302, R141). -/
def execFminD (d a b : Nat) (s : State) : Res := fp2 (.fminD d a b) fp64 d a b (fun _ => fpMinMax fp64 false) s

/-- FMAX.D (R302, R141). -/
def execFmaxD (d a b : Nat) (s : State) : Res := fp2 (.fmaxD d a b) fp64 d a b (fun _ => fpMinMax fp64 true) s

/-- FSQRT.D (R302, R303). -/
def execFsqrtD (d a : Nat) (s : State) : Res :=
  fpLong (.fsqrtD d a) d (fun s => fpSqrt fp64 s.rm (s.rdF fp64 a)) s

/-- FCPS.D (R302, R303): no flag. -/
def execFcpsD (d a b : Nat) (s : State) : Res := fp2 (.fcpsD d a b) fp64 d a b (fun _ x y => (fpCps fp64 x y, 0)) s

/-- FADD.S (R302). -/
def execFaddS (d a b : Nat) (s : State) : Res := fp2 (.faddS d a b) fp32 d a b (fpAdd fp32) s

/-- FSUB.S (R302). -/
def execFsubS (d a b : Nat) (s : State) : Res := fp2 (.fsubS d a b) fp32 d a b (fpSub fp32) s

/-- FMUL.S (R302). -/
def execFmulS (d a b : Nat) (s : State) : Res := fp2 (.fmulS d a b) fp32 d a b (fpMul fp32) s

/-- FDIV.S (R302, R303). -/
def execFdivS (d a b : Nat) (s : State) : Res :=
  fpLong (.fdivS d a b) d (fun s => fpDiv fp32 s.rm (s.rdF fp32 a) (s.rdF fp32 b)) s

/-- FMIN.S (R302, R141). -/
def execFminS (d a b : Nat) (s : State) : Res := fp2 (.fminS d a b) fp32 d a b (fun _ => fpMinMax fp32 false) s

/-- FMAX.S (R302, R141). -/
def execFmaxS (d a b : Nat) (s : State) : Res := fp2 (.fmaxS d a b) fp32 d a b (fun _ => fpMinMax fp32 true) s

/-- FSQRT.S (R302, R303). -/
def execFsqrtS (d a : Nat) (s : State) : Res :=
  fpLong (.fsqrtS d a) d (fun s => fpSqrt fp32 s.rm (s.rdF fp32 a)) s

/-- FCPS.S (R302, R303): no flag. -/
def execFcpsS (d a b : Nat) (s : State) : Res := fp2 (.fcpsS d a b) fp32 d a b (fun _ x y => (fpCps fp32 x y, 0)) s

/-- The mould of R311: g[d] is the addend c and the destination. -/
def fp3 (i : Instr) (f : Fmt) (k d a b : Nat) (s : State) : Res :=
  issue i s (fun s => resultF d (fpFma f k s.rm (s.rdF f a) (s.rdF f b) (s.rdF f d)) s)

/-- FMA.D (R311): x * y + c. -/
def execFmaD (d a b : Nat) (s : State) : Res := fp3 (.fmaD d a b) fp64 0 d a b s

/-- FMS.D (R311): x * y - c. -/
def execFmsD (d a b : Nat) (s : State) : Res := fp3 (.fmsD d a b) fp64 1 d a b s

/-- FNMA.D (R311): c - x * y. -/
def execFnmaD (d a b : Nat) (s : State) : Res := fp3 (.fnmaD d a b) fp64 2 d a b s

/-- FMA.S (R311): x * y + c. -/
def execFmaS (d a b : Nat) (s : State) : Res := fp3 (.fmaS d a b) fp32 0 d a b s

/-- FMS.S (R311): x * y - c. -/
def execFmsS (d a b : Nat) (s : State) : Res := fp3 (.fmsS d a b) fp32 1 d a b s

/-- FNMA.S (R311): c - x * y. -/
def execFnmaS (d a b : Nat) (s : State) : Res := fp3 (.fnmaS d a b) fp32 2 d a b s

/-- FCVT (R144, R308): rounding codes 0 to 4, and 5 for FCSR.RM. -/
def execFcvt (d a b r : Nat) (s : State) : Res :=
  issue (.fcvt d a b r) s (fun s =>
    let x := fcvt b (if r = 5 then s.rm else r) (s.rd a).toNat
    (result d x.1 s).raise x.2)

/-- The mould of R310. -/
def fp1 (i : Instr) (d a : Nat) (op : Nat → Nat → Nat × Nat) (s : State) : Res :=
  issue i s (fun s => resultF d (op s.rm (s.rdF fp32 a)) s)

/-- FRCP (R310). -/
def execFrcp (d a : Nat) (s : State) : Res := fp1 (.frcp d a) d a fpRcp s

/-- FRSQ (R310). -/
def execFrsq (d a : Nat) (s : State) : Res := fp1 (.frsq d a) d a fpRsq s

/-- FEXP2 (R310). -/
def execFexp2 (d a : Nat) (s : State) : Res := fp1 (.fexp2 d a) d a fpExp2 s

/-- FLOG2 (R310). -/
def execFlog2 (d a : Nat) (s : State) : Res := fp1 (.flog2 d a) d a fpLog2 s

/-- FCLASS (R306). -/
def execFclass (d a : Nat) (s : State) : Res := alu2 (.fclass d a) d a (fun x => wd (fpClass (x.toNat % 2 ^ 32))) s

/-- The mould of R307. -/
def fpCompare (i : Instr) (f : Fmt) (k c a b : Nat) (s : State) : Res :=
  issue i s (fun s =>
    let r := fpCmp f c (s.rdF f a) (s.rdF f b)
    (annul k r.1 (advance s)).raise r.2)

/-- FCMP.D (R307). -/
def execFcmpD (k c a b : Nat) (s : State) : Res := fpCompare (.fcmpD k c a b) fp64 k c a b s

/-- FCMP.S (R307). -/
def execFcmpS (k c a b : Nat) (s : State) : Res := fpCompare (.fcmpS k c a b) fp32 k c a b s

end Sys2Proof.Machine
end

