-- ==== Sys2Proof/Machine/LoadStore.lean ====
section
/-! DEFINITION. Scalar memory: LD, ST, LDA, STL, the lists of full/empty words, the atomics, CAS, FAGG and CMO
(R71, R84 to R87, R99 to R102, R276 to R278, R287, R289, R290, R304, R305, R320 to R323, R352, R356, R358). -/

namespace Sys2Proof.Machine

/-- The checks of one access, in the order ALIGN, XLATE, PROT (R71); a translation miss leaves the thread
WAITING (R75). -/
def access (kind : Acc1) (width : Nat) (va : Word) (s : State) (k : Nat → Bool → State → State) : State :=
  if va.toNat % width ≠ 0 then takeTrap { code := cAlign, eval := va } s
  else match s.xlate s.user kind va with
  | .bad c => takeTrap { code := c, eval := va } s
  | .miss => waitFor (.walk va.toNat) 112 s
  | .ok gpa ca => k gpa ca s

/-- A hand-off slot reaches only its own etlet's scratchpad (R40). -/
def ownOnly (gpa : Nat) (va : Word) (s : State) (body : State → State) : State :=
  if s.handoff ∧ inScratch s.eid gpa = false then takeTrap { code := cHandler, eval := va } s else body s

/-- Sends a request, whose reply the thread awaits (R26, R194). One to another etlet's scratchpad goes as an active message, on VC0, to a
firmware-resident handler (R42); one that no READY function carries is answered with an abort (R240). (DEDUCED, log 131) -/
def sendReq (op : MemOp) (gpa : Nat) (va : Word) (scope : Nat) (ca : Bool) (d : Nat) (s : State) : State :=
  if regionOf gpa = 2 ∧ s.vc0Stalls (scratchOwner gpa) then waitFor .stall 112 s
  else
    let q := s.etl.reqSeq
    let r : Req := {
      seq := q, slot := s.slot, tid := s.th.tid, op := op, gpa := gpa, va := va, key := s.kern.key, scope := scope, ca := ca, sent := s.now,
      stamp := s.myDie.stamp, reply := if s.cutOff s.eid gpa then some .abort else none }
    waitFor .mem d (s.modE (fun e => { e with reqs := kput e.reqs s.slot r, reqSeq := (q + 1) % 2 ^ 24 }))

/-- A load after its checks (R99, R109, R79, R81). -/
def doLoad (d width : Nat) (sg : Bool) (gpa : Nat) (va : Word) (scope : Nat) (ca : Bool) (s : State) : State :=
  if s.otherSlotMatch gpa width then waitFor (.sbuf (gpa / 8)) 112 s
  else match s.loadNow gpa width ca with
  | some v => result d (s.seen (extend width sg v)) (s.loadFill gpa width ca)
  | none => sendReq (.load width sg) gpa va scope ca d s

/-- LD (R320, R321). -/
def execLd (d a w sg : Nat) (o : Imm) (s : State) : Res :=
  issue (.ld d a w sg o) s (fun s =>
    let va := s.rd a + o.offM (2 ^ w)
    access .rd (2 ^ w) va s (fun gpa ca s => ownOnly gpa va s (doLoad d (2 ^ w) (decide (sg = 1)) gpa va 0 ca)))

/-- Whether the thread's STL at scope `c` or wider has not taken effect yet (R102). -/
def stlOut (c : Nat) (e : SEntry) : Bool := decide (c ≤ e.scope ∧ 0 < e.scope)

/-- LDA (R102, R322): earlier STLs take effect, the stamp advances at package scope or wider, then it loads. -/
def execLda (d a w sg c : Nat) (o : Imm) (s : State) : Res :=
  issue (.lda d a w sg c o) s (fun s =>
    let va := s.rd a + o.offMS
    access .rd (2 ^ w) va s (fun gpa ca s => ownOnly gpa va s (fun s =>
      afterThose (stlOut c) s (fun s =>
        doLoad d (2 ^ w) (decide (sg = 1)) gpa va c ca (if 4 ≤ c then s.acquire (dieOf s.eid) else s)))))

/-- The earlier stores that one to another etlet's scratchpad, which passes the buffer, waits for: on the die those to homes there, and
everywhere those before a FENCE.SS (R99, R103, R112). -/
def State.ahead (s : State) (gpa : Nat) (e : SEntry) : Bool := (s.onDie gpa && s.onDie e.gpa) || decide (e.ssn < s.th.ssn)

/-- A store after its address checks: RINGHAZ, another etlet's scratchpad by request, else the buffer or hold
queue (R99, R109, R167, R356). -/
def doStore (width : Nat) (data : Word) (gpa : Nat) (va : Word) (scope : Nat) (ca : Bool) (s : State) : State :=
  ownOnly gpa va s (fun s =>
    if inScratch s.eid gpa ∧ s.hazardAt gpa width then takeTrap { code := cRinghaz, eval := va } s
    else if regionOf gpa = 2 ∧ inScratch s.eid gpa = false then afterThose (s.ahead gpa) s (sendReq (.store width data) gpa va scope ca 112)
    else if s.sbufFull 1 then waitFor .sbufFull 112 s
    else advance (pushStore gpa width data va scope ca s))

/-- ST (R356). -/
def execSt (d a w : Nat) (o : Imm) (s : State) : Res :=
  issue (.st d a w o) s (fun s =>
    let va := s.rd a + o.offM (2 ^ w)
    access .wr (2 ^ w) va s (fun gpa ca s => doStore (2 ^ w) (s.rd d) gpa va 0 ca s))

/-- STL (R102, R358): every earlier store takes effect first. -/
def execStl (d a w c : Nat) (o : Imm) (s : State) : Res :=
  issue (.stl d a w c o) s (fun s =>
    let va := s.rd a + o.offMS
    access .wr (2 ^ w) va s (fun gpa ca s => ownOnly gpa va s (fun s =>
      if inScratch s.eid gpa ∧ s.hazardAt gpa (2 ^ w) then takeTrap { code := cRinghaz, eval := va } s
      else afterStores true s (doStore (2 ^ w) (s.rd d) gpa va c ca))))

/-! ### Full/empty (R85 to R87) -/

/-- The etlet and kernel of a thread that stands in a slot or on a bench. -/
def State.teamOf (s : State) (tid : Nat) : Option (Nat × Nat) :=
  match s.whereTid tid with
  | some (e, l) => some (e, ((kget (s.etletAt e).threads l).getD {}).kid)
  | none => (s.allBenched.find? (fun t => decide (t.tid = tid))).bind (fun t =>
      let e := s.targetOf t ((s.benchOf tid).getD 0)
      ((s.etletAt e).kernels.find? (fun k => decide (k.2.launch = t.lk))).map (fun k => (e, k.1)))

/-- A full/empty request acts on word `w` for its thread: a team's scratchpad write is recorded (R134); one at package scope or wider, or an
LDF or LDFE of a word that an engine filled at such a scope, first advances the acquire stamp of the thread's die (R98, R102, R106); no copy
of the line that the die held before is left to be read after it (R100). -/
def feAct (r : FeReq) (w : Nat) (s : State) : State × Word :=
  let s := match s.teamOf r.tid with
    | none => s
    | some (e, k) =>
      let s := if r.op.writes then logWord s e k (w * 8) else s
      let s := if 4 ≤ r.scope ∨ ((r.op = .ldf ∨ r.op = .ldfe) ∧ 4 ≤ s.filledBy (w * 8)) then s.acquire (dieOf e) else s
      s.dropCopies (dieOf e) (w * 8)
  feDo s r.key (w * 8) r.op

/-- Serves a word's wait list from its head while the head's condition holds (R87). (DEDUCED, log 47) -/
def serveFe : Nat → Nat → State → State
  | 0, _, s => s
  | f + 1, w, s =>
    match kgetD s.feq w [] with
    | [] => s
    | r :: rest =>
      if feOk s r.key (w * 8) r.op then
        let (s, v) := feAct r w s
        let s := { s with feq := if rest = [] then kdel s.feq w else kput s.feq w rest }
        serveFe f w (wake r.tid (match r.op with | .ldf => some v | .ldfe => some v | _ => none) s)
      else s

/-! ### Atomics (R276 to R278, R287, R304, R305) -/

/-- An atomic: its checks, the drain and release of earlier stores, then one step at the home (R101, R277). -/
def atomic (width : Nat) (d a : Nat) (op : State → MemOp) (s : State) : State :=
  let va := s.rd a
  access .rw width va s (fun gpa ca s => ownOnly gpa va s (fun s =>
    if s.pending ∧ regionOf gpa ≠ 2 then waitFor .verdict 112 s
    else drained s (fun s =>
      if s.hazardAt gpa width then takeTrap { code := cRinghaz, eval := va } s
      else if inScratch s.eid gpa ∧ s.failing gpa = false then
        match rmwDo (logWord s s.eid s.th.kid gpa) 0 gpa (op s) with
        | (s, .val v) => result d v s
        | (s, _) => s
      else sendReq (op s) gpa va 3 ca d s)))

/-- FAGG (R304, R305): joins the etlet's open group for its word, or opens one. -/
def faggInstr (width d a b : Nat) (s : State) : State :=
  let va := s.rd a
  access .rw width va s (fun gpa _ s => ownOnly gpa va s (fun s =>
    if s.pending ∧ regionOf gpa ≠ 2 then waitFor .verdict 112 s
    else drained s (fun s =>
      if s.hazardAt gpa width then takeTrap { code := cRinghaz, eval := va } s
      else
        let m : FaggMember := { tid := s.th.tid, y := s.rd b, va := va }
        let open_ := fun (g : FaggGroup) => decide (g.gpa = gpa ∧ g.width = width ∧ g.kid = s.th.kid ∧ s.now < g.opened + 8 ∧ g.members.length < 16)
        let s := if s.etl.fagg.any open_ then
            s.modE (fun e => { e with fagg := e.fagg.map (fun g => if open_ g then { g with members := g.members ++ [m] } else g) })
          else s.modE (fun e => { e with fagg := e.fagg ++ [({
            gpa := gpa, width := width, kid := s.th.kid, key := s.kern.key, va := va, opened := s.now, members := [m], lk := s.lkey } : FaggGroup)] })
        waitFor .mem d s)))

/-- AMO.W.ADD (R276, R277). -/
def execAmoWAdd (d a b : Nat) (s : State) : Res :=
  issue (.amoWAdd d a b) s (atomic 4 d a (fun s => .amo 0 4 (s.rd b)))

/-- AMO.W.SWAP (R276, R277). -/
def execAmoWSwap (d a b : Nat) (s : State) : Res :=
  issue (.amoWSwap d a b) s (atomic 4 d a (fun s => .amo 1 4 (s.rd b)))

/-- AMO.W.AND (R276, R277). -/
def execAmoWAnd (d a b : Nat) (s : State) : Res :=
  issue (.amoWAnd d a b) s (atomic 4 d a (fun s => .amo 2 4 (s.rd b)))

/-- AMO.W.OR (R276, R277). -/
def execAmoWOr (d a b : Nat) (s : State) : Res :=
  issue (.amoWOr d a b) s (atomic 4 d a (fun s => .amo 3 4 (s.rd b)))

/-- AMO.W.SMIN (R276, R277). -/
def execAmoWSmin (d a b : Nat) (s : State) : Res :=
  issue (.amoWSmin d a b) s (atomic 4 d a (fun s => .amo 4 4 (s.rd b)))

/-- AMO.W.SMAX (R276, R277). -/
def execAmoWSmax (d a b : Nat) (s : State) : Res :=
  issue (.amoWSmax d a b) s (atomic 4 d a (fun s => .amo 5 4 (s.rd b)))

/-- AMO.W.UMIN (R276, R277). -/
def execAmoWUmin (d a b : Nat) (s : State) : Res :=
  issue (.amoWUmin d a b) s (atomic 4 d a (fun s => .amo 6 4 (s.rd b)))

/-- AMO.W.UMAX (R276, R277). -/
def execAmoWUmax (d a b : Nat) (s : State) : Res :=
  issue (.amoWUmax d a b) s (atomic 4 d a (fun s => .amo 7 4 (s.rd b)))

/-- AMO.D.ADD (R276, R277). -/
def execAmoDAdd (d a b : Nat) (s : State) : Res :=
  issue (.amoDAdd d a b) s (atomic 8 d a (fun s => .amo 0 8 (s.rd b)))

/-- AMO.D.SWAP (R276, R277). -/
def execAmoDSwap (d a b : Nat) (s : State) : Res :=
  issue (.amoDSwap d a b) s (atomic 8 d a (fun s => .amo 1 8 (s.rd b)))

/-- AMO.D.AND (R276, R277). -/
def execAmoDAnd (d a b : Nat) (s : State) : Res :=
  issue (.amoDAnd d a b) s (atomic 8 d a (fun s => .amo 2 8 (s.rd b)))

/-- AMO.D.OR (R276, R277). -/
def execAmoDOr (d a b : Nat) (s : State) : Res :=
  issue (.amoDOr d a b) s (atomic 8 d a (fun s => .amo 3 8 (s.rd b)))

/-- AMO.D.SMIN (R276, R277). -/
def execAmoDSmin (d a b : Nat) (s : State) : Res :=
  issue (.amoDSmin d a b) s (atomic 8 d a (fun s => .amo 4 8 (s.rd b)))

/-- AMO.D.SMAX (R276, R277). -/
def execAmoDSmax (d a b : Nat) (s : State) : Res :=
  issue (.amoDSmax d a b) s (atomic 8 d a (fun s => .amo 5 8 (s.rd b)))

/-- AMO.D.UMIN (R276, R277). -/
def execAmoDUmin (d a b : Nat) (s : State) : Res :=
  issue (.amoDUmin d a b) s (atomic 8 d a (fun s => .amo 6 8 (s.rd b)))

/-- AMO.D.UMAX (R276, R277). -/
def execAmoDUmax (d a b : Nat) (s : State) : Res :=
  issue (.amoDUmax d a b) s (atomic 8 d a (fun s => .amo 7 8 (s.rd b)))

/-- CAS.W (R287): d holds the expected value. -/
def execCasW (d a b : Nat) (s : State) : Res :=
  issue (.casW d a b) s (atomic 4 d a (fun s => .cas 4 (s.rd d) (s.rd b)))

/-- CAS.D (R287): d holds the expected value. -/
def execCasD (d a b : Nat) (s : State) : Res :=
  issue (.casD d a b) s (atomic 8 d a (fun s => .cas 8 (s.rd d) (s.rd b)))

/-- FAGG.W (R304). -/
def execFaggW (d a b : Nat) (s : State) : Res := issue (.faggW d a b) s (faggInstr 4 d a b)

/-- FAGG.D (R304). -/
def execFaggD (d a b : Nat) (s : State) : Res := issue (.faggD d a b) s (faggInstr 8 d a b)

/-! ### CMO (R84, R289, R290) -/

/-- The pages (of 64 KiB) that a byte range meets, by their first address in the range. -/
def rangePages (va : Word) (n : Nat) : List Word :=
  if n = 0 then []
  else (List.range ((va.toNat % 65536 + n - 1) / 65536 + 1)).map (fun i => if i = 0 then va else wd ((va.toNat / 65536 + i) * 65536))

/-- The first page of a range that fails, an XLATE anywhere before a PROT (R290), or none. -/
def rangeFault (kind : Acc1) (va : Word) (n : Nat) (s : State) : Option Cause :=
  let ps := (rangePages va n).filterMap (fun p => match s.xlateNow s.kern s.user kind p with
    | .bad c => some ({ code := c, eval := p } : Cause)
    | _ => none)
  (ps.find? (fun c => decide (c.code = cXlate))).orElse (fun _ => ps.head?)

/-- The physical lines of a range that CMO reaches: those of regions 0 and 1 (R84). -/
def rangeLines (kind : Acc1) (va : Word) (n : Nat) (s : State) : List (Nat × Bool) :=
  if n = 0 then []
  else (List.range ((va.toNat % 64 + n - 1) / 64 + 1)).filterMap (fun i =>
    let a := if i = 0 then va else wd ((va.toNat / 64 + i) * 64)
    match s.xlateNow s.kern s.user kind a with
    | .ok g ca => if regionOf g = 0 ∨ regionOf g = 1 then some (g / 64, ca) else none
    | _ => none)

/-- The walks of a range's translation read their entries at the home L2s (R73, R90). -/
def touchRange (kind : Acc1) (va : Word) (n : Nat) (s : State) : State :=
  (rangePages va n).foldl (fun s p => s.xlateTouch s.kern s.user kind p) s

/-- Whether one of those walks waits for a test of a home that it reads (R349). -/
def rangeWait (kind : Acc1) (va : Word) (n : Nat) (s : State) : Bool := (rangePages va n).any (s.walkBusy s.kern s.user kind)

/-- Invalidates lines at a level's reach (R84). -/
def invalLines (level : Nat) (ls : List (Nat × Bool)) (s : State) : State :=
  ls.foldl (fun s l =>
    let s := s.modE (fun e => { e with l1 := e.l1.filter (fun c => decide (c.line ≠ l.1)) })
    let s := if 1 ≤ level then s.modDie (dieOf s.eid) (fun d => { d with rdc := d.rdc.filter (fun c => decide (c.line ≠ l.1)) }) else s
    if 2 ≤ level then s.modCl (homeCluster (l.1 * 64)) (fun c => { c with l2 := c.l2.filter (fun x => decide (x.1 ≠ l.1)) }) else s) s

/-- Whether a buffered store lies in a range of lines. -/
def SEntry.inLines (ls : List (Nat × Bool)) (e : SEntry) : Bool := ls.any (fun l => decide (l.1 = e.gpa / 64))

/-- The checks of a CMO other than PREF, then its effect: CLEAN, INVAL and CLINV are full fences (R289, R290), and what `p` names beside is
acknowledged first (R84). -/
def cmoInstr (level : Nat) (kind : Acc1) (a b : Nat) (p : List (Nat × Bool) → SEntry → Bool) (f : List (Nat × Bool) → State → State)
    (s : State) : State :=
  let va := s.rd a
  let n := (s.rd b).toNat
  if 2 ^ 32 < n then takeTrap (illegalReg b) s
  else if !s.handoff && rangeWait kind va n s then waitFor .reach 112 s
  else
  let s := touchRange kind va n s
  match rangeFault kind va n s with
  | some c => if s.handoff then takeTrap { code := cHandler, eval := va } s else takeTrap c s
  | none =>
    if s.handoff ∧ n ≠ 0 then takeTrap { code := cHandler, eval := va } s
    else if n = 0 then advance s
    else
      let ls := rangeLines kind va n s
      if kind = .wr then f ls s
      else afterThose (p ls) s (fun s => fullFence (if level = 2 then 6 else 3) s (fun s => advance (f ls s)))

/-- CMO CLEAN (R84): earlier stores to the range are acknowledged at their homes. -/
def execCmoClean (d a b : Nat) (s : State) : Res :=
  issue (.cmoClean d a b) s (cmoInstr d .rd a b (fun ls e => e.inLines ls) (fun _ s => s))

/-- CMO INVAL (R84). -/
def execCmoInval (d a b : Nat) (s : State) : Res :=
  issue (.cmoInval d a b) s (cmoInstr d .rd a b (fun _ _ => false) (invalLines d))

/-- CMO CLINV (R84): CLEAN, then INVAL. -/
def execCmoClinv (d a b : Nat) (s : State) : Res :=
  issue (.cmoClinv d a b) s (cmoInstr d .rd a b (fun ls e => e.inLines ls) (invalLines d))

/-- Fills one CACHED line as a prefetch does: L1, or the RDC for a line homed elsewhere (R84), with the die's own stores under way (R100). -/
def prefetch (e key : Nat) (l : Nat × Bool) (s : State) : State :=
  if s.abortsR (l.1 * 64) then s
  else
    let s := s.l2Touch key (l.1 * 64)
    if l.2 then
      if homeDie (l.1 * 64) = dieOf e then s.fill e key (l.1 * 64) (kgetD s.dies (dieOf e) {}).stamp
      else s.modDie (dieOf e) (fun d => { d with rdc := cacheAdd s.free 1048576 ⟨l.1, key, d.stamp, false, s.fillData (dieOf e) key l.1⟩ d.rdc })
    else s

/-- CMO PREF (R84, R290): fills the lines, once no home of them is under test (R349), and raises nothing; a count above 2^32 fills none.
(DEDUCED, log 132) It fills the RDC at level 0 too. (DESIGN CHOICE, log 152) -/
def execCmoPref (d a b : Nat) (s : State) : Res :=
  issue (.cmoPref d a b) s (fun s =>
    let n := (s.rd b).toNat
    if 2 ^ 32 < n then advance s
    else if s.handoff ∧ n ≠ 0 then takeTrap { code := cHandler, eval := s.rd a } s
    else if rangeWait .rd (s.rd a) n s || (rangeLines .rd (s.rd a) n s).any (fun l => s.homeTested (l.1 * 64)) then waitFor .reach 112 s
    else
      let s := touchRange .rd (s.rd a) n s
      advance ((rangeLines .rd (s.rd a) n s).foldl (fun s l => prefetch s.eid s.kern.key l s) s))

/-- The whole lines of a range with the address of each (R84). -/
def wholeLines (va : Word) (n : Nat) (s : State) : List (Nat × Bool × Word) :=
  let o := (64 - va.toNat % 64) % 64
  if n < o then []
  else (List.range ((n - o) / 64)).filterMap (fun i =>
    let a := va + wd (o + 64 * i)
    match s.xlateNow s.kern s.user .wr a with
    | .ok g ca => if regionOf g = 0 ∨ regionOf g = 1 then some (g, ca, a) else none
    | _ => none)

/-- One line zeroed through the store buffer, word by word (R290). -/
def zeroLine (l : Nat × Bool × Word) (s : State) : State :=
  loop (fun i s => pushStore (l.1 + 8 * i) 8 0 (l.2.2 + wd (8 * i)) 0 l.2.1 s) 0 8 s

/-- CMO ZERO (R84, R290): one ordinary 8-byte store per word of each whole line of the range. One of more stores than the buffer has room
for first waits until the buffer is empty, and its last stores stand in line for it. (DEDUCED, log 41) -/
def execCmoZero (d a b : Nat) (s : State) : Res :=
  issue (.cmoZero d a b) s (cmoInstr d .wr a b (fun _ _ => false) (fun _ s =>
    let ls := wholeLines (s.rd a) (s.rd b).toNat s
    if ls = [] then advance s
    else if s.sbufFull (min 32 (8 * ls.length)) then waitFor .sbufFull 112 s
    else advance (ls.foldl (fun s l => zeroLine l s) s)))

end Sys2Proof.Machine
end

