-- ==== Sys2Proof/Machine/Quant.lean ====
section
/-! DEFINITION. The block instructions on the own scratchpad: QNT, DQNT, BADDQ, SCALEQ (R279 to R281, R298, R299,
R341 to R343). -/

namespace Sys2Proof.Machine

/-- The physical address of `n` bytes at `va` that lie wholly in the issuing etlet's own scratchpad (R172, R342). -/
def State.ownAddr (s : State) (va : Word) (n : Nat) : Option Nat :=
  if inWindow va ∧ s.windowEtlet va = some s.eid ∧ bits va 17 0 + n ≤ 0x30000 then some (scratch s.eid + bits va 17 0) else none

/-- The first failing own-scratchpad range: PROT. -/
def ownFault (s : State) (rs : List (Word × Nat)) : Option Cause :=
  (rs.find? (fun r => (s.ownAddr r.1 r.2).isNone)).map (fun r => { code := cProt, eval := r.1 })

/-- A canonical check over addresses: XLATE. -/
def canonFault (vs : List Word) : Option Cause := (vs.find? (fun v => !canonical v)).map (fun v => { code := cXlate, eval := v })

/-- An alignment check over addresses: ALIGN. -/
def alignFault (n : Nat) (vs : List Word) : Option Cause :=
  (vs.find? (fun v => decide (v.toNat % n ≠ 0))).map (fun v => { code := cAlign, eval := v })

/-- A destination byte in an occupied ring slot: RINGHAZ, with the lowest such address (R167). -/
def ringFault (s : State) (va : Word) (n : Nat) : Option Cause :=
  (s.etl.hazard (bits va 17 0) n).map (fun o => { code := cRinghaz, eval := wd (va.toNat / 2 ^ 18 * 2 ^ 18 + o) })

/-- The first of a list of checks that fails. -/
def firstFault (cs : List (Option Cause)) : Option Cause := cs.findSome? id

/-- Runs `body` after its checks: the first that fails traps. -/
def checked (cs : List (Option Cause)) (s : State) (body : State → State) : State :=
  match firstFault cs with
  | some c => takeTrap c s
  | none => body s

/-- Bytes of the own scratchpad from `a`. -/
def State.scr (s : State) (a width : Nat) : Nat := s.rdMem 0 a width

/-- Bytes written to memory from `a`, under key 0. -/
def putBytes : Nat → List Nat → State → State
  | _, [], s => s
  | a, b :: bs, s => putBytes (a + 1) bs (s.wrMem 0 a 1 b)

/-- Writes scratchpad bytes of kernel `kid` of the etlet in focus, each word logged first (R134). -/
def scrWrite (kid a : Nat) (bs : List Nat) (s : State) : State :=
  let words := if bs = [] then 0 else (a % 8 + bs.length + 7) / 8
  putBytes a bs (loop (fun i s => logWord s s.eid kid (a / 8 * 8 + 8 * i)) 0 words s)

/-- A number's low `n` bytes, little-endian. -/
def leBytes : Nat → Nat → List Nat
  | 0, _ => []
  | n + 1, v => v % 256 :: leBytes n (v / 256)

/-- The element codes of 32 elements as bytes (R145). -/
def elemBytes (fmt : Nat) (es : List Nat) : List Nat :=
  if fmt = 2 then (List.range 16).map (fun k => es.getD (2 * k) 0 + 16 * es.getD (2 * k + 1) 0) else es

/-- The 32 values of a packed block at `a` (R145, R279). -/
def State.block (s : State) (fmt a : Nat) : Nat × List Val :=
  let sc := s.scr a 1
  (sc, (List.range 32).map (fun i => mxVal (mxFmt fmt) sc
    (if fmt = 2 then s.scr (a + 8 + i / 2) 1 / (if i % 2 = 0 then 1 else 16) % 16 else s.scr (a + 8 + i) 1)))

/-- A packed block's bytes (Table 19.5). -/
def packBlock (fmt scale : Nat) (es : List Nat) : List Nat := leBytes 8 scale ++ elemBytes fmt es

/-- Bytes of a packed block (R279). -/
def blockSize (fmt : Nat) : Nat := if fmt = 2 then 24 else 40

/-- 32 FP32 values at `a`. -/
def State.values (s : State) (a : Nat) : List Val := (List.range 32).map (fun i => Val.of fp32 (s.scr (a + 4 * i) 4))

/-- The block count of a control word. -/
def ctlN (c : Word) : Nat := bits c 15 8 + 1

/-- Whether the zero fields of the control word hold (Tables 20.2, 22.1); `hi` is the highest bit of FMT. -/
def ctlZero (c : Word) (hi : Nat) : Bool := decide (bits c 63 16 = 0 ∧ bits c 7 (hi + 1) = 0)

/-- Goes on once the thread's own stores have left the buffer, those before a FENCE.SS have taken effect, and no other slot's entry matches what
is read: the words are read and written as ordinary loads and stores (R99, R103, R281, R299, R342), after the access of a VLD or VST in the same
pair (R104, R298). (DEDUCED, log 41) -/
def afterBuffer (rs : List (Nat × Nat)) (s : State) (body : State → State) : State :=
  if s.ph = 2 ∧ s.vmemPending then waitFor .vrwait 112 s
  else if s.etl.buf.any (fun e => decide (e.tid = s.th.tid)) || rs.any (fun r => s.otherSlotMatch r.1 r.2) then waitFor (.sbuf 0) 112 s
  else afterThose (fun e => decide (e.ssn < s.th.ssn)) s body

/-- What a block instruction accumulates: count or offset, flags, state. -/
structure Blk where
  n : Nat := 0
  fl : Nat := 0
  s : State

/-- Finishes a block instruction: it waits `cycles` for its count and flags. -/
def blkDone (d cycles : Nat) (b : Blk) : State := longAlu d (wd b.n) b.fl cycles b.s

/-- QNT's block `k` (R341). -/
def qntBlock (fmt src dst k : Nat) (b : Blk) : Blk :=
  let q := quantise (mxFmt (if fmt = 3 then 0 else fmt)) (b.s.values (src + 128 * k))
  if fmt = 3 then
    let bs := cf8Block q.1 q.2.1
    { n := b.n + bs.length, fl := b.fl ||| q.2.2, s := scrWrite b.s.th.kid (dst + b.n) bs b.s }
  else
    { n := b.n + (if q.1 = 0xFF then 1 else 0), fl := b.fl ||| q.2.2,
      s := scrWrite b.s.th.kid (dst + k * blockSize fmt) (packBlock fmt q.1 q.2.1) b.s }

/-- QNT (R341, R342). -/
def execQnt (d a b : Nat) (s : State) : Res :=
  issue (.qnt d a b) s (fun s =>
    let src := s.rd a
    let dst := s.rd (a + 1)
    let c := s.rd b
    let n := ctlN c
    let fmt := bits c 2 0
    let out := n * (if fmt = 3 then 34 else blockSize fmt)
    checked [canonFault [src, dst], alignFault 8 [src, dst],
        (if 4 ≤ fmt ∨ !ctlZero c 2 then some (illegalReg b) else none),
        ownFault s [(src, 128 * n), (dst, out)], ringFault s dst out] s (fun s =>
      let o := fun (v : Word) => scratch s.eid + bits v 17 0
      afterBuffer [(o src, 128 * n)] s (fun s => blkDone d (8 + (if fmt = 3 then 6 else 4) * n) (loop (qntBlock fmt (o src) (o dst)) 0 n { s := s }))))

/-- DQNT's block `k` (R298). -/
def dqntBlock (fmt src dst k : Nat) (b : Blk) : Blk :=
  let (sc, vs) := b.s.block fmt (src + k * blockSize fmt)
  let rs := vs.map (fun v => fp32.put 0 false v)
  { n := b.n + (if sc = 0xFF then 1 else 0), fl := rs.foldl (fun f r => f ||| r.2) b.fl,
    s := scrWrite b.s.th.kid (dst + 128 * k) (rs.flatMap (fun r => leBytes 4 r.1)) b.s }

/-- DQNT (R298, R299). -/
def execDqnt (d a b : Nat) (s : State) : Res :=
  issue (.dqnt d a b) s (fun s =>
    let src := s.rd a
    let dst := s.rd (a + 1)
    let c := s.rd b
    let n := ctlN c
    let fmt := bits c 1 0
    checked [canonFault [src, dst], alignFault 8 [src, dst],
        (if fmt = 3 ∨ !ctlZero c 1 then some (illegalReg b) else none),
        ownFault s [(src, n * blockSize fmt), (dst, 128 * n)], ringFault s dst (128 * n)] s (fun s =>
      let o := fun (v : Word) => scratch s.eid + bits v 17 0
      afterBuffer [(o src, n * blockSize fmt)] s (fun s => blkDone d (8 + 4 * n) (loop (dqntBlock fmt (o src) (o dst)) 0 n { s := s }))))

/-- BADDQ's block `k` (R154, R280). -/
def baddqBlock (fmt x y dst k : Nat) (b : Blk) : Blk :=
  let xs := (b.s.block fmt (x + k * blockSize fmt)).2
  let ys := (b.s.block fmt (y + k * blockSize fmt)).2
  let rs := (xs.zip ys).map (fun p => fp32.out 0 (Val.add 0 p.1 p.2))
  let q := quantise (mxFmt fmt) (rs.map (fun r => Val.of fp32 r.1))
  { n := b.n + (if q.1 = 0xFF then 1 else 0), fl := rs.foldl (fun f r => f ||| r.2) (b.fl ||| q.2.2),
    s := scrWrite b.s.th.kid (dst + k * blockSize fmt) (packBlock fmt q.1 q.2.1) b.s }

/-- BADDQ (R280, R281). -/
def execBaddq (d a b : Nat) (s : State) : Res :=
  issue (.baddq d a b) s (fun s =>
    let x := s.rd a
    let y := s.rd (a + 1)
    let dst := s.rd (a + 2)
    let c := s.rd b
    let n := ctlN c
    let fmt := bits c 1 0
    let sz := n * blockSize fmt
    checked [canonFault [x, y, dst], alignFault 8 [x, y, dst],
        (if fmt = 3 ∨ !ctlZero c 1 then some (illegalReg b) else none),
        ownFault s [(x, sz), (y, sz), (dst, sz)], ringFault s dst sz] s (fun s =>
      let o := fun (v : Word) => scratch s.eid + bits v 17 0
      afterBuffer [(o x, sz), (o y, sz)] s (fun s => blkDone d (8 + 4 * n) (loop (baddqBlock fmt (o x) (o y) (o dst)) 0 n { s := s }))))

/-- SCALEQ (R343): the scale code that R146 chooses; 12 cycles. -/
def execScaleq (d a b : Nat) (s : State) : Res :=
  issue (.scaleq d a b) s (fun s =>
    let src := s.rd a
    let c := s.rd b
    checked [canonFault [src], alignFault 8 [src],
        (if bits c 1 0 = 3 ∨ bits c 63 2 ≠ 0 then some (illegalReg b) else none),
        ownFault s [(src, 128)]] s (fun s =>
      let g := scratch s.eid + bits src 17 0
      afterBuffer [(g, 128)] s (fun s =>
        let q := quantise (mxFmt (bits c 1 0)) (s.values g)
        longAlu d (wd q.1) (q.2.2 &&& fNV) 12 s)))

end Sys2Proof.Machine
end

