-- ==== Sys2Proof/Machine/Perm.lean ====
section
/-! DEFINITION. The permutation instructions and the route solver (R185 to R189, R338). The settings of the Beneš network
are not readable and follow from the permutation, which is what a register holds here. -/

namespace Sys2Proof.Machine

/-- A fixed-latency write of a permutation register of kernel `kid` of the etlet in focus (R185, R188). -/
def setPerm (kid d : Nat) (p : Perm) (s : State) : State :=
  if (kget s.etl.kernels kid).isNone then s
  else s.modE (fun e => { e with kernels := kmod e.kernels kid {} (fun k => { k with pm := kput k.pm d p, pmAt := kput k.pmAt d s.now }) })

/-- ILLEGAL, check 6 (R157): an empty or unfit permutation register. -/
def permFault (n : Nat) : Cause := illegalReg (1280 + n)

/-- A request to the etlet's route solver: the bundle is left, and the thread waits until its register is written (R188). -/
def solve (d : Nat) (p : Perm) (s : State) : State :=
  (advance s).modT (fun t => { t with st := .waiting .solver }) |>.modE (fun e => { e with solver := e.solver ++ [{ tid := s.th.tid, kid := s.th.kid, d := d, perm := p, lk := s.lkey }] })

/-- The bytes of a PLOAD have come with a reply: its request to the solver, which its thread goes on to wait for (R188). -/
def solveLate (d : Nat) (p : Perm) (s : State) : State :=
  (s.modT (fun t => { (if t.deferred.isSome then t else endTest t) with st := .waiting .solver })).modE (fun e => { e with
    solver := e.solver ++ [{ tid := s.th.tid, kid := s.th.kid, d := d, perm := p, lk := s.lkey }] })

/-- The solver's write of a permutation register; a fixed-latency write of the same cycle is the one kept (R188). -/
def solverWrite (kid d : Nat) (p : Perm) (s : State) : State :=
  if kget (kgetD s.etl.kernels kid {}).pmAt d = some s.now ∨ (kget s.etl.kernels kid).isNone then s
  else s.modE (fun e => { e with kernels := kmod e.kernels kid {} (fun k => { k with pm := kput k.pm d p }) })

/-- The solver has done its oldest request: the request, and those that are left; one whose bundle still awaits a reply stays, solved
(R54, R188). -/
def solverDone : List Solve → Option (Solve × List Solve)
  | [] => none
  | q :: rest =>
    if q.fin then (solverDone rest).map (fun r => (r.1, q :: r.2))
    else some (q, if q.held then { q with fin := true } :: rest else rest)

/-- SOLVER_COMPLETE (R188): the oldest request's register is written and its thread is READY. -/
def execSolverComplete (e : Nat) (s : State) : Res :=
  atE e s (fun s =>
    match solverDone s.etl.solver with
    | none => s
    | some (q, rest) =>
      let s := s.modE (fun e => { e with solver := rest })
      if q.held then s
      else
        readyWhere (fun w => decide (w = .bench)) (modTid q.tid (fun t =>
          if t.st = .waiting .solver then { t with st := .ready, wokenAt := some s.now } else t) (solverWrite q.kid q.d q.perm s)))

/-- The reply that the bundle of the thread in focus awaited has come: its request to the solver stands, or its register is
written (R188). -/
def joinSolver (q : Solve) (s : State) : State :=
  if q.fin then solverWrite q.kid q.d q.perm (s.modE (fun e => { e with solver := e.solver.filter (fun x => decide (x ≠ q)) }))
  else (s.modE (fun e => { e with solver := e.solver.map (fun x => if x = q then { q with held := false } else x) })).modT
    (fun t => { t with st := .waiting .solver })

/-- The translation of each of `n` bytes from `va`: a fault at the lowest failing address, a miss, or the physical
addresses with their CACHED attributes. (DEDUCED, log 37) -/
def bytesXlate (s : State) (kind : Acc1) (va : Word) : Nat → Nat → Cause ⊕ (Nat ⊕ List (Nat × Bool))
  | _, 0 => .inr (.inr [])
  | i, n + 1 =>
    match s.xlate s.user kind (va + wd i) with
    | .bad c => .inl { code := c, eval := va + wd i }
    | .miss => .inr (.inl (va + wd i).toNat)
    | .ok g ca =>
      match bytesXlate s kind va (i + 1) n with
      | .inr (.inr l) => .inr (.inr ((g, ca) :: l))
      | x => x

/-- A value read at once from where a load would take it, filling the caches as its reply would (R79 to R81). -/
def readVia (gpa width : Nat) (ca : Bool) (s : State) : Nat × State :=
  match s.loadNow gpa width ca with
  | some v => (v, s.loadFill gpa width ca)
  | none =>
    let v := s.overlay gpa width (s.homeRead s.kern.key gpa width)
    let s := s.l2Touch s.kern.key gpa
    (v, if ca then s.fill s.eid s.kern.key gpa s.myDie.stamp else s)

/-- Whether a read at an address must wait for a store of the etlet that is still in the buffer or under way (R99). -/
def State.readWaits (s : State) (gpa width : Nat) : Bool := s.otherSlotMatch gpa width || s.etl.posted.any (fun x => x.meets gpa width)

/-- The first position whose index is out of range or a repeat (R187). -/
def permBad (n : Nat) (bs : List Nat) : Option Nat :=
  lowest (fun i => decide (n ≤ bs.getD i 0) || (bs.take i).contains (bs.getD i 0)) 0 bs.length

/-- PLOAD has its bytes: the solver fills the register, or PERM (R187). -/
def permLoaded (bs : List Nat) (s : State) (fill : State → State) : State :=
  match permBad bs.length bs with
  | some i => takeTrap { code := cPerm, eval := wd i } s
  | none => fill s

/-- PLOAD (R187, R338): an ordinary load of n bytes, answered at once or by request, then the solver fills the register. (DEDUCED, log 64) -/
def execPload (d a k : Nat) (s : State) : Res :=
  issue (.pload d a k) s (fun s =>
    let va := s.rd a
    match bytesXlate s .rd va 0 (2 ^ k) with
    | .inl c => takeTrap c s
    | .inr (.inl m) => waitFor (.walk m) 112 s
    | .inr (.inr gs) =>
      if gs.any (fun g => s.otherSlotMatch g.1 1) then waitFor (.sbuf 0) 112 s
      else if gs.all (fun g => (s.loadNow g.1 1 g.2).isSome) then
        let bs := gs.map (fun g => (s.loadNow g.1 1 g.2).getD 0)
        let s := gs.foldl (fun s g => s.loadFill g.1 1 g.2) s
        permLoaded bs s (solve d bs)
      else sendReq (.read d (gs.map (·.1))) ((gs.map (·.1)).headD 0) va 0 (gs.all (·.2)) 112 s)

/-- Bytes pushed to the store buffer one by one, in order. -/
def pushBytes : List (Nat × Bool) → List Nat → Word → State → State
  | (g, ca) :: gs, b :: bs, va, s =>
    pushBytes gs bs (va + 1) (pushStore g 1 (wd b) va 0 ca s)
  | _, _, _, s => s

/-- PSTORE (R187, R338): one byte store per index, through the buffer or as a request to another etlet's scratchpad (R42, R99). One of more
stores than the buffer has room for first waits until it is empty, and its last stores stand in line for it. (DEDUCED, log 41) -/
def execPstore (d a : Nat) (s : State) : Res :=
  issue (.pstore d a) s (fun s =>
    let va := s.rd a
    let p := s.perm d
    if p = [] then takeTrap (permFault d) s
    else match bytesXlate s .wr va 0 p.length with
    | .inl c => takeTrap c s
    | .inr (.inl m) => waitFor (.walk m) 112 s
    | .inr (.inr gs) =>
      match gs.findIdx? (fun g => s.hazardAt g.1 1) with
      | some i => takeTrap { code := cRinghaz, eval := va + wd i } s
      | none =>
        match gs with
        | (g, ca) :: _ =>
          if regionOf g = 2 ∧ inScratch s.eid g = false then afterThose (s.ahead g) s (sendReq (.bytes p) g va 0 ca 112)
          else if s.sbufFull (min 32 p.length) then waitFor .sbufFull 112 s
          else advance (pushBytes gs p va s)
        | [] => advance s)

/-- PCOMP (R188): d[i] = a[b[i]]. -/
def execPcomp (d a b : Nat) (s : State) : Res :=
  issue (.pcomp d a b) s (fun s =>
    let p := s.perm a
    let q := s.perm b
    if p = [] then takeTrap (permFault a) s
    else if q = [] ∨ q.length ≠ p.length then takeTrap (permFault b) s
    else solve d (q.map (fun i => p.getD i 0)) s)

/-- PINV (R188): d[a[i]] = i. -/
def execPinv (d a : Nat) (s : State) : Res :=
  issue (.pinv d a) s (fun s =>
    let p := s.perm a
    if p = [] then takeTrap (permFault a) s
    else solve d ((List.range p.length).map (fun j => (p.findIdx? (fun x => decide (x = j))).getD 0)) s)

/-- One pass of PRAND's loop at index `i` (R188): x and the permutation so far. -/
def prandPass (i : Nat) (r : Word × Perm) : Word × Perm :=
  let x := r.1 ^^^ (r.1 <<< 13)
  let x := x ^^^ (x >>> 7)
  let x := x ^^^ (x <<< 17)
  let j := x.toNat * (i + 1) / 2 ^ 64
  (x, (r.2.set i (r.2.getD j 0)).set j (r.2.getD i 0))

/-- PRAND (R188). -/
def execPrand (d a k : Nat) (s : State) : Res :=
  issue (.prand d a k) s (fun s =>
    let n := 2 ^ k
    solve d (loop (fun t r => prandPass (n - t) r) 1 (n - 1) (s.rd a, List.range n)).2 s)

/-- PIDN (R188): the identity of size 2^k. -/
def execPidn (d k : Nat) (s : State) : Res :=
  issue (.pidn d k) s (fun s => advance (setPerm s.th.kid d (List.range (2 ^ k)) s))

/-- PMOV (R188): a copy; an empty source makes d empty. -/
def execPmov (d a : Nat) (s : State) : Res :=
  issue (.pmov d a) s (fun s => advance (setPerm s.th.kid d (s.perm a) s))

/-- The length of the cycle of `i`, from `j`, within `f` steps. -/
def cycleLen (p : Perm) (i : Nat) : Nat → Nat → Nat
  | 0, _ => 0
  | f + 1, j => if p.getD j 0 = i then 1 else 1 + cycleLen p i f (p.getD j 0)

/-- The cycle length of each index. -/
def cycleLens (p : Perm) : List Nat := (List.range p.length).map (fun i => cycleLen p i p.length i)

/-- Whether `i` is the lowest index of its cycle, from `j`, within `f` steps. -/
def cycleHead (p : Perm) (i : Nat) : Nat → Nat → Bool
  | 0, _ => true
  | f + 1, j => if p.getD j 0 = i then true else decide (i < p.getD j 0) && cycleHead p i f (p.getD j 0)

/-- The number of cycles, fixed points included. -/
def cycleCount (p : Perm) : Nat := ((List.range p.length).filter (fun i => cycleHead p i p.length i)).length

/-- PCYC's answer (R188); `g` is the old g[d]. -/
def pcyc (q : Nat) (p : Perm) (g : Word) : Word :=
  match q with
  | 0 => wd (cycleCount p)
  | 1 => if g.toNat < p.length then wd (cycleLen p g.toNat p.length g.toNat) else 0
  | 2 => wd (min (2 ^ 63) ((cycleLens p).foldl Nat.lcm 1))
  | 3 => wd ((List.range p.length).filter (fun i => decide (p.getD i 0 = i))).length
  | _ => wd ((p.length - cycleCount p) % 2)

/-- PCYC (R188). -/
def execPcyc (d a b : Nat) (s : State) : Res :=
  issue (.pcyc d a b) s (fun s =>
    let p := s.perm a
    if p = [] then takeTrap (permFault a) s else result d (pcyc b p (s.rd d)) s)

end Sys2Proof.Machine
end

