-- ==== Sys2Proof/Machine/Vector.lean ====
section
/-! DEFINITION. The vector instructions, the vector sequencer and the repetition buffer (R104, R155, R173, R174, R370 to
R382). -/

namespace Sys2Proof

open Sys2Proof.Machine

/-- A vector instruction with its vector register fields renumbered (R174, R380). -/
def Instr.mapV (f : Nat → Nat) : Instr → Instr
  | .vld d a o => .vld (f d) a o
  | .vldStr d a o => .vldStr (f d) a o
  | .vldBc d a o => .vldBc (f d) a o
  | .vst d a o => .vst (f d) a o
  | .vstStr d a o => .vstStr (f d) a o
  | .vfadd d a b => .vfadd (f d) (f a) (f b)
  | .vfsub d a b => .vfsub (f d) (f a) (f b)
  | .vfmul d a b => .vfmul (f d) (f a) (f b)
  | .vfma d a b c => .vfma (f d) (f a) (f b) (f c)
  | .vfmin d a b => .vfmin (f d) (f a) (f b)
  | .vfmax d a b => .vfmax (f d) (f a) (f b)
  | .vfrcp d a => .vfrcp (f d) (f a)
  | .vfexp2 d a => .vfexp2 (f d) (f a)
  | .vadd d a b => .vadd (f d) (f a) (f b)
  | .vsub d a b => .vsub (f d) (f a) (f b)
  | .vmul d a b => .vmul (f d) (f a) (f b)
  | .vmin d a b => .vmin (f d) (f a) (f b)
  | .vmax d a b => .vmax (f d) (f a) (f b)
  | .vminu d a b => .vminu (f d) (f a) (f b)
  | .vmaxu d a b => .vmaxu (f d) (f a) (f b)
  | .vand d a b => .vand (f d) (f a) (f b)
  | .vor d a b => .vor (f d) (f a) (f b)
  | .vxor d a b => .vxor (f d) (f a) (f b)
  | .vsll d a b => .vsll (f d) (f a) (f b)
  | .vsrl d a b => .vsrl (f d) (f a) (f b)
  | .vsra d a b => .vsra (f d) (f a) (f b)
  | .vred d a c => .vred (f d) (f a) c
  | .vperm d a p => .vperm (f d) (f a) p
  | .vsel d a b c => .vsel (f d) (f a) (f b) (f c)
  | .vcmp d a b c => .vcmp (f d) (f a) (f b) c
  | .vcvt d a c => .vcvt (f d) (f a) c
  | .vbcast d r => .vbcast (f d) r
  | .vext d a n => .vext d (f a) n
  | i => i

/-- The general registers an instruction names; of a run whose length a register gives, all that it can name. -/
def Instr.gregs (i : Instr) : List Nat :=
  i.fields.flatMap (fun f => match f with
    | .src n => [n]
    | .dst n => [n]
    | .both n => [n]
    | .run a n => (List.range (n + 1)).map (a + ·)
    | .head a => (List.range 16).map (a + ·)
    | _ => [])

/-- The vector register a vector instruction writes. -/
def Instr.vdest : Instr → Option Nat
  | .vst _ _ _ => none
  | .vstStr _ _ _ => none
  | .vext _ _ _ => none
  | i => i.vregs.head?

/-- The general register that a VEXT writes. -/
def Instr.gdest : Instr → Option Nat
  | .vext d _ _ => some d
  | _ => none

end Sys2Proof

namespace Sys2Proof.Machine

/-! ### Lanes -/

/-- Lane `i`. -/
def lane (v : Vec) (i : Nat) : Nat := v.toNat / 2 ^ (32 * i) % 2 ^ 32

/-- The 64 lanes. -/
def lanes (v : Vec) : List Nat := (List.range 64).map (lane v)

/-- A vector of lanes. -/
def mkVec : List Nat → Nat
  | [] => 0
  | x :: xs => x % 2 ^ 32 + 2 ^ 32 * mkVec xs

/-- Lane by lane, with the lanes' flags together. -/
def lanes1 (f : Nat → Nat × Nat) (x : List Nat) : List Nat × Nat :=
  let r := x.map f
  (r.map (·.1), r.foldl (fun a p => a ||| p.2) 0)

/-- Lane by lane on two sources. -/
def lanes2 (f : Nat → Nat → Nat × Nat) (x y : List Nat) : List Nat × Nat := lanes1 (fun p => f p.1 p.2) (x.zip y) where
  lanes1 (f : Nat × Nat → Nat × Nat) (l : List (Nat × Nat)) : List Nat × Nat :=
    let r := l.map f
    (r.map (·.1), r.foldl (fun a p => a ||| p.2) 0)

/-- An integer lane operation (R372). -/
def lanesI (f : BitVec 32 → BitVec 32 → BitVec 32) (x y : List Nat) : List Nat × Nat :=
  lanes2 (fun a b => ((f (BitVec.ofNat 32 a) (BitVec.ofNat 32 b)).toNat, 0)) x y

/-- A VCMP condition (Table 23.2). -/
def vcmp (c x y : Nat) : Bool × Nat :=
  if c < 8 then (condition c (if c = 4 ∨ c = 5 then wd x else sext x 32) (if c = 4 ∨ c = 5 then wd y else sext y 32), 0)
  else fpCmp fp32 (c - 8) x y

/-- A VCVT code (Table 23.3). -/
def vcvt (c rm x : Nat) : Nat × Nat :=
  match c with
  | 0 => cvtIF fp32 true 32 rm x
  | 1 => cvtFI fp32 true 32 rm x
  | 2 => cvtIF fp32 false 32 rm x
  | 3 => cvtFI fp32 false 32 rm x
  | 4 => cvtFF bf16 fp32 rm (x % 2 ^ 16)
  | 5 => cvtFF fp32 bf16 rm x
  | 6 => cvtFF fp16 fp32 rm (x % 2 ^ 16)
  | _ => cvtFF fp32 fp16 rm x

/-- What an arithmetic vector instruction gives (R372 to R376, R379, R381, R382): lanes and flags. `v` reads a vector
register, `sc` holds its scalar operands, `p` its permutation. -/
def vcompute (i : Instr) (rm : Nat) (sc : List Word) (p : Perm) (v : Nat → List Nat) : List Nat × Nat :=
  match i with
  | .vfadd _ a b => lanes2 (fpAdd fp32 rm) (v a) (v b)
  | .vfsub _ a b => lanes2 (fpSub fp32 rm) (v a) (v b)
  | .vfmul _ a b => lanes2 (fpMul fp32 rm) (v a) (v b)
  | .vfma _ a b c =>
    let r := ((v a).zip (v b)).zip (v c) |>.map (fun q => fpFma fp32 0 rm q.1.1 q.1.2 q.2)
    (r.map (·.1), r.foldl (fun f q => f ||| q.2) 0)
  | .vfmin _ a b => lanes2 (fpMinMax fp32 false) (v a) (v b)
  | .vfmax _ a b => lanes2 (fpMinMax fp32 true) (v a) (v b)
  | .vfrcp _ a => lanes1 (fpRcp rm) (v a)
  | .vfexp2 _ a => lanes1 (fpExp2 rm) (v a)
  | .vadd _ a b => lanesI (fun x y => x + y) (v a) (v b)
  | .vsub _ a b => lanesI (fun x y => x - y) (v a) (v b)
  | .vmul _ a b => lanesI (fun x y => x * y) (v a) (v b)
  | .vmin _ a b => lanesI (fun x y => if x.toInt ≤ y.toInt then x else y) (v a) (v b)
  | .vmax _ a b => lanesI (fun x y => if x.toInt ≤ y.toInt then y else x) (v a) (v b)
  | .vminu _ a b => lanesI (fun x y => if x.toNat ≤ y.toNat then x else y) (v a) (v b)
  | .vmaxu _ a b => lanesI (fun x y => if x.toNat ≤ y.toNat then y else x) (v a) (v b)
  | .vand _ a b => lanesI (fun x y => x &&& y) (v a) (v b)
  | .vor _ a b => lanesI (fun x y => x ||| y) (v a) (v b)
  | .vxor _ a b => lanesI (fun x y => x ^^^ y) (v a) (v b)
  | .vsll _ a b => lanesI (fun x y => x <<< (y.toNat % 32)) (v a) (v b)
  | .vsrl _ a b => lanesI (fun x y => x >>> (y.toNat % 32)) (v a) (v b)
  | .vsra _ a b => lanesI (fun x y => x.sshiftRight (y.toNat % 32)) (v a) (v b)
  | .vred _ a k =>
    if k = 0 then let r := vredSum rm (v a); (r.1 :: List.replicate 63 0, r.2)
    else ((v a).foldl (· + ·) 0 % 2 ^ 32 :: List.replicate 63 0, 0)
  | .vperm _ a _ => ((List.range 64).map (fun j => (v a).getD (p.getD j j) 0), 0)
  | .vsel _ a b c => ((List.range 64).map (fun j => if (v c).getD j 0 ≠ 0 then (v a).getD j 0 else (v b).getD j 0), 0)
  | .vcmp _ a b c => lanes2 (fun x y => let r := vcmp c x y; (if r.1 then 2 ^ 32 - 1 else 0, r.2)) (v a) (v b)
  | .vcvt _ a c => lanes1 (vcvt c rm) (v a)
  | .vbcast _ _ => (List.replicate 64 ((sc.getD 0 0).toNat % 2 ^ 32), 0)
  | .vext _ a _ => ([(v a).getD (bits (sc.getD 0 0) 5 0) 0], 0)
  | _ => ([], 0)

/-! ### Dispatch (R173, R371) -/

/-- The address and stride of a VLD or VST: its two scalar operands (R377). -/
def vaddr (a o : Nat) (s : State) : Word := s.rd a + 256 * sext o 8

/-- The scalar operands an instruction reads at issue (R371). -/
def vscal (i : Instr) (s : State) : List Word :=
  match i with
  | .vld _ a o => [vaddr a o s, 4]
  | .vldStr _ a o => [vaddr a o s, s.rd (a + 1)]
  | .vldBc _ a o => [vaddr a o s, 0]
  | .vst _ a o => [vaddr a o s, 4]
  | .vstStr _ a o => [vaddr a o s, s.rd (a + 1)]
  | .vbcast _ r => [s.rd r]
  | .vext _ _ n => [s.rd n]
  | _ => []

/-- The permutation an instruction copies at dispatch (R185). -/
def vpermOf (i : Instr) (s : State) : Perm :=
  match i with
  | .vperm _ _ p => s.perm p
  | _ => []

/-- A vector instruction of the thread in focus enters the dispatch queue with its log entry (R173, R175) and the vector registers as
its bundle reads them (R51). -/
def dispatchV (i : Instr) (pc : Word) (body : Nat) (rep : Bool) (s : State) : State :=
  let (q, s1) := logDispatch s.slot s.th.tid pc body s
  s1.modE (fun e => { e with vq := e.vq ++ [{
    seq := q, tid := s.th.tid, slot := s.slot, instr := i, scal := vscal i s, rm := s.rm, perm := vpermOf i s,
    vs := i.vregs.map (fun n => (n, s.vrd n)), rep := rep }] })

/-- Whether a dispatch must wait: a full queue or a log of unread faults (R173, R175). -/
def State.vheld (s : State) : Bool := decide (32 ≤ s.etl.vq.length) || s.dlogFull

/-- Captures an instruction; a 17th raises ILLEGAL with its bundle (R174). -/
def capture (i : Instr) (s : State) : State :=
  match s.etl.vrb with
  | none => s
  | some b =>
    if 16 ≤ b.ops.length then takeTrap { code := cIllegal, eval := wd s.bundle } s
    else advance (s.modE (fun e => { e with vrb := some { b with ops := b.ops ++ [(i, s.pcNow, s.body)] } }))

/-- The addresses of the 64 lanes of a VLD or VST. -/
def laneAddrs (va stride : Word) : List Word := (List.range 64).map (fun i => va + wd i * stride)

/-- The lowest lane address whose bytes lie in an occupied ring slot of the issuing etlet (R378). -/
def laneHazard (s : State) (as : List Word) : Option Word :=
  (as.filter (fun v => match s.ownAddr v 4 with | some g => s.hazardAt g 4 | none => false)).foldl
    (fun (b : Option Word) v => match b with | none => some v | some x => some (if v.toNat < x.toNat then v else x)) none

/-- VLD's and VST's causes at issue (R378). -/
def vmemCause (al a : Nat) (str st : Bool) (i : Instr) (s : State) : Option Cause :=
  let sc := vscal i s
  let va := sc.getD 0 0
  firstFault [canonFault [va], alignFault al [va],
    (if str && decide ((sc.getD 1 0).toNat % 4 ≠ 0) then some (illegalReg (a + 1)) else none),
    (if st then (laneHazard s (laneAddrs va (sc.getD 1 0))).map (fun v => { code := cRinghaz, eval := v }) else none)]

/-! ### VECTOR_START and VECTOR_WRITEBACK -/

/-- A lane's access: a cause, or its physical address (R378). -/
def laneXlate (s : State) (kind : Acc1) (va : Word) : Nat ⊕ (Nat × Bool) :=
  if !canonical va then .inl cXlate
  else if va.toNat % 4 ≠ 0 then .inl cAlign
  else match s.xlateNow s.kern s.user kind va with
    | .ok g ca =>
      if regionOf g = 2 ∧ inScratch s.eid g = false then .inl cProt
      else if (if kind = .wr then s.aborts g else s.abortsR g) || s.cutOff s.eid g then .inl cDabort
      else if s.lost g then .inl cLost
      else if kind = .wr ∧ s.hazardAt g 4 then .inl cRinghaz
      else .inr (g, ca)
    | .bad c => .inl c
    | .miss => .inl cXlate

/-- A late fault of op `seq` of the thread in focus. -/
def vfault (seq c : Nat) (va : Word) (s : State) : State := engineFault s.lkey seq s.th.tid c s.th.rank va s

/-- A vector register as the instruction's bundle read it (R51). -/
def VOp.vreg (o : VOp) (n : Nat) : Vec := kgetD o.vs n 0

/-- The dispatched instruction `o` of the etlet in focus, changed. -/
def modOp (o : VOp) (f : VOp → VOp) (s : State) : State :=
  s.modE (fun e => { e with vq := mapFirst (fun x => decide (x = o)) f e.vq })

/-- It has been performed: its result. -/
def vdone (o : VOp) (v : Vec) (fl : Nat) (bad : Bool) (s : State) : State :=
  readyWhere (fun w => decide (w = .vrwait)) (modOp o (fun x => { x with out := some (v, fl, bad) }) s)

/-- The lanes that a VLD has still to read, each with its number. -/
def VOp.lanesLeft (o : VOp) : List (Nat × Word) :=
  let as := (match o.instr with | .vldBc _ _ _ => [o.scal.getD 0 0] | _ => laneAddrs (o.scal.getD 0 0) (o.scal.getD 1 0))
  ((List.range 64).zip as).filter (fun p => (kget o.got p.1).isNone)

/-- What the lanes that a VLD has read give. -/
def VOp.loaded (o : VOp) (got : KMap Nat) : Vec :=
  BitVec.ofNat 2048 (mkVec ((List.range 64).map (fun i => kgetD got (match o.instr with | .vldBc _ _ _ => 0 | _ => i) 0)))

/-- The physical address of a lane, 0 where it fails. -/
def lanePa (s : State) (va : Word) : Nat := match laneXlate s .rd va with | .inr (g, _) => g | .inl _ => 0

/-- A VLD, its thread in focus, reads one aligned 8-byte word, which the implementation chooses, or takes the fault of its lowest lane that
fails (R100, R377, R378). The word waits for the etlet's stores to it and for the test of its home (R99, R349). One from another package
travels to it and back (R194). (DEDUCED, log 153) -/
def vload (o : VOp) (s : State) : State :=
  let todo := o.lanesLeft
  match todo.findSome? (fun p => match laneXlate s .rd p.2 with | .inl c => some (c, p.2) | .inr _ => none) with
  | some (c, a) => vdone o 0 0 true (vfault o.seq c a (s.xlateTouch s.kern s.user .rd a))
  | none =>
    let ws := (todo.map (fun p => lanePa s p.2 / 8)).eraseDups
    let mine := todo.filter (fun p => decide (lanePa s p.2 / 8 = ws.getD (Config.pickWord s.free ws.length % ws.length) 0))
    let a := (mine.map (fun p => lanePa s p.2)).headD 0
    let z := { s with free := s.free + 1 }
    match (if regionOf a = 3 then some z else (usePort 0 s.eid (gpaPkg a) z).bind (usePort 2 (homeEid a) (pkgOf s.eid))) with
    | none => s
    | some z =>
    if mine.any (fun p => s.readWaits (lanePa s p.2) 4 || s.homeTested (lanePa s p.2) || s.walkBusy s.kern s.user .rd p.2) then s
    else
      let r := mine.foldl (fun (r : KMap Nat × State) (p : Nat × Word) =>
        match laneXlate r.2 .rd p.2 with
        | .inr (g, ca) => let x := readVia g 4 ca (r.2.xlateTouch r.2.kern r.2.user .rd p.2); (kput r.1 p.1 x.1, x.2)
        | .inl _ => r) (o.got, z)
      if ({ o with got := r.1 } : VOp).lanesLeft.isEmpty then vdone o (o.loaded r.1) 0 false r.2
      else modOp o (fun x => { x with got := r.1 }) r.2

/-- The entries of a VST in the order in which they enter the store buffer: address, bytes, value (R104, R378). -/
def VOp.stores (o : VOp) : List (Word × Nat × Nat) :=
  let va := o.scal.getD 0 0
  match o.instr with
  | .vst d _ _ => (List.range 32).map (fun i => (va + wd (8 * i), 8, lane (o.vreg d) (2 * i) + 2 ^ 32 * lane (o.vreg d) (2 * i + 1)))
  | .vstStr d _ _ => (List.range 64).map (fun i => (va + wd i * o.scal.getD 1 0, 4, lane (o.vreg d) i))
  | _ => []

/-- A VST, its thread in focus, puts its next entry into the store buffer once that has room; a fault ends it (R99, R104, R378).
(DEDUCED, log 153) -/
def vstore (o : VOp) (s : State) : State :=
  match o.stores[o.got.length]? with
  | none => vdone o 0 0 false s
  | some (a, w, v) =>
    if s.walkBusy s.kern s.user .wr a then s
    else match laneXlate s .wr a, (if w = 8 then laneXlate s .wr (a + 4) else laneXlate s .wr a) with
    | .inl c, _ => vdone o 0 0 true (vfault o.seq c a (s.xlateTouch s.kern s.user .wr a))
    | _, .inl c => vdone o 0 0 true (vfault o.seq c (a + 4) s)
    | .inr (g, ca), .inr _ =>
      if s.sbufFull 1 then s
      else
        let s := pushStore g w (wd v) a 0 ca (s.xlateTouch s.kern s.user .wr a)
        if o.got.length + 1 = o.stores.length then vdone o 0 0 false s else modOp o (fun x => { x with got := kput x.got o.got.length 0 }) s

/-- Performs a dispatched instruction, its thread in focus, or of a VLD or VST the next word (R371, R377). -/
def vperform (o : VOp) (s : State) : State :=
  match o.instr with
  | .vld _ _ _ => vload o s
  | .vldStr _ _ _ => vload o s
  | .vldBc _ _ _ => vload o s
  | .vst _ _ _ => vstore o s
  | .vstStr _ _ _ => vstore o s
  | i =>
    let r := vcompute i o.rm o.scal o.perm (fun n => lanes (o.vreg n))
    vdone o (BitVec.ofNat 2048 (mkVec r.1)) r.2 false s

/-- Runs `f` on the thread `tid` of the etlet in focus, if it is in a slot. -/
def onTid (tid : Nat) (f : State → State) (s : State) : State :=
  match (kset s.etl.threads s.slot s.thr).find? (fun p => decide (p.2.tid = tid)) with
  | some (l, _) => within s.eid l f s
  | none => s

/-! ### The repetition buffer (R174, R380) -/

/-- Register `v` renumbered by `off`, modulo the thread's vector registers. -/
def renum (vregs : Nat) (off : Int) (v : Nat) : Nat := ((Int.ofNat v + off) % Int.ofNat (max 1 vregs)).toNat

/-- Whether an instruction names a register that the thread's pending vector instructions write (R173). -/
def marked (vq : List VOp) (tid : Nat) (i : Instr) : Bool :=
  vq.any (fun o => decide (o.tid = tid) &&
    (o.instr.vdest.any (fun d => i.vregs.contains d) || o.instr.gdest.any (fun d => decide (d ≠ 112) && i.gregs.contains d)))

/-- The sequence has written back: the buffer is free (R174). -/
def freeVrb (s : State) : State :=
  readyWhere (fun w => match w with | .vrb => true | .vrwait => true | _ => false) (s.modE (fun e => { e with vrb := none }))

/-- The own cause of a vector instruction (R157, R378, R379). -/
def vcause (i : Instr) (s : State) : Option Cause :=
  match i with
  | .vld _ a _ => vmemCause 8 a false false i s
  | .vldStr _ a _ => vmemCause 4 a true false i s
  | .vldBc _ a _ => vmemCause 4 a false false i s
  | .vst _ a _ => vmemCause 8 a false true i s
  | .vstStr _ a _ => vmemCause 4 a true true i s
  | .vperm _ _ p => if s.perm p = [] ∨ 64 < (s.perm p).length then some (permFault p) else none
  | _ => none

/-- Dispatches a captured instruction of the thread in focus; one that meets a cause of its own has a dispatch-log entry with that fault,
and does nothing (R157, R174, R176). Its scalar registers are read now, a loop-port word among them (R380). -/
def dispatchPass (i : Instr) (pc : Word) (body : Nat) (s : State) : State :=
  let fault := fun (c : Cause) =>
    let (q, s) := logDispatch s.slot s.th.tid pc body s
    engineFault s.lkey q s.th.tid c.code s.th.rank c.eval s
  match portCheck s i.fields, vcause i s with
  | some (.inl c), _ => fault c
  | _, some c => fault c
  | _, none => popWords (portsRead i.fields) (dispatchV i pc body true s)

/-- Whether a pass of the thread in focus must wait for a loop port that it reads or writes (R59, R380). -/
def passWaits (i : Instr) (s : State) : Bool :=
  match portCheck s i.fields with
  | some (.inr _) => true
  | _ => false

/-- Dispatches what it can of the running sequence, in pass order; frees the buffer when all has written back.
(DEDUCED, log 30) (DEDUCED, log 63) -/
def refill : Nat → State → State
  | 0, s => s
  | f + 1, s =>
    match s.etl.vrb with
    | none => s
    | some b =>
      if b.capture then s
      else match (if b.pass < b.count then b.ops[b.at_]? else none) with
      | none => if s.etl.vq.any (fun o => o.rep) then s else freeVrb s
      | some (i, pc, body) =>
        match (kset s.etl.threads s.slot s.thr).find? (fun p => decide (p.2.tid = b.owner)) with
        | none => freeVrb s
        | some (l, t) =>
          let i := i.mapV (renum t.vlimit (Int.ofNat b.pass * b.stride))
          if s.vheld || marked s.etl.vq b.owner i || passWaits i { s.focus s.eid l with latch := none } then s
          else
            let s := within s.eid l (fun s => dispatchPass i pc body { s with latch := none }) s
            let last := decide (b.ops.length ≤ b.at_ + 1)
            refill f (s.modE (fun e => { e with vrb := e.vrb.map (fun _ =>
              { b with at_ := if last then 0 else b.at_ + 1, pass := if last then b.pass + 1 else b.pass }) }))

/-- VECTOR_START (R173): the sequence dispatches what it can, and the next dispatched instruction is performed. An instruction whose thread is
gone goes with it. (DEDUCED, log 62) -/
def execVectorStart (e : Nat) (s : State) : Res :=
  atE e s (fun s =>
    let s := refill 32 s
    match s.etl.vq.find? (fun o => o.out.isNone) with
    | none => s
    | some o =>
      if (slotOf { s.etl with threads := kset s.etl.threads s.slot s.thr } o.tid).isNone then
        reachWakes (readyWhere (fun w => decide (w = .bench)) (s.modE (fun e => { e with vq := e.vq.filter (fun x => decide (x.tid ≠ o.tid)) })))
      else onTid o.tid (vperform o) s)

/-- VECTOR_WRITEBACK (R173, R139): the oldest started instruction writes its register and raises its flags. -/
def execVectorWriteback (e : Nat) (s : State) : Res :=
  atE e s (fun s =>
    match s.etl.vq.find? (fun o => o.out.isSome) with
    | none => s
    | some o =>
      let s := s.modE (fun e => { e with vq := e.vq.erase o })
      let s := match o.out with
        | some (v, fl, false) => onTid o.tid (fun s =>
            let s := match o.instr.vdest, o.instr.gdest with
              | some d, _ => s.vwr d v
              | none, some d => { s with ph := 0 }.wr d (wd (v.toNat % 2 ^ 64))
              | none, none => s
            s.raiseV fl) s
        | _ => s
      reachWakes (refill 32 (readyWhere (fun w => decide (w = .bench ∨ w = .vrwait)) s)))

/-- Whether the thread in focus owns the buffer with a running sequence. -/
def State.sequence (s : State) : Bool :=
  match s.etl.vrb with
  | some b => decide (b.owner = s.th.tid) && !b.capture
  | none => false

/-- VRB (R174, R380). -/
def execVrb (s : State) : Res :=
  issue .vrb s (fun s => noHandler s (fun s =>
    if s.capturing then advance s
    else if s.etl.vrb.isSome then waitFor .vrb 112 s
    else advance (s.modE (fun e => { e with vrb := some { owner := s.th.tid } }))))

/-- VRE (R174, R380): runs the captured sequence g[a][31:0] times with stride g[b]. -/
def execVre (a b : Nat) (s : State) : Res :=
  issue (.vre a b) s (fun s => noHandler s (fun s =>
    if s.capturing then
      match s.etl.vrb with
      | none => advance s
      | some v => advance (refill 32 (s.modE (fun e => { e with
          vrb := some { v with capture := false, count := bits (s.rd a) 31 0, stride := (s.rd b).toInt } })))
    else advance s))

/-- VRSTOP (R174): what was dispatched writes back, and the buffer is free. -/
def execVrstop (s : State) : Res :=
  issue .vrstop s (fun s => noHandler s (fun s => advance (if s.capturing || s.sequence then freeVrb s else s)))

/-- VRWAIT (R174). -/
def execVrwait (s : State) : Res :=
  issue .vrwait s (fun s => noHandler s (fun s => if s.sequence then waitFor .vrwait 112 s else advance s))

/-! ### The instructions -/

/-- Issues a vector instruction: captured, held (not eligible; in a pair whose other instruction has taken the last place, for the next one), or
checked and dispatched (R173, R174). -/
def vissue (i : Instr) (s : State) : Res :=
  if !s.capturing && s.vheld then .next (if s.ph = 2 then waitFor .vrwait 112 s else { s with trap := none })
  else issue i s (fun s =>
    if s.capturing then capture i s
    else match vcause i s with
      | some c => takeTrap c s
      | none => advance (dispatchV i s.pcNow s.body false s))


/-- VLD (R377, R378). -/
def execVld (d a o : Nat) (s : State) : Res := vissue (.vld d a o) s

/-- VLD.STR (R377, R378). -/
def execVldStr (d a o : Nat) (s : State) : Res := vissue (.vldStr d a o) s

/-- VLD.BC (R377, R378). -/
def execVldBc (d a o : Nat) (s : State) : Res := vissue (.vldBc d a o) s

/-- VST (R377, R378). -/
def execVst (d a o : Nat) (s : State) : Res := vissue (.vst d a o) s

/-- VST.STR (R377, R378). -/
def execVstStr (d a o : Nat) (s : State) : Res := vissue (.vstStr d a o) s

/-- VFADD (R376). -/
def execVfadd (d a b : Nat) (s : State) : Res := vissue (.vfadd d a b) s

/-- VFSUB (R376). -/
def execVfsub (d a b : Nat) (s : State) : Res := vissue (.vfsub d a b) s

/-- VFMUL (R376). -/
def execVfmul (d a b : Nat) (s : State) : Res := vissue (.vfmul d a b) s

/-- VFMA (R376). -/
def execVfma (d a b c : Nat) (s : State) : Res := vissue (.vfma d a b c) s

/-- VFMIN (R376). -/
def execVfmin (d a b : Nat) (s : State) : Res := vissue (.vfmin d a b) s

/-- VFMAX (R376). -/
def execVfmax (d a b : Nat) (s : State) : Res := vissue (.vfmax d a b) s

/-- VFRCP (R376). -/
def execVfrcp (d a : Nat) (s : State) : Res := vissue (.vfrcp d a) s

/-- VFEXP2 (R376). -/
def execVfexp2 (d a : Nat) (s : State) : Res := vissue (.vfexp2 d a) s

/-- VADD (R372). -/
def execVadd (d a b : Nat) (s : State) : Res := vissue (.vadd d a b) s

/-- VSUB (R372). -/
def execVsub (d a b : Nat) (s : State) : Res := vissue (.vsub d a b) s

/-- VMUL (R372). -/
def execVmul (d a b : Nat) (s : State) : Res := vissue (.vmul d a b) s

/-- VMIN (R372). -/
def execVmin (d a b : Nat) (s : State) : Res := vissue (.vmin d a b) s

/-- VMAX (R372). -/
def execVmax (d a b : Nat) (s : State) : Res := vissue (.vmax d a b) s

/-- VMINU (R372). -/
def execVminu (d a b : Nat) (s : State) : Res := vissue (.vminu d a b) s

/-- VMAXU (R372). -/
def execVmaxu (d a b : Nat) (s : State) : Res := vissue (.vmaxu d a b) s

/-- VAND (R372). -/
def execVand (d a b : Nat) (s : State) : Res := vissue (.vand d a b) s

/-- VOR (R372). -/
def execVor (d a b : Nat) (s : State) : Res := vissue (.vor d a b) s

/-- VXOR (R372). -/
def execVxor (d a b : Nat) (s : State) : Res := vissue (.vxor d a b) s

/-- VSLL (R372). -/
def execVsll (d a b : Nat) (s : State) : Res := vissue (.vsll d a b) s

/-- VSRL (R372). -/
def execVsrl (d a b : Nat) (s : State) : Res := vissue (.vsrl d a b) s

/-- VSRA (R372). -/
def execVsra (d a b : Nat) (s : State) : Res := vissue (.vsra d a b) s

/-- VRED (R381). -/
def execVred (d a b : Nat) (s : State) : Res := vissue (.vred d a b) s

/-- VSEL (R382). -/
def execVsel (d a b c : Nat) (s : State) : Res := vissue (.vsel d a b c) s

/-- VCMP (R374). -/
def execVcmp (d a b c : Nat) (s : State) : Res := vissue (.vcmp d a b c) s

/-- VCVT (R375). -/
def execVcvt (d a b : Nat) (s : State) : Res := vissue (.vcvt d a b) s

/-- VPERM (R379): an empty register or n > 64 fails check 6. -/
def execVperm (d a p : Nat) (s : State) : Res := vissue (.vperm d a p) s

/-- VBCAST (R373). -/
def execVbcast (d r : Nat) (s : State) : Res := vissue (.vbcast d r) s

/-- VEXT (R373). -/
def execVext (d a n : Nat) (s : State) : Res := vissue (.vext d a n) s

end Sys2Proof.Machine
end

