-- ==== Sys2Proof/Machine/Copy.lean ====
section
/-! DEFINITION. The copy engine, copy tags, score counters, PUT, GET and triggered sends (R106, R157 to R162, R175, R176,
R205 to R209, R262, R293, R315, R347, R348, R361 to R363, R367). -/

namespace Sys2Proof.Machine

/-! ### Commands run under the launch, key and rights of their issuer -/

/-- The thread and kernel that a command acts as: its issuing thread may have left (R161). -/
def CopyCmd.as_ (c : CopyCmd) : Thread × Kernel :=
  ({ kid := 8, rank := c.rank, teamix := c.teamix, status := if c.user then 0 else 1 },
   { launch := c.lk, key := c.key, root := c.root })

/-- The state as a command sees it. -/
def CopyCmd.view (c : CopyCmd) (s : State) : State :=
  { s with thr := some c.as_.1, etl := { s.etl with kernels := kput s.etl.kernels 8 c.as_.2 } }

/-- Runs `f` as the command, with no slot in focus. -/
def CopyCmd.run (c : CopyCmd) (f : State → State) (s : State) : State :=
  within s.eid 64 (fun s =>
    let s := f (c.view s)
    { s with thr := none, etl := { s.etl with kernels := kdel s.etl.kernels 8 } }) s

/-- The narrowest scope containing an etlet and the home of an address (R106). -/
def scopeOf (e gpa : Nat) : Nat :=
  match regionOf gpa with
  | 3 => 5
  | 4 => 6
  | 5 => 6
  | _ => if homeDie gpa = dieOf e then 3 else if gpaPkg gpa = pkgOf e then 4 else if gpaPkg gpa / 1024 = pkgOf e / 1024 then 5 else 6

/-- What a running command accumulates: state, scope, fault, bytes written, the units moved and index entries read, and whether a home
makes it wait. -/
structure Cp where
  s : State
  scope : Nat := 1
  fault : Option (Nat × Word) := none
  done : Nat := 0
  moved : List Nat := []
  ixs : KMap Nat := []
  wait : Bool := false

/-- The physical address of an engine access, or its fault (R176). -/
def engineXlate (s : State) (kind : Acc1) (va : Word) : Nat ⊕ Nat :=
  match s.xlateNow s.kern s.user kind va with
  | .ok g _ => if (if kind = .wr then s.aborts g else s.abortsR g) || s.cutOff s.eid g then .inl cDabort else if s.lost g then .inl cLost else .inr g
  | .bad c => .inl c
  | .miss => .inl cXlate

/-- The etlets of the cluster team of the thread in focus (R160). -/
def State.clusterTeam (s : State) : List Nat :=
  let t := s.th.teamix
  let l := s.lnch
  (List.range l.etlets).filterMap (fun i => l.etletOf (bits t 34 28 * l.packages + bits t 27 18) (bits t 17 16) (bits t 15 10 * 16 + i))

/-- Where a command's word at destination address `va` goes: each physical address, or a fault. -/
def CopyCmd.targets (c : CopyCmd) (s : State) (va : Word) : Nat ⊕ List Nat :=
  if c.mc then
    if bits va 17 0 < 0x30000 then .inr (s.clusterTeam.map (fun e => scratch e + bits va 17 0)) else .inl cProt
  else match engineXlate s .wr va with
    | .inl x => .inl x
    | .inr g => .inr [g]

/-- The scope of a contiguous command: the narrowest that contains the etlet and the home of every location (R106). -/
def CopyCmd.reach (c : CopyCmd) (s : State) : Nat :=
  let sc := fun (k : Acc1) (va : Word) => match engineXlate s k va with | .inr g => scopeOf s.eid g | .inl _ => 1
  let k := (rangePages c.src c.len).foldl (fun m v => max m (sc .rd v)) 3
  if c.mc then k else (rangePages c.dst c.len).foldl (fun m v => max m (sc .wr v)) k

/-- Writes one word of a command at a physical address; CPYF makes it FULL (R159, R161). -/
def engineWrite (c : CopyCmd) (n v : Nat) (s : State) (g : Nat) : State :=
  let key := if regionOf g = 2 then 0 else c.key
  let t := s.homeWrite key g n v
  if c.kind = .cpyf then serveFe (kgetD t.feq (g / 8) []).length (g / 8) (t.feWrite key (g / 8 * 8) false (c.reach s)) else t

/-- Copies one word of `n` bytes from `src` to `dst` (R159, R167, R176), once both homes take it (R82, R349). -/
def copyWord (c : CopyCmd) (n : Nat) (src dst : Word) (p : Cp) : Cp :=
  if p.fault.isSome || p.wait then p
  else if p.s.walkBusy p.s.kern p.s.user .rd src || (!c.mc && p.s.walkBusy p.s.kern p.s.user .wr dst) then { p with wait := true }
  else
    let s := p.s.xlateTouch p.s.kern p.s.user .rd src
    match engineXlate s .rd src with
    | .inl x => { p with s := s, fault := some (x, src) }
    | .inr g =>
      let s := if c.mc then s else s.xlateTouch s.kern s.user .wr dst
      match c.targets s dst with
      | .inl x => { p with s := s, fault := some (x, dst) }
      | .inr ds =>
        if ds.any (fun d => s.hazardAt d n) then { p with s := s, fault := some (cRinghaz, dst) }
        else if c.kind = .cpyf ∧ ds.any (fun d => !hasFe d) then { p with s := s, fault := some (cNofe, dst) }
        else if s.readBusy c.key g || ds.any (s.writeBusy c.key) then { p with wait := true }
        else
          let v := s.homeRead c.key g n
          let s := s.l2Touch c.key g
          { p with s := ds.foldl (fun s d => engineWrite c n v s d) s, done := p.done + n,
                   scope := ds.foldl (fun k d => max k (scopeOf s.eid d)) (max p.scope (scopeOf s.eid g)) }

/-- Word `i` of a run of `len` bytes. -/
def runWord (c : CopyCmd) (len : Nat) (src dst : Word) (i : Nat) (p : Cp) : Cp :=
  copyWord c (min 8 (len - 8 * i)) (src + wd (8 * i)) (dst + wd (8 * i)) p

/-- Entry `i` of an index list (R159), read once. -/
def CopyCmd.index (c : CopyCmd) (i : Nat) (p : Cp) : Nat × Cp :=
  let va := c.idx + wd (4 * i)
  match kget p.ixs i with
  | some k => (k, p)
  | none =>
    if p.s.walkBusy p.s.kern p.s.user .rd va then (0, { p with wait := true })
    else
    let s := p.s.xlateTouch p.s.kern p.s.user .rd va
    match engineXlate s .rd va with
    | .inl x => (0, { p with s := s, fault := p.fault.or (some (x, va)) })
    | .inr g =>
      if s.readBusy c.key g then (0, { p with wait := true })
      else
        let k := s.homeRead c.key g 4
        (k, { p with s := s.l2Touch c.key g, scope := max p.scope (scopeOf s.eid g), ixs := kput p.ixs i k })

/-- The words of a row. -/
def CopyCmd.perRow (c : CopyCmd) : Nat := c.len / 8

/-- Word `u` of a row copy, of the rows one after another (R159). -/
def copyRow (c : CopyCmd) (u : Nat) (p : Cp) : Cp :=
  let i := u / c.perRow
  let w := wd (8 * (u % c.perRow))
  let at_ := fun (b : Word) (r : Nat) => b + wd (r * c.len) + w
  match c.kind with
  | .cpyg => let (k, p) := c.index i p; copyWord c 8 (at_ c.src k) (at_ c.dst i) p
  | .cpys => let (k, p) := c.index i p; copyWord c 8 (at_ c.src i) (at_ c.dst k) p
  | _ => copyWord c 8 (at_ c.src (c.perm.getD i 0)) (at_ c.dst i) p

/-! ### CPYR (R160, R166) -/

/-- The name of a command in a tile: a tag is one live command's (R161). -/
def CopyCmd.name (c : CopyCmd) (e : Nat) : Nat := 65536 * e + c.tag

/-- The etlets a CPYR pushes on (R160). -/
def CopyCmd.members (c : CopyCmd) (s : State) : List Nat := if c.mc then s.clusterTeam else [s.eid]

/-- Whether a ring takes a tile of `len` bytes of launch `lk` (R166). -/
def Ring.fits (r : Ring) (lk len : Nat) : Bool :=
  decide (r.kid = lk) &&
  (if r.fmt = 8 then decide (20 ≤ len ∧ len ≤ r.slotBytes) else decide (len = tileBytes r.lines r.k r.fmt r.sp))

/-- The command's ring on etlet `e`. -/
def CopyCmd.ringOn (c : CopyCmd) (s : State) (e : Nat) : Option Ring :=
  match kget (s.etletAt e).rings c.ring with
  | some r => if r.fits c.lk c.len then some r else none
  | none => none

/-- Changes ring `b` of the etlet in focus. -/
def modRing (b : Nat) (f : Ring → Ring) (s : State) : State :=
  match kget s.etl.rings b with
  | some r => s.modE (fun e => { e with rings := kput e.rings b (f r) })
  | none => s

/-- Reserves the tail slot of a ring (R166). -/
def Ring.reserve (r : Ring) (src : Nat) : Ring :=
  { r with q := r.q ++ [{ slot := r.tail, src := src }], tail := (r.tail + 1) % r.tiles }

/-- The physical address of a tile's slot on etlet `e`. -/
def tileAddr (s : State) (e b src : Nat) : Option Nat :=
  match kget (s.etletAt e).rings b with
  | some r => (r.q.find? (fun t => decide (t.src = src ∧ t.complete = false))).map (fun t => scratch e + r.base + t.slot * r.slotBytes)
  | none => none

/-- Word `i` of a CPYR, to every reserved slot. -/
def pushWord (c : CopyCmd) (name i : Nat) (p : Cp) : Cp :=
  if p.fault.isSome || p.wait then p
  else
    let n := min 8 (c.len - 8 * i)
    let va := c.src + wd (8 * i)
    if p.s.walkBusy p.s.kern p.s.user .rd va then { p with wait := true }
    else
    let s := p.s.xlateTouch p.s.kern p.s.user .rd va
    match engineXlate s .rd va with
    | .inl x => { p with s := s, fault := some (x, va) }
    | .inr g =>
      if s.readBusy c.key g then { p with wait := true }
      else
        let ds := (c.members s).filterMap (fun e => tileAddr s e c.ring name)
        let v := s.homeRead c.key g n
        { p with s := ds.foldl (fun s d => engineWrite c n v s (d + 8 * i)) (s.l2Touch c.key g), done := p.done + n,
                 scope := max p.scope (scopeOf s.eid g) }

/-- Completes the tile on every member, faulted if the command ended on a fault (R166). -/
def completeTile (c : CopyCmd) (name done : Nat) (faulted : Bool) (s : State) : State :=
  (c.members s).foldl (fun s e => within e (if e = s.eid then s.slot else 0) (fun s =>
    readyWhere (fun w => decide (w = .ring c.ring)) (modRing c.ring (fun r => { r with q := r.q.map (fun t =>
      if t.src = name ∧ t.complete = false then { t with complete := true, faulted := faulted, bytes := done } else t) }) s)) s) s

/-! ### COPY_START and COPY_COMPLETE (R161) -/

/-- The package a PUT goes to (R262). -/
def CopyCmd.package (c : CopyCmd) (s : State) : Nat :=
  match (c.view s).xlateNow c.as_.2 c.user .wr c.dst with
  | .ok g _ => gpaPkg g
  | _ => pkgOf s.eid

/-- Whether a PUT must wait for an earlier one to its package (R262). -/
def CopyCmd.putWaits (c : CopyCmd) (earlier : List CopyCmd) (s : State) : Bool :=
  decide (c.kind = .put) && earlier.any (fun d => decide (d.kind = .put) && decide (d.package s = c.package s))

/-- Whether a store that was issued before still waits in the buffer of etlet `e` for scratchpad bytes of a ring's tail slot: an MMA reads
exactly the bytes that were pushed (R167). (DEDUCED, log 134) -/
def Ring.tailBusy (r : Ring) (s : State) (e : Nat) : Bool :=
  (s.etletAt e).buf.any (fun x => overlap x.gpa x.width (scratch e + r.base + r.tail * r.slotBytes) r.slotBytes)

/-- Whether a CPYR waits for a free ring slot (R161). -/
def CopyCmd.slotWaits (c : CopyCmd) (s : State) : Bool :=
  decide (c.kind = .cpyr) && (c.members (c.view s)).any (fun e => match c.ringOn s e with
    | some r => decide (r.tiles ≤ r.q.length) || r.tailBusy s e
    | none => false)

/-- The command that the engine may start next: the first that nothing holds back (R161, R262, R175). -/
def startable (s : State) : List CopyCmd → List CopyCmd → Option CopyCmd
  | _, [] => none
  | earlier, c :: rest =>
    if c.running then startable s (earlier ++ [c]) rest
    else if c.slotWaits s || c.putWaits earlier s || !c.logged then startable s (earlier ++ [c]) rest
    else some c

/-- Changes command `c` of the engine. -/
def modCmd (c : CopyCmd) (f : CopyCmd → CopyCmd) (s : State) : State :=
  s.modE (fun e => { e with copyq := mapFirst (fun x => decide (x = c)) f e.copyq })

/-- The engine starts command `c`: it runs, and a CPYR reserves its slots; a member without a matching ring is an ENGINE
event with CAUSE ILLEGAL (R166, R293). -/
def startCmd (c : CopyCmd) (s : State) : State :=
  let s := modCmd c (fun c => { c with running := true }) s
  if c.kind = .cpyr then
    let ms := c.members (c.view s)
    let miss := ms.any (fun e => (c.ringOn s e).isNone)
    let s := ms.foldl (fun s e => if (c.ringOn s e).isSome then
        within e (if e = s.eid then s.slot else 0) (modRing c.ring (fun r => r.reserve (c.name s.eid))) s else s) s
    if miss then engineFault c.lk c.seq c.tid cIllegal c.rank c.src s else s
  else s

/-- The words that a command moves. -/
def CopyCmd.units (c : CopyCmd) : Nat :=
  match c.kind with
  | .cpyg => c.rows * c.perRow
  | .cpys => c.rows * c.perRow
  | .cpyp => c.perm.length * c.perRow
  | _ => (c.len + 7) / 8

/-- The bytes of a word. -/
def CopyCmd.unitBytes (c : CopyCmd) (i : Nat) : Nat :=
  match c.kind with
  | .cpyg => 8
  | .cpys => 8
  | .cpyp => 8
  | _ => min 8 (c.len - 8 * i)

/-- Moves a word of a command of etlet `e` (R159). -/
def CopyCmd.moveUnit (c : CopyCmd) (e i : Nat) (p : Cp) : Cp :=
  match c.kind with
  | .cpyr => pushWord c (c.name e) i p
  | .cpyg => copyRow c i p
  | .cpys => copyRow c i p
  | .cpyp => copyRow c i p
  | _ => runWord c c.len c.src c.dst i p

/-- What a command makes of the words that it has not moved yet, up to one that must wait (R159, R176). -/
def transfer (c : CopyCmd) (e : Nat) (s : State) : Cp :=
  loop (fun i p =>
    if c.moved.contains i then p
    else
      let q := c.moveUnit e i p
      if q.fault.isSome || q.wait then q else { q with moved := q.moved ++ [i] }) 0 c.units
    { s := s, scope := c.scope, done := (c.moved.map c.unitBytes).sum, moved := c.moved, ixs := c.ixs }

/-- Runs `f` as the engine does: under the command's launch, with no slot in focus. -/
def CopyCmd.engine (c : CopyCmd) (f : State → Cp) (s : State) : Cp × State :=
  let p := f (c.view (s.focus s.eid 64))
  (p, { p.s with thr := none, etl := { p.s.etl with kernels := kdel p.s.etl.kernels 8 } })

/-- The endpoints of a command on the far side of the fabric: the package of the data it moves, and the home that answers a GET. -/
def CopyCmd.far (c : CopyCmd) (s : State) : Nat × Nat :=
  match (if c.kind = .put then engineXlate (c.view s) .wr c.dst else engineXlate (c.view s) .rd c.src) with
  | .inr g => if regionOf g = 3 then (pkgOf s.eid, s.eid) else (gpaPkg g, homeEid g)
  | .inl _ => (pkgOf s.eid, s.eid)

/-- The data of a command travels: a PUT's on VC5; a GET's on VC2, after its request on VC0 (R194, R207). None where a packet cannot go. -/
def CopyCmd.carry (c : CopyCmd) (s : State) : Option State :=
  match c.kind with
  | .put => usePort 5 s.eid (c.far s).1 s
  | .get => (usePort 0 s.eid (c.far s).1 s).bind (usePort 2 (c.far s).2 (pkgOf s.eid))
  | _ => some s

/-- A running command moves one of its words, no matter which (R100); one that meets a fault is left for the end, one that must wait for later.
(DEDUCED, log 52) -/
def moveOne (c : CopyCmd) (s : State) : State :=
  let rest := (List.range c.units).filter (fun i => !c.moved.contains i)
  let n := s.free
  let z := { s with free := n + 1 }
  match rest[Config.pickWord n rest.length % rest.length]?, c.carry z with
  | some i, some s =>
    let (p, t) := c.engine (fun v => c.moveUnit s.eid i { s := v, scope := c.scope, ixs := c.ixs }) s
    if p.fault.isSome || p.wait then z
    else modCmd c (fun c => { c with moved := c.moved ++ [i], ixs := p.ixs, scope := p.scope }) (t.focus s.eid s.slot)
  | _, _ => s

/-- COPY_START (R161): command `seq` of etlet `e` starts, if it is the one that may and fewer than 8 run; of a running one a word moves. -/
def execCopyStart (e seq : Nat) (s : State) : Res :=
  atE e s (fun s =>
    match s.etl.copyq.find? (fun c => decide (c.seq = seq ∧ c.arrived = false) && c.running) with
    | some c => moveOne c s
    | none =>
      if 8 ≤ (s.etl.copyq.filter (·.running)).length then s
      else match startable s [] s.etl.copyq with
        | some c => if c.seq = seq then startCmd c s else s
        | none => s)

/-- Removes command `c` and lets waiting threads issue again (R161). -/
def endCmd (c : CopyCmd) (s : State) : State :=
  readyWhere (fun w => match w with | .tagBusy x => decide (64 ≤ x) | _ => false)
    (admitFired (s.modE (fun e => { e with copyq := e.copyq.erase c })))

/-- Performs the rest of a command's transfer; where a word must wait, what has been moved until then. -/
def perform (c : CopyCmd) (s : State) : Cp × State :=
  let (p, t) := c.engine (transfer c s.eid) s
  let t := t.focus s.eid s.slot
  if p.wait then (p, modCmd c (fun c => { c with moved := p.moved, ixs := p.ixs, scope := p.scope }) t)
  else (p, if c.kind = .cpyr then c.run (completeTile c (c.name s.eid) p.done p.fault.isSome) t else t)

/-- The late fault of a command. -/
def cmdFault (c : CopyCmd) : Option (Nat × Word) → State → State
  | some (x, va), s => engineFault c.lk c.seq c.tid x c.rank va s
  | none, s => s

/-- COPY_COMPLETE (R161): every word of a CPY command is written, and its tag is set. -/
def execCopyComplete (e seq : Nat) (s : State) : Res :=
  atE e s (fun s =>
    match s.etl.copyq.find? (fun c => decide (c.seq = seq) && c.running && decide (c.kind ≠ .put ∧ c.kind ≠ .get)) with
    | none => s
    | some c =>
      let (p, s) := perform c s
      if p.wait then s else reachWakes (setTags (wd (2 ^ c.tag)) p.scope (cmdFault c p.fault (endCmd c s))))

/-! ### Score counters and triggers (R205, R206, R208, R347, R348) -/

/-- Gives the unlogged commands of fired triggers their numbers and entries as soon as the log has room, in ascending slot order (R175). -/
def relog : Nat → State → State
  | 0, s => s
  | f + 1, s =>
    let ws := s.etl.cmds.filter (fun c => !c.logged)
    let low := ws.foldl (fun m c => min m c.seq) 131072
    match ws.find? (fun c => decide (c.seq = low)) with
    | none => s
    | some c =>
      if s.dlogFull then s
      else
        let (q, s) := logDispatch c.slot c.tid c.pc c.body s
        let hit := fun (x : CopyCmd) => !x.logged && decide (x.seq = c.seq)
        let put := mapFirst hit (fun x => { x with seq := q, logged := true })
        relog f (s.modE (fun e => if e.copyq.any hit then { e with copyq := put e.copyq } else { e with fired := put e.fired }))

/-- Fires the triggers on counter `c` that it reaches, in ascending slot order (R208); their PUTs wait for room in the engine (R161). -/
def fire (c : Nat) (s : State) : State :=
  s.etl.trigs.foldl (fun s p =>
    let w := wd p.2.word
    if bits w 35 32 = c ∧ reaches (kgetD s.etl.sc c 0) (bits w 31 0) then
      admitFired (relog 32 (s.modE (fun e => { e with
        trigs := kdel e.trigs p.1, fired := e.fired ++ [{ p.2.cmd with seq := 65536 + p.1, logged := false }] })))
    else s) s

/-- Releases the waiters whose thresholds counter `c` reaches, in list order (R347, R348). -/
def scRelease (c : Nat) (s : State) : State :=
  let v := kgetD s.etl.sc c 0
  let l := kgetD s.etl.scWait c []
  let go := l.filter (fun w => reaches v w.2)
  let s := s.modE (fun e => { e with scWait := kput e.scWait c (l.filter (fun w => !reaches v w.2)) })
  let s := if 4 ≤ kgetD s.etl.scScope c 0 ∧ go ≠ [] then s.acquire (dieOf s.eid) else s
  go.foldl (fun s w => wake w.1 (some (wd v)) s (kgetD s.etl.scScope c 0)) s

/-- A change of counter `c` of the etlet in focus, by an event of scope `sc` (R206). -/
def scChange (c sc : Nat) (f : Nat → Nat) (s : State) : State :=
  scRelease c (fire c (s.modE (fun e => { e with
    sc := kmod e.sc c 0 (fun v => f v % 2 ^ 32), scScope := kmod e.scScope c 1 (max sc) })))

/-- Counter `c` of etlet `e` advances by 1. -/
def scAdvance (e c sc : Nat) (s : State) : State := within e (if e = s.eid then s.slot else 0) (scChange c sc (· + 1)) s

/-- SCSET (R347); it starts the counter's scope afresh (R206). -/
def execScset (d a b : Nat) (s : State) : Res :=
  issue (.scset d a b) s (fun s => noHandler s (fun s =>
    let old := kgetD s.etl.sc b 0
    let v := bits (s.rd a) 31 0
    scChange b 1 (fun _ => v) ((result d (s.seen (wd old)) s).modE (fun e => { e with scScope := kput e.scScope b 1 }))))

/-- SCADD (R347). -/
def execScadd (d a b : Nat) (s : State) : Res :=
  issue (.scadd d a b) s (fun s => noHandler s (fun s =>
    let old := kgetD s.etl.sc b 0
    let v := bits (s.rd a) 31 0
    scChange b 1 (fun x => x + v) (result d (s.seen (wd old)) s)))

/-- SCWAIT (R347): at once, or on the counter's list. -/
def execScwait (d a b : Nat) (s : State) : Res :=
  issue (.scwait d a b) s (fun s => noHandler s (fun s =>
    let t := bits (s.rd a) 31 0
    let c := kgetD s.etl.sc b 0
    if reaches c t then
      result d (s.seen (wd c)) (if 4 ≤ kgetD s.etl.scScope b 0 then s.acquire (dieOf s.eid) else s)
    else waitFor .counter d (s.modE (fun e => { e with scWait := kput e.scWait b (kgetD e.scWait b [] ++ [(s.th.tid, t)]) }))))

/-- SCRD (R347). -/
def execScrd (d b : Nat) (s : State) : Res :=
  issue (.scrd d b) s (fun s => noHandler s (fun s => result d (s.seen (wd (kgetD s.etl.sc b 0))) s))

/-! ### PUT, GET, TSEND, TCANCEL (R207, R208, R315, R361, R367) -/

/-- The causes of PUT, GET and TSEND (R315, R367). -/
def putCause (get : Bool) (a : Nat) (s : State) : List (Option Cause) :=
  let n := s.rd (a + 2)
  let c := s.rd (a + 3)
  [canonFault [s.rd a, s.rd (a + 1)], alignFault 8 [s.rd a, s.rd (a + 1)],
   (if n.toNat % 8 ≠ 0 ∨ 2 ^ 24 < n.toNat then some (illegalReg (a + 2)) else none),
   (if bits c 62 60 ≠ 0 ∨ bits c 54 52 ≠ 0 ∨ bits c 47 32 ≠ 0 ∨ bits c 2 0 ≠ 0 ∨ (s.lnch.chanEtlet c).isNone ∨
       (get = true ∧ bits c 63 63 = 1) then some (illegalReg (a + 3)) else none)]

/-- A command of the thread in focus. -/
def State.cmd (s : State) (kind : CopyKind) (dst src : Word) (len : Nat) : CopyCmd :=
  { seq := 0, kind := kind, dst := dst, src := src, len := len, tid := s.th.tid, slot := s.slot, kid := s.th.kid, user := s.user,
    pc := s.pcNow, body := s.body, lk := s.lkey, key := s.kern.key, root := s.kern.root, rank := s.th.rank, teamix := s.th.teamix }

/-- The PUT or GET of registers a to a + 3 (Table 10.5). -/
def State.putCmd (s : State) (kind : CopyKind) (a : Nat) : CopyCmd :=
  let c := s.rd (a + 3)
  { s.cmd kind (s.rd a) (s.rd (a + 1)) (s.rd (a + 2)).toNat with
    rc := if bits c 63 63 = 1 then (s.lnch.chanEtlet c).map (fun e => (e, bits c 59 56)) else none,
    lc := if bits c 55 55 = 1 then some (bits c 51 48) else none }

/-- Queues a command with its number and entry (R161, R175). -/
def queueCmd (c : CopyCmd) (s : State) : State :=
  let (q, s) := logDispatch c.slot c.tid c.pc c.body s
  s.modE (fun e => { e with copyq := e.copyq ++ [{ c with seq := q }] })

/-- Issues a command: its checks, the thread's verdicts, its release at die scope, then the engine's queue (R106, R134, R161); a
bundle held by the dispatch log is not eligible (R175). (DEDUCED, log 53) -/
def dispatchCmd (i : Instr) (s : State) (chk : State → List (Option Cause)) (body : State → State) : Res :=
  if s.dlogFull then .next { s with trap := none }
  else issue i s (fun s => checked (chk s) s (fun s => afterVerdicts s (fun s => release s (fun s =>
    if 64 ≤ s.etl.copyq.length then waitFor (.tagBusy 64) 112 s else body s))))

/-- HANDLER with EVAL = 0 in a hand-off slot, ahead of other own causes (R40). -/
def handoffCause (s : State) : Option Cause := if s.handoff then some { code := cHandler } else none

/-- PUT (R207, R315). -/
def execPut (a : Nat) (s : State) : Res :=
  dispatchCmd (.put a) s (fun s => handoffCause s :: putCause false a s) (fun s => advance (queueCmd (s.putCmd .put a) s))

/-- GET (R207, R315). -/
def execGet (a : Nat) (s : State) : Res :=
  dispatchCmd (.get a) s (fun s => handoffCause s :: putCause true a s) (fun s => advance (queueCmd (s.putCmd .get a) s))

/-- TSEND (R208, R367): arms a free trigger slot, or d = 32; it fires at once if its counter already reaches t.
(DEDUCED, log 55) -/
def execTsend (d a b : Nat) (s : State) : Res :=
  issue (.tsend d a b) s (fun s => checked (handoffCause s :: putCause false a s ++
      [if bits (s.rd b) 63 36 ≠ 0 then some (illegalReg b) else none]) s (fun s => afterVerdicts s (fun s => release s (fun s =>
    match lowest (fun i => (kget s.etl.trigs i).isNone) 0 32 with
    | none => result d 32 s
    | some i =>
      let w := s.rd b
      let t : Trig := ⟨s.th.kid, s.th.tid, s.th.rank, w.toNat, s.putCmd .put a⟩
      fire (bits w 35 32) ((result d (wd i) s).modE (fun e => { e with trigs := kput e.trigs i t }))))))

/-- TCANCEL (R208, R361). -/
def execTcancel (d a : Nat) (s : State) : Res :=
  issue (.tcancel d a) s (fun s => noHandler s (fun s =>
    let i := (s.rd a).toNat
    match kget s.etl.trigs i with
    | some t =>
      if i < 32 ∧ t.kid = s.th.kid then (result d 0 s).modE (fun e => { e with trigs := kdel e.trigs i }) else result d 1 s
    | none => result d 1 s))

/-- PUT_ARRIVAL (R207): its data has travelled on VC5; every destination word of a PUT takes effect, and the remote counter advances. -/
def execPutArrival (e seq : Nat) (s : State) : Res :=
  atE e s (fun s =>
    match s.etl.copyq.find? (fun c => decide (c.seq = seq ∧ c.kind = .put ∧ c.arrived = false) && c.running) with
    | none => s
    | some c =>
      match c.carry s with
      | none => s
      | some s =>
      let (p, s) := perform c s
      if p.wait then s
      else if p.fault.isSome then reachWakes (cmdFault c p.fault (endCmd c s))
      else
        let s := modCmd c (fun c => { c with arrived := true, scope := p.scope }) s
        match c.rc with
        | some (e, k) => scAdvance e k (max p.scope (scopeOf s.eid (scratch e))) s
        | none => s)

/-- PUT_COMPLETE (R207): a PUT that has arrived, or a GET, whose data returns on VC2, completes locally. -/
def execPutComplete (e seq : Nat) (s : State) : Res :=
  atE e s (fun s =>
    match s.etl.copyq.find? (fun c => decide (c.seq = seq) && c.running && (decide (c.kind = .get) || c.arrived)) with
    | none => s
    | some c =>
      match (if c.kind = .get then c.carry s else some s) with
      | none => s
      | some s =>
      let (p, s) := if c.kind = .get then perform c s else ({ s := s, scope := c.scope }, s)
      if p.wait then s
      else if p.fault.isSome then reachWakes (cmdFault c p.fault (endCmd c s))
      else
        let s := reachWakes (endCmd c s)
        match c.lc with
        | some k => scChange k p.scope (· + 1) s
        | none => s)

/-! ### The CPY family (R158 to R161, R293) -/

/-- A byte count's fault (Table 8.3). -/
def lenFault (r : Nat) (n : Word) : Option Cause := if n.toNat % 8 ≠ 0 ∨ 2 ^ 32 < n.toNat then some (illegalReg r) else none

/-- A ROWBYTES fault. -/
def rowFault (r n : Nat) : Option Cause := if n % 8 ≠ 0 ∨ n < 8 ∨ 65536 < n then some (illegalReg r) else none

/-- A handler may copy only within its own scratchpad (R40). (DEDUCED, log 54) -/
def handlerReach (vs : List Word) (s : State) : Option Cause :=
  if s.handoff then (vs.find? (fun v => (s.ownAddr v 1).isNone)).map (fun v => { code := cHandler, eval := v }) else none

/-- The shared checks of the family: addresses, multicast, then `more` (R293). (DEDUCED, log 56) -/
def cpyCause (cpyr indexed : Bool) (a m : Nat) (more : List (Option Cause)) (s : State) : List (Option Cause) :=
  let data := (if cpyr then [] else [s.rd a]) ++ [s.rd (a + 1)]
  let ix := if indexed then [s.rd (a + 3)] else []
  [canonFault (data ++ ix), alignFault 8 data, alignFault 4 ix,
   (if m = 1 ∧ cpyr = false ∧ inWindow (s.rd a) = false then some (illegalReg a) else none)] ++ more ++ [handlerReach (data ++ ix) s]

/-- Queues a CPY command under its tag, which must be idle; the issue clears the tag (R161). -/
def cpyQueue (x : Nat) (c : CopyCmd) (s : State) : State :=
  if s.etl.cmds.any (fun d => decide (d.tag = x)) then waitFor (.tagBusy x) 112 s
  else advance (queueCmd { c with tag := x } (s.modE (fun e => { e with tags := e.tags &&& ~~~(wd (2 ^ x)) })))

/-- CPY (R159, R293). -/
def execCpy (a x m : Nat) (s : State) : Res :=
  dispatchCmd (.cpy a x m) s (fun s => cpyCause false false a m [lenFault (a + 2) (s.rd (a + 2))] s)
    (fun s => cpyQueue x { s.cmd .cpy (s.rd a) (s.rd (a + 1)) (s.rd (a + 2)).toNat with mc := decide (m = 1) } s)

/-- CPYF (R159, R293). -/
def execCpyf (a x m : Nat) (s : State) : Res :=
  dispatchCmd (.cpyf a x m) s (fun s => cpyCause false false a m [lenFault (a + 2) (s.rd (a + 2))] s)
    (fun s => cpyQueue x { s.cmd .cpyf (s.rd a) (s.rd (a + 1)) (s.rd (a + 2)).toNat with mc := decide (m = 1) } s)

/-- The causes of CPYG and CPYS on their shape register. -/
def shapeCause (a m : Nat) (s : State) : List (Option Cause) :=
  let n := s.rd (a + 2)
  cpyCause false true a m [rowFault (a + 2) (bits n 63 32), if 65536 < bits n 31 0 then some (illegalReg (a + 2)) else none] s

/-- CPYG (R159, R293). -/
def execCpyg (a x m : Nat) (s : State) : Res :=
  dispatchCmd (.cpyg a x m) s (shapeCause a m)
    (fun s => cpyQueue x { s.cmd .cpyg (s.rd a) (s.rd (a + 1)) (bits (s.rd (a + 2)) 63 32) with
      mc := decide (m = 1), rows := bits (s.rd (a + 2)) 31 0, idx := s.rd (a + 3) } s)

/-- CPYS (R159, R293). -/
def execCpys (a x m : Nat) (s : State) : Res :=
  dispatchCmd (.cpys a x m) s (shapeCause a m)
    (fun s => cpyQueue x { s.cmd .cpys (s.rd a) (s.rd (a + 1)) (bits (s.rd (a + 2)) 63 32) with
      mc := decide (m = 1), rows := bits (s.rd (a + 2)) 31 0, idx := s.rd (a + 3) } s)

/-- CPYP (R159, R189, R293). -/
def execCpyp (a x m p : Nat) (s : State) : Res :=
  dispatchCmd (.cpyp a x m p) s (fun s =>
      let n := s.rd (a + 2)
      cpyCause false false a m [(if bits n 63 32 ≠ 0 then some (illegalReg (a + 2)) else none), rowFault (a + 2) (bits n 31 0),
        if s.perm p = [] then some (permFault p) else none] s)
    (fun s => cpyQueue x { s.cmd .cpyp (s.rd a) (s.rd (a + 1)) (bits (s.rd (a + 2)) 31 0) with
      mc := decide (m = 1), perm := s.perm p } s)

/-- CPYR (R159, R166, R293). -/
def execCpyr (a x m r : Nat) (s : State) : Res :=
  dispatchCmd (.cpyr a x m r) s (fun s => cpyCause true false a m
      [match kget s.etl.rings r with
       | some g => if g.fits s.lkey (s.rd (a + 2)).toNat then none else some (illegalReg (768 + r))
       | none => some (illegalReg (768 + r))] s)
    (fun s => cpyQueue x { s.cmd .cpyr (s.rd a) (s.rd (a + 1)) (s.rd (a + 2)).toNat with mc := decide (m = 1), ring := r } s)

/-! ### Tags (R162, R362) -/

/-- TWALL and TWANY. -/
def tagWait (all : Bool) (d a : Nat) (s : State) : State :=
  noHandler s (fun s =>
    let m := s.rd a
    let t := s.rd 118
    if (all && decide (t &&& m = m)) || (!all && (decide (t &&& m ≠ 0) || decide (m = 0))) then result d (s.seen (t &&& m)) (tagAcquire (t &&& m) s)
    else waitFor (.tags all m) d s)

/-- TWALL (R162, R362). -/
def execTwall (d a : Nat) (s : State) : Res := issue (.twall d a) s (tagWait true d a)

/-- TWANY (R162, R362). -/
def execTwany (d a : Nat) (s : State) : Res := issue (.twany d a) s (tagWait false d a)

/-- TFFR (R162, R362). -/
def execTffr (d a : Nat) (s : State) : Res :=
  issue (.tffr d a) s (fun s =>
    let v := s.rd 118 &&& s.rd a
    let x := (lowest (fun i => v.getLsbD i) 0 64).getD 64
    result d (s.seen (wd x)) (if x < 64 then tagAcquire (wd (2 ^ x)) s else s))

/-- TCLR (R162, R362): a tag whose command completed in this cycle ends set (R178). -/
def execTclr (a : Nat) (s : State) : Res :=
  issue (.tclr a) s (fun s =>
    let m := s.rd a
    advance (s.modE (fun e => { e with tags := e.tags &&& ~~~(if e.tagAt = s.now then m &&& ~~~e.tagNew else m) })))

end Sys2Proof.Machine
end

