-- ==== Sys2Proof/Machine/Sha.lean ====
section
/-! DEFINITION. SHA-256 of a byte string, which R244 and R245 name, as FIPS 180-4 defines it. -/

namespace Sys2Proof.Machine

/-- A word of SHA-256. -/
abbrev W32 := BitVec 32

/-- The round constants. (PRESUMED, log 155) -/
def shaK : List W32 :=
  [0x428a2f98, 0x71374491, 0xb5c0fbcf, 0xe9b5dba5, 0x3956c25b, 0x59f111f1, 0x923f82a4, 0xab1c5ed5,
   0xd807aa98, 0x12835b01, 0x243185be, 0x550c7dc3, 0x72be5d74, 0x80deb1fe, 0x9bdc06a7, 0xc19bf174] ++
  [0xe49b69c1, 0xefbe4786, 0x0fc19dc6, 0x240ca1cc, 0x2de92c6f, 0x4a7484aa, 0x5cb0a9dc, 0x76f988da,
   0x983e5152, 0xa831c66d, 0xb00327c8, 0xbf597fc7, 0xc6e00bf3, 0xd5a79147, 0x06ca6351, 0x14292967] ++
  [0x27b70a85, 0x2e1b2138, 0x4d2c6dfc, 0x53380d13, 0x650a7354, 0x766a0abb, 0x81c2c92e, 0x92722c85,
   0xa2bfe8a1, 0xa81a664b, 0xc24b8b70, 0xc76c51a3, 0xd192e819, 0xd6990624, 0xf40e3585, 0x106aa070] ++
  [0x19a4c116, 0x1e376c08, 0x2748774c, 0x34b0bcb5, 0x391c0cb3, 0x4ed8aa4a, 0x5b9cca4f, 0x682e6ff3,
   0x748f82ee, 0x78a5636f, 0x84c87814, 0x8cc70208, 0x90befffa, 0xa4506ceb, 0xbef9a3f7, 0xc67178f2]

/-- The state before the first block. -/
def shaH : List W32 := [0x6a09e667, 0xbb67ae85, 0x3c6ef372, 0xa54ff53a, 0x510e527f, 0x9b05688c, 0x1f83d9ab, 0x5be0cd19]

/-- The next word of the message schedule, from the sixteen before it, the newest first. -/
def shaNext (w : List W32) : W32 :=
  let x := w.getD 14 0
  let y := w.getD 1 0
  (y.rotateRight 17 ^^^ y.rotateRight 19 ^^^ (y >>> 10)) + w.getD 6 0 + (x.rotateRight 7 ^^^ x.rotateRight 18 ^^^ (x >>> 3)) + w.getD 15 0

/-- The schedule of a block, the newest word first, with `n` words more. -/
def shaSchedule : Nat → List W32 → List W32
  | 0, w => w
  | n + 1, w => shaSchedule n (shaNext w :: w)

/-- One round on the eight working words. -/
def shaRound (k w : W32) : List W32 → List W32
  | [a, b, c, d, e, f, g, h] =>
    let t := h + (e.rotateRight 6 ^^^ e.rotateRight 11 ^^^ e.rotateRight 25) + ((e &&& f) ^^^ (~~~e &&& g)) + k + w
    [t + (a.rotateRight 2 ^^^ a.rotateRight 13 ^^^ a.rotateRight 22) + ((a &&& b) ^^^ (a &&& c) ^^^ (b &&& c)), a, b, c, d + t, e, f, g]
  | l => l

/-- A block of sixteen words into the state. -/
def shaBlock (h : List W32) (b : List W32) : List W32 :=
  let ws := (shaSchedule 48 b.reverse).reverse
  (h.zip ((shaK.zip ws).foldl (fun s p => shaRound p.1 p.2 s) h)).map (fun p => p.1 + p.2)

/-- Big-endian bytes of a number. -/
def beBytes (n v : Nat) : List Nat := (List.range n).map (fun i => v / 256 ^ (n - 1 - i) % 256)

/-- The number that big-endian bytes form. -/
def ofBytes (l : List Nat) : Nat := l.foldl (fun n b => n * 256 + b % 256) 0

/-- The padded message. -/
def shaPad (l : List Nat) : List Nat := l ++ [128] ++ List.replicate ((119 - l.length % 64) % 64) 0 ++ beBytes 8 (8 * l.length)

/-- SHA-256 of a byte string, as a number of 32 big-endian bytes. -/
def sha256 (l : List Nat) : Nat :=
  let p := shaPad l
  let word := fun (i : Nat) => BitVec.ofNat 32 (ofBytes ((p.drop (4 * i)).take 4))
  let blocks := (List.range (p.length / 64)).map (fun j => (List.range 16).map (fun i => word (16 * j + i)))
  (blocks.foldl shaBlock shaH).foldl (fun n w => n * 2 ^ 32 + w.toNat) 0

end Sys2Proof.Machine
end

