-- ==== Sys2Proof/Machine/FullEmpty.lean ====
section
/-! DEFINITION. The full/empty instructions and a full/empty access at its home (R85 to R87, R92, R99, R102, R323, R352). -/

namespace Sys2Proof.Machine

/-- A migration from HBM to CXL memory is abandoned when a synchronising access to it would wait: STATUS 1, and its score counter advances
(R92). A counter that no endpoint holds takes nothing (R17). -/
def migAbandon (gpa : Nat) (s : State) : State :=
  let d := homeDie gpa
  let m := (kgetD s.dies d {}).mig
  if (s.migCopy gpa).isSome ∧ regionOf m.dst.toNat = 1 ∧ m.moved = false then
    let s := s.modDie d (fun x => { x with mig := { m with busy := false, status := 1 } })
    match s.scoreOf m with
    | some (e, c) => scAdvance e c 5 s
    | none => s
  else s

/-- A full/empty access at its home: its value, or none when it joins the word's list (R87). -/
def feAccess (r : FeReq) (gpa : Nat) (s : State) : State × Option Word :=
  let w := gpa / 8
  if r.op.conditional ∧ (kgetD s.feq w [] ≠ [] ∨ feOk s r.key gpa r.op = false) then
    let s := migAbandon gpa s
    ({ s with feq := kput s.feq w (kgetD s.feq w [] ++ [r]) }, none)
  else
    let (s, v) := feAct r w s
    (serveFe (kgetD s.feq w []).length w s, some v)

/-- Whether a full/empty access at `gpa` would join the list now. -/
def State.feWaits (s : State) (key gpa : Nat) (op : MemOp) : Bool :=
  op.conditional && (decide (kgetD s.feq (gpa / 8) [] ≠ []) || !feOk s key gpa op)

/-- A full/empty access of the thread in focus to its own etlet's scratchpad. -/
def feHere (op : MemOp) (gpa : Nat) (va : Word) (c dst : Nat) (s : State) : State :=
  match feAccess ⟨s.th.tid, op, va, 0, c⟩ gpa s with
  | (s, some v) => result dst v s
  | (s, none) => waitFor (.fe (gpa / 8)) dst s

/-- An SF store enters the store buffer; its thread awaits its completion (R26, R99, R102). -/
def pushSf (op : MemOp) (gpa : Nat) (va : Word) (c : Nat) (ca : Bool) (s : State) : State :=
  let x : SEntry := {
    slot := s.slot, tid := s.th.tid, gpa := gpa, width := 8, data := 0, key := s.kern.key, va := va, scope := c, ca := ca,
    launch := s.lkey, rank := s.th.rank, ssn := s.th.ssn, sf := some op, born := s.free, epoch := s.kern.ckpt.epoch, no := s.storeNo }
  waitFor .mem 112 (bufPut x s)

/-- A full/empty instruction: its checks, its fence, then its access (R102, R323, R352). An LF acts at its home; an SF store goes through
the buffer, or as a request to another etlet's scratchpad (R42, R99). -/
def feInstr (op : Word → MemOp) (kind : Acc1) (isStore : Bool) (d a c : Nat) (o : Imm) (s : State) : State :=
  let va := s.rd a + o.offMS
  let mop := op (s.rd d)
  access kind 8 va s (fun g ca s =>
    let gpa := s.primary g
    if hasFe gpa = false then takeTrap { code := cNofe, eval := va } s
    else ownOnly gpa va s (fun s =>
      if isStore ∧ inScratch s.eid gpa ∧ s.hazardAt gpa 8 then takeTrap { code := cRinghaz, eval := va } s
      else if s.pending ∧ regionOf gpa ≠ 2 then waitFor .verdict 112 s
      else afterStores true s (fun s =>
        if s.handoff ∧ s.feWaits 0 gpa mop then takeTrap { code := cHandler } s
        else if inScratch s.eid gpa ∧ s.failing gpa = false ∧ (isStore = false ∨ s.etl.buf = []) then feHere mop gpa va c (if isStore then 112 else d) s
        else if isStore ∧ (regionOf gpa ≠ 2 ∨ inScratch s.eid gpa) then
          if s.sbufFull 1 then waitFor .sbufFull 112 s else pushSf mop gpa va c ca s
        else sendReq mop gpa va c ca (if isStore then 112 else d) s)))

/-- LDF (R323). -/
def execLdf (d a sg c : Nat) (o : Imm) (s : State) : Res :=
  issue (.ldf d a sg c o) s (feInstr (fun _ => .ldf) .rd false d a c o)

/-- LDFE (R323). -/
def execLdfe (d a sg c : Nat) (o : Imm) (s : State) : Res :=
  issue (.ldfe d a sg c o) s (feInstr (fun _ => .ldfe) .rw false d a c o)

/-- STF (R352). -/
def execStf (d a c : Nat) (o : Imm) (s : State) : Res :=
  issue (.stf d a c o) s (feInstr (fun v => .stf v) .wr true d a c o)

/-- STE (R352). -/
def execSte (d a c : Nat) (o : Imm) (s : State) : Res :=
  issue (.ste d a c o) s (feInstr (fun v => .ste v) .wr true d a c o)

/-- SETE (R352). -/
def execSete (a c : Nat) (o : Imm) (s : State) : Res :=
  issue (.sete a c o) s (feInstr (fun _ => .sete) .wr true 112 a c o)

/-- SETF (R352). -/
def execSetf (a c : Nat) (o : Imm) (s : State) : Res :=
  issue (.setf a c o) s (feInstr (fun _ => .setf) .wr true 112 a c o)

end Sys2Proof.Machine
end

