-- ==== Sys2Proof/Machine/Sync.lean ====
section
/-! DEFINITION. The sync instructions and the events of stations, umpires and checkpoints (R109, R113 to R136, R282, R288,
R312, R324, R354, R355, R357, R364, R365). -/

namespace Sys2Proof.Machine

/-! ### Homes and trees (R113, R119) -/

/-- The station of a die's cluster `c` (Table 1.4, port class 3). -/
def stationEid (die c : Nat) : Nat := die * 2 ^ 13 + c * 8 + 3

/-- The lowest of a list of packages. -/
def lowestPkg (l : List Nat) : Nat := (l.foldl (fun (m : Option Nat) x => some (min x (m.getD x))) none).getD 0

/-- The etlet that PLACE names for a virtual etlet; MAPSET moves no station. -/
def Launch.placed (l : Launch) (v : Nat × Nat × Nat) : Nat := ({ l with cmap := [] }.etletOf v.1 v.2.1 v.2.2).getD 0

/-- The packages of the virtual domain that holds virtual package `p`. -/
def Launch.domPkgs (l : Launch) (p : Nat) : List Nat := (l.pkgs.drop (p / max 1 l.packages * l.packages)).take l.packages

/-- The stations from an etlet with virtual indices `v` up to the top of its package's tree (Table 6.1). A virtual cluster's or die's
station is that of its etlet 0. (DEDUCED, log 80) -/
def Launch.stationPath (l : Launch) (v : Nat × Nat × Nat) (e scope : Nat) : List Nat :=
  let c := l.placed (v.1, v.2.1, v.2.2 / 16 * 16)
  let d := l.placed (v.1, v.2.1, 0)
  e :: [stationEid (dieOf c) (clusterOf c % 64), stationEid (dieOf d) 64, stationEid (4 * pkgOf d) 65].take (min scope 4 - 1)

/-- The home station of a scope for an etlet with virtual indices `v` (Table 6.1). -/
def Launch.homeStation (l : Launch) (v : Nat × Nat × Nat) (e scope : Nat) : Nat :=
  match scope with
  | 5 => stationEid (4 * lowestPkg (l.domPkgs v.1)) 65
  | 6 => stationEid (4 * lowestPkg l.pkgs) 65
  | _ => (l.stationPath v e scope).getLastD e

/-- The virtual indices of the thread in focus. -/
def State.virtual (s : State) : Nat × Nat × Nat :=
  let t := s.th.teamix
  (bits t 34 28 * s.lnch.packages + bits t 27 18, bits t 17 16, bits t 15 10 * 16 + bits t 9 6)

/-- The home station of a scope for the thread in focus. -/
def State.home (s : State) (scope : Nat) : Nat := s.lnch.homeStation s.virtual s.eid scope

/-- Where a scope's objects are numbered: at the home station, at scopes 5 and 6 for the whole domain (Table 6.1), at scope 1 at the etlet
that PLACE names. (DEDUCED, log 137) -/
def State.indexAt (s : State) (scope : Nat) : Nat :=
  match scope with
  | 1 => if (s.lnch.virtOf s.eid).isSome then s.lnch.placed s.virtual else s.eid
  | 5 => stationEid (4096 * (pkgOf (s.home 5) / 1024)) 65
  | 6 => stationEid (4096 * (pkgOf (s.home 6) / 1024)) 65
  | _ => s.home scope

/-- Objects per home station (Table 6.1). -/
def syncCapacity (scope : Nat) : Nat :=
  match scope with
  | 1 => 64
  | 2 => 256
  | 3 => 512
  | 4 => 512
  | _ => 4096

/-- The key of object `i` of a station. -/
def objKeyAt (home scope i : Nat) : Nat := (home * 8 + scope) * 4096 + i

/-- The key of object `i` of a scope for the thread in focus. -/
def State.objKey (s : State) (scope i : Nat) : Nat := objKeyAt (s.indexAt scope) scope i

/-- The nodes of one path, each below the next. -/
def addPath : List Nat → KMap Node → KMap Node
  | [], m => m
  | [n], m => kput m n { root := n }
  | n :: p :: rest, m => kput (addPath (p :: rest) m) n { up := some p, parent := some p }

/-- The thread indices of launch `lk` on etlet `e`: of the threads in its slots, benched or parked there. -/
def State.indicesAt (s : State) (e lk : Nat) : List Nat :=
  let x := s.etletAt e
  let ks := (x.kernels.filter (fun p => decide (p.2.launch = lk))).map (·.1)
  let away := s.allBenched.filter (fun t => x.kernels.any (fun k => decide (k.2.vix = t.teamix.toNat / 64))) ++ x.parked
  ((x.threads.filter (fun p => decide (p.1 < 62) && ks.contains p.2.kid)).map (·.2) ++ away.filter (fun t => decide (t.lk = lk))).map
    (fun t => bits t.teamix 5 0)

/-- A new object's tree, as the tree rules leave it (R115, R119): a thread that has ended before is in no population (R120).
(DEDUCED, log 83) -/
def buildTree (s : State) (l : Launch) (e : Nat) (o : SyncObj) : SyncObj :=
  let es := if (l.virtOf e).isSome then l.sited.filter (fun x => l.sameTeam o.scope e x.2) else [(s.virtual, e)]
  let o := { o with nodes := es.foldl (fun (m : KMap Node) (x : (Nat × Nat × Nat) × Nat) => addPath (l.stationPath x.1 x.2 o.scope) m) [] }
  let o := { o with nodes := es.foldl (fun (m : KMap Node) (x : (Nat × Nat × Nat) × Nat) =>
    let there := s.indicesAt x.2 o.launch
    kmod m x.2 {} (fun n => { n with gone := (List.range o.t).filter (fun b => !there.contains b) })) o.nodes }
  loop (fun _ (o : SyncObj) => { o with nodes := o.nodes.map (fun p => (p.1, treeRule s o p.1 p.2)) }) 0 68 o

/-- The handle of an object (Table 6.2). -/
def SyncObj.handle (o : SyncObj) (k : Nat) : Word :=
  wd (o.vix * 2 ^ 32 + o.gen * 2 ^ 17 + k % 4096 * 2 ^ 5 + o.kind * 2 ^ 3 + o.scope)

/-- The virtual etlet index of the thread in focus: cluster * 16 + etlet. -/
def State.vetl (s : State) : Nat := bits s.th.teamix 15 10 * 16 + bits s.th.teamix 9 6

/-- The generation of an object's index (Table 6.2). -/
def State.gen (s : State) (k : Nat) : Nat := kgetD (kgetD s.stations (k / 4096) {}).gens (k % 4096) 1

/-- Changes a station at a scope. -/
def State.modSt (s : State) (k : Nat) (f : Station → Station) : State := { s with stations := kmod s.stations k {} f }

/-! ### Handle checks (R116) -/

/-- The object of a handle, if checks 1 to 5 of R116 pass: `kind` as the instruction asks, `part` for check 4.
(DEDUCED, log 77) -/
def State.handleOk (s : State) (h : Word) (b : Nat) (kind : Option Nat) (part : Bool) : Option Nat :=
  let k := s.objKey b (bits h 16 5)
  match s.obj k with
  | none => none
  | some o =>
    if bits h 2 0 = b ∧ o.scope = b ∧ o.launch = s.lkey ∧ o.gen = bits h 31 17 ∧ o.kind = bits h 4 3 ∧
       (b = 1 → bits h 41 32 = s.vetl) ∧
       (part = true → s.handoff = false ∧ bits s.th.teamix 5 0 < o.t ∧ (kget o.nodes s.eid).isSome) ∧
       (kind.getD o.kind = o.kind)
    then some k else none

/-- Runs `f` on the object a handle names, or raises PROT with EVAL = the handle (R116). -/
def onHandle (h : Word) (b : Nat) (kind : Option Nat) (part : Bool) (s : State) (f : Nat → State → State) : State :=
  match s.handleOk h b kind part with
  | none => takeTrap { code := cProt, eval := h } s
  | some k => f k s

/-! ### SNEW, SFREE -/

/-- Whether a descriptor is BADDESC (R115). -/
def badDesc (threads : Nat) (v : Word) : Bool :=
  decide (bits v 1 0 = 3 ∨ bits v 63 14 ≠ 0 ∨ bits v 7 2 ≠ 0 ∨ bits v 13 8 = 0 ∨ 62 < bits v 13 8 ∨ threads < bits v 13 8)

/-- SNEW (R115, R354): a release at its scope; the object is installed in every member. (DEDUCED, log 85) -/
def execSnew (d a b : Nat) (s : State) : Res :=
  issue (.snew d a b) s (fun s => noHandler s (fun s =>
    let v := s.rd a
    if badDesc s.lnch.threads v then result d 1 s
    else afterStores true s (fun s =>
      match lowest (fun i => (s.obj (s.objKey b i)).isNone) 0 (syncCapacity b) with
      | none => result d 0 s
      | some i =>
        let k := s.objKey b i
        let o := buildTree s s.lnch s.eid
          { launch := s.lkey, gen := s.gen k, kind := bits v 1 0, scope := b, t := bits v 13 8, home := s.home b,
            vix := if b = 1 then s.vetl else 0, nodes := [] }
        result d (o.handle k) { s with objs := kput s.objs k o })))

/-- Every thread, wherever it stands. -/
def State.everyThread (s : State) : List Thread :=
  s.save.etlets.flatMap (fun p => p.2.threads.map (·.2) ++ p.2.bench ++ p.2.parked ++ p.2.goIn ++ goers p.2.fwd) ++
    s.images.flatMap (·.2)

/-- Whether a verdict on object `k` is still to come (R114). -/
def State.verdictsPending (s : State) (k : Nat) : Bool :=
  (match s.obj k with | some o => o.decisions.any (·.verdict.isNone) | none => false) ||
  s.everyThread.any (fun t => t.pend.any (fun p => decide (p.2 = k)))

/-- Whether a thread waits on the object (Table 6.3). -/
def SyncObj.waited (o : SyncObj) : Bool := o.nodes.any (fun p => p.2.waits.any (·.2.2) || decide (p.2.tokq ≠ []))

/-- Removes object `k`; its index's generation advances (Table 6.2), and the legitimacy flag of a scope that holds no more object of the
launch reads 1 (R128). (DEDUCED, log 76) -/
def freeObj (k : Nat) (s : State) : State :=
  match s.obj k with
  | none => s
  | some o =>
    let s := o.nodes.foldl (fun s p => match p.2.grant with
      | some t => modTid t (fun th => { th with grants := th.grants.filter (fun g => decide (g ≠ k)) }) s
      | none => s) s
    let s := s.modSt (k / 4096) (fun st => { st with gens := kput st.gens (k % 4096) (if 32767 ≤ o.gen then 1 else o.gen + 1) })
    let s := { s with objs := kdel s.objs k }
    if s.objs.any (fun p => decide (p.2.launch = o.launch ∧ p.2.home = o.home ∧ p.2.scope = o.scope)) then s
    else s.modSt (o.home * 8 + o.scope) (fun st => { st with legit := kdel st.legit o.launch })

/-- SFREE (R114, R116, R354). -/
def execSfree (d a b : Nat) (s : State) : Res :=
  issue (.sfree d a b) s (fun s => noHandler s (fun s => onHandle (s.rd a) b none false s (fun k s =>
    if s.verdictsPending k then waitFor (.sfree k) 112 s
    else if ((s.obj k).map SyncObj.waited).getD false then result d 1 s
    else result d 0 (freeObj k s))))

/-! ### SPOKE (R131) -/

/-- The physical station a virtual endpoint names (Table 6.11). -/
def Launch.stationOf (l : Launch) (v : Nat) : Option Nat :=
  let p := v / 2 ^ 15
  let d := v / 2 ^ 13 % 4
  let i := v / 8 % 1024
  match v % 8 with
  | 0 => l.etletOf p d i
  | 3 =>
    let path := fun (x : Nat × Nat × Nat) => l.stationPath x 0 4
    if i < 64 then (l.etletOf p d (i * 16)).map (fun _ => (path (p, d, i * 16)).getD 1 0)
    else if i = 64 then (l.etletOf p d 0).map (fun _ => (path (p, d, 0)).getD 2 0)
    else if i = 65 ∧ d = 0 then (l.pkgs[p]?).map (fun q => stationEid (4 * q) 65)
    else none
  | _ => none

/-- Whether a kind has the cell, and SUB lies within it (Tables 6.7 and 6.11). -/
def SyncObj.hasCell (o : SyncObj) (n code sub : Nat) : Bool :=
  (match o.kind with
   | 0 => decide (code ≤ 5)
   | 1 => decide (3 ≤ code ∧ code ≤ 6)
   | _ => decide (3 ≤ code ∧ code ≤ 5 ∨ code = 7)) &&
  (code != 2 || decide (sub < (if classOf n = 0 then 62 else (o.kids n).length)))

/-- A cell's value; a node without a parent holds its own number `n` in PARENT. -/
def Node.cell (x : Node) (n code sub : Nat) : Nat :=
  match code with
  | 0 => x.ph
  | 1 => x.cnt
  | 2 => x.arr / 2 ^ sub % 2
  | 3 => x.parent.getD n
  | 4 => x.dist
  | 5 => x.root
  | 6 => x.x
  | _ => x.c

/-- A cell of node `n` written; a PH that changes so carries no decision (R124). -/
def Node.poke (x : Node) (n code sub v : Nat) : Node :=
  match code with
  | 0 => { x with ph := v % 4, mark := if v % 4 = x.ph then x.mark else none }
  | 1 => { x with cnt := v % 256 }
  | 2 => { x with arr := x.arr - x.arr / 2 ^ sub % 2 * 2 ^ sub + v % 2 * 2 ^ sub }
  | 3 => { x with parent := if v % 2 ^ 32 = n then none else some (v % 2 ^ 32) }
  | 4 => { x with dist := v % 64 }
  | 5 => { x with root := v % 2 ^ 32 }
  | 6 => { x with x := v % 65536 }
  | _ => { x with c := v % 65536 }

/-- SPOKE (R131, R354): its write is one step at the member, after the fast-path events of its cycle, and rule 2 of R121 runs on the
new state. (DEDUCED, log 79) -/
def execSpoke (d a b : Nat) (s : State) : Res :=
  issue (.spoke d a b) s (fun s => noHandler s (fun s =>
    let h := s.rd a
    let g := s.rd (a + 1)
    if (BitVec.ofNat 32 s.lnch.modes).getLsbD 4 = false then takeTrap { code := cProt, eval := h } s
    else onHandle h b none false s (fun k s =>
      match s.obj k, s.lnch.stationOf (bits g 63 32) with
      | some o, some n =>
        match kget o.nodes n with
        | some x =>
          if o.hasCell n (bits g 7 0) (bits g 15 8) then
            let s := { s.modNode k n (fun x => x.poke n (bits g 7 0) (bits g 15 8) (s.rd (a + 2)).toNat) with poked := true }
            let old := wd (x.cell n (bits g 7 0) (bits g 15 8))
            result d old (if o.kind = 0 then rule2 k n s else s)
          else takeTrap { code := cProt, eval := g } s
        | none => takeTrap { code := cProt, eval := g } s
      | _, _ => takeTrap { code := cProt, eval := g } s)))

/-! ### LEGIT, LEGQ, FOULC (R128, R129) -/

/-- The legitimacy flag of a scope for the thread in focus: 1 where the scope holds no object of the launch (R128). -/
def State.legitAt (s : State) (scope : Nat) : Bool :=
  let home := s.home scope
  if s.objs.any (fun p => decide (p.2.launch = s.lkey ∧ p.2.home = home ∧ p.2.scope = scope)) then
    kgetD (kgetD s.stations (home * 8 + scope) {}).legit s.lkey true
  else true

/-- LEGIT (Table 6.8). -/
def State.legitBits (s : State) : Word :=
  wd ((List.range 6).foldl (fun a i => if s.legitAt (i + 1) then a + 2 ^ i else a) 0)

/-- What LEGQ of scope `b` reads: the legitimacy bits, and the rounds ended illegitimate at its scope (R328). -/
def State.legqVal (s : State) (b : Nat) : Word :=
  wd (kgetD (kgetD s.stations (s.home b * 8 + b) {}).bad s.lkey 0 * 2 ^ 32) ||| s.legitBits

/-- LEGQ (R128, R324). -/
def execLegq (d b : Nat) (s : State) : Res :=
  issue (.legq d b) s (fun s => result d (s.seen (s.legqVal b)) s)

/-- FOULC (R129, R312). -/
def execFoulc (a : Nat) (s : State) : Res :=
  issue (.foulc a) s (fun s => noHandler s (fun s =>
    let m := s.rd a &&& 0x3F
    advance (s.modT (fun t => { t with foul := t.foul &&& ~~~m }))))

/-! ### CKPT (R133, R288) -/

/-- Whether a thread of kernel `kid` of the etlet in focus, seated or benched, has a verdict to come. -/
def State.teamPending (s : State) (kid : Nat) : Bool :=
  (kset s.etl.threads s.slot s.thr).any (fun p => decide (p.2.kid = kid) && !p.2.pend.isEmpty) ||
  (s.teamBenched kid).any (fun t => !t.pend.isEmpty)

/-- The held stores `p` accepts drain, in order, through the store buffer (R109); `obj` is one more than the object whose confirmation lets
them go, 0 for none. (DEDUCED, log 84) -/
def drainHeld (kid obj : Nat) (p : Held → Bool) (s : State) : State :=
  let k := kgetD s.etl.kernels kid {}
  let out := (k.ckpt.held.filter p).map (fun h : Held => ({
    slot := h.slot, tid := h.tid, gpa := h.gpa, width := h.width, data := h.data, key := h.key, va := h.va, scope := h.scope, ca := h.ca,
    launch := k.launch, rank := h.rank, ssn := h.ssn, dobj := obj, born := h.born, no := h.no, epoch := h.epoch } : SEntry))
  refillBuf (s.modE (fun e => { e with
    drainq := e.drainq ++ out,
    kernels := kmod e.kernels kid {} (fun k => { k with ckpt := { k.ckpt with held := k.ckpt.held.filter (fun h => !p h) } }) }))

/-- CKPT (R133, R288): it leaves once every verdict of the team is in and the hold queue has drained. -/
def execCkpt (d a : Nat) (s : State) : Res :=
  issue (.ckpt d a) s (fun s => noHandler s (fun s =>
    let on := s.kern.ckpt.on
    let want := (s.rd a).getLsbD 0
    if want = on then result d (if on then 1 else 0) s
    else if want then result d 0 (s.modK (fun k => { k with ckpt := { on := true } }))
    else if s.teamPending s.th.kid then waitFor .ckptOff 112 s
    else
      let s := drainHeld s.th.kid 0 (fun _ => true) s
      if s.etl.drainq.any (fun x => decide (x.launch = s.lkey)) then waitFor .ack 112 s
      else result d 1 (s.modK (fun k => { k with ckpt := {} }))))

/-! ### BAR, BARA, BARW, TOKA, TOKR, STEP, STEPR, SOUND -/

/-- Puts the thread in focus to wait and runs `f`, which may wake it at once; in a pair the bundle then goes on to its
A-class instruction. -/
def selfWait (w : Wait) (d : Nat) (f : State → State) (s : State) : State :=
  let p := s.ph
  let s := f ((waitFor w d { s with ph := 0 }).modT (fun t => if p = 1 then { t with deferred := some (.nop, {}) } else t))
  let s := if p = 1 then s.modT (fun t => { t with deferred := none }) else s
  if s.th.st = .ready ∧ p = 1 then { s with ph := 1, adv := true } else { s with ph := p }

/-- The participant bit of the thread in focus. -/
def State.bit (s : State) : Nat := bits s.th.teamix 5 0

/-- The core node of the thread in focus in object `k`. -/
def State.coreNode (s : State) (k : Nat) : Node := ((s.obj k).map (fun o => o.node s.eid)).getD {}

/-- BAR (R121, R282). -/
def execBar (d a b : Nat) (s : State) : Res :=
  issue (.bar d a b) s (fun s => onHandle (s.rd a) b (some 0) true s (fun k s =>
    afterStores true s (selfWait .sync d (arrive k s.eid s.th.tid s.bit true))))

/-- BARA (R121, R282): d receives the phase counted in. -/
def execBara (d a b : Nat) (s : State) : Res :=
  issue (.bara d a b) s (fun s => onHandle (s.rd a) b (some 0) true s (fun k s =>
    afterStores true s (fun s => result d (wd (s.coreNode k).ph) (arrive k s.eid s.th.tid s.bit false s))))

/-- The node of object `k` at which the thread in focus has arrived, which GO may have left since (R44). -/
def State.arrivedAt (s : State) (k : Nat) : Option Nat :=
  (s.obj k).bind (fun o => (o.nodes.find? (fun p => p.2.waits.any (fun w => decide (w.1 = s.th.tid)))).map (·.1))

/-- BARW (R121, R282). -/
def execBarw (d a b : Nat) (s : State) : Res :=
  issue (.barw d a b) s (fun s => onHandle (s.rd a) b (some 0) true s (fun k s =>
    match s.arrivedAt k with
    | some n => selfWait .sync d (arrive k n s.th.tid s.bit true) s
    | none => result d (wd (s.coreNode k).ph) s))

/-- The node at which the thread in focus holds the grant of token `k` (R126), which GO may have left since (R44). -/
def State.grantNode (s : State) (k : Nat) : Option Nat :=
  (s.obj k).bind (fun o => (o.nodes.find? (fun p => decide (p.2.grant = some s.th.tid))).map (·.1))

/-- Whether the thread in focus holds the grant of token `k` (R126). -/
def State.holder (s : State) (k : Nat) : Bool := s.th.grants.contains k && (s.grantNode k).isSome

/-- TOKA (R125, R364, R365). -/
def execToka (d a b : Nat) (s : State) : Res :=
  issue (.toka d a b) s (fun s => onHandle (s.rd a) b (some 1) true s (fun k s => afterVerdicts s (fun s =>
    if s.holder k then result d 0 s
    else afterStores true s (
      selfWait .sync d (fun s => grantToken k s.eid (s.modNode k s.eid (fun x => { x with tokq := x.tokq ++ [s.th.tid] })))))))

/-- TOKR (R125, R126, R364). -/
def execTokr (d a b : Nat) (s : State) : Res :=
  issue (.tokr d a b) s (fun s => onHandle (s.rd a) b (some 1) true s (fun k s =>
    if s.holder k then afterStores true s (fun s =>
      let s := s.modT (fun t => { t with grants := t.grants.filter (fun g => decide (g ≠ k)) })
      { result d 0 (syncAcquire b s.th.tid (passToken k ((s.grantNode k).getD s.eid) s)) with passed := true })
    else result d 1 s))

/-- STEP (R127, R357). -/
def execStep (d a b : Nat) (s : State) : Res :=
  issue (.step d a b) s (fun s => onHandle (s.rd a) b (some 2) true s (fun k s => afterVerdicts s (fun s => afterStores true s (
    selfWait .sync d (fun s => stepNode k s.eid (s.modNode k s.eid (fun x => { x with waits := x.waits ++ [(s.th.tid, s.bit, true)] })))))))

/-- STEPR (R127, R357). -/
def execStepr (d a b : Nat) (s : State) : Res :=
  issue (.stepr d a b) s (fun s => onHandle (s.rd a) b (some 2) true s (fun k s =>
    result d (s.seen (wd (s.coreNode k).c)) s))

/-- Whether a thread has a verdict to come at a scope (R130). -/
def State.pendAt (s : State) (t : Thread) (scope : Nat) : Bool :=
  t.pend.any (fun p => ((s.obj p.2).map (fun o => decide (o.scope = scope))).getD false)

/-- Whether confirmed stores of a team have still to take effect, for an object of the station and scope `st` = station * 8 +
scope of launch `lk`: they drain, or their team's verdict is on its way (R109). -/
def State.drainsAt (s : State) (lk st : Nat) : Bool :=
  s.save.etlets.any (fun p =>
    (p.2.buf ++ p.2.posted).any (fun x => decide (x.dobj ≠ 0 ∧ (x.dobj - 1) / 4096 = st ∧ x.launch = lk ∧ x.done = 0)) ||
    p.2.kernels.any (fun k => decide (k.2.launch = lk) && k.2.ckpt.bounds.any (fun b => decide (b.object / 4096 = st) &&
      (s.obj b.object).any (fun o => o.decisions.any (fun d => decide (d.id = b.dec ∧ d.verdict = some true))))))

/-- Whether SOUND at a scope waits for the thread in focus (R109, R130). -/
def State.soundWaits (s : State) (b : Nat) : Bool := s.pendAt s.th b || s.drainsAt s.lkey (s.indexAt b * 8 + b)

/-- SOUND (R130, R355). -/
def execSound (d b : Nat) (s : State) : Res :=
  issue (.sound d b) s (fun s => noHandler s (fun s =>
    if s.soundWaits b then waitFor (.sound b) d s
    else result d s.th.foul (syncAcquire b s.th.tid s)))

/-- The threads in SOUND for which nothing is left to wait for return (R130); a benched one's wake is held (R43). -/
def soundWakes (s : State) : State :=
  if !s.everyThread.any (fun t => match t.st with | .waiting (.sound _) => true | _ => false) then s
  else
    let s := eachEtlet (fun _ => true) (eachSlot (fun t => match t.st with | .waiting (.sound _) => true | _ => false) (fun s =>
      match s.th.st with
      | .waiting (.sound b) => if s.soundWaits b then s else finish (some s.th.foul) (syncAcquire b s.th.tid s)
      | _ => s)) s
    eachEtlet (fun _ => true) (fun s => s.etl.kernels.foldl (fun s p => (s.teamBenched p.1).foldl (fun s t =>
      match t.st with
      | .waiting (.sound b) =>
        if s.pendAt t b ∨ s.heldWake t.tid ∨
            s.drainsAt t.lk (({ s with slot := 64, thr := some { t with kid := p.1 } } : State).indexAt b * 8 + b) then s
        else wake t.tid (some t.foul) (if 4 ≤ b then s.acquire (dieOf s.eid) else s) b
      | _ => s) s) s) s

/-! ### Messages (R121) -/

/-- Removes message `n`. -/
def takeMsg (n : Nat) (s : State) : State := { s with smsgs := s.smsgs.eraseIdx n }

/-- COMPLETION_REPORT (R121 rule 2). (DEDUCED, log 36) -/
def execCompletionReport (n : Nat) (s : State) : Res :=
  .next (match s.smsgs[n]? with
    | some (.report k c _) =>
      if (s.smsgs.take n).any (fun m => match m with | .report k' c' _ => decide (k' = k ∧ c' = c) | _ => false) then s
      else report k c (takeMsg n s)
    | _ => s)

/-- PHASE_MESSAGE (R121 rules 4 and 5). -/
def execPhaseMessage (n : Nat) (s : State) : Res :=
  .next (match s.smsgs[n]? with
    | some (.phase k c ph dec) =>
      if (s.smsgs.take n).any (fun m => match m with | .phase k' c' _ _ => decide (k' = k ∧ c' = c) | _ => false) then s
      else
        let s := takeMsg n s
        match s.obj k with
        | none => s
        | some o => if (kget o.nodes c).isSome ∧ (o.node c).absent = false ∧ ph = ((o.node c).ph + 1) % 4 then rule2 k c (adopt k c ph dec true s) else s
    | _ => s)

/-- TOKEN_PASS (R125): a privileged node grants to its waiter, or passes the privilege when it has none. -/
def execTokenPass (obj st : Nat) (s : State) : Res :=
  .next (match s.obj obj with
    | none => s
    | some o =>
      if o.kind = 1 ∧ o.priv st ∧ (o.node st).grant = none then
        if (o.node st).tokq = [] then passToken obj st s else grantToken obj st s
      else s)

/-- STEP_ADVANCE (R127). -/
def execStepAdvance (obj st : Nat) (s : State) : Res :=
  .next (match s.obj obj with
    | none => s
    | some o => if o.kind = 2 ∧ (kget o.nodes st).isSome then stepNode obj st s else s)

/-! ### Rounds (R117 to R119, R123 to R128) -/

/-- The length of a round (Table 6.6). -/
def roundLen (scope : Nat) : Nat :=
  match scope with
  | 1 => 8
  | 2 => 64
  | 3 => 512
  | 4 => 2048
  | 5 => 16384
  | _ => 131072

/-- Whether the rounds of a station pause, because it is under test (R349). -/
def State.stationTested (s : State) (n : Nat) : Bool :=
  let d := dieOf n
  (decide (n = stationEid d 64) || decide (n = stationEid d 65)) && s.tested (d / 4) (0x80 + d % 4)

/-- SYNC_ROUND_START (R117, R123): at the first cycle of a round of station `st / 8` at scope `st % 8`. (DEDUCED, log 82) -/
def execSyncRoundStart (st : Nat) (s : State) : Res :=
  .next (
    let r := (kgetD s.stations st {}).roundAt
    if s.now < r + roundLen (st % 8) ∨ s.stationTested (st / 8) then s
    else
      let s := s.modSt st (fun x => { x with roundAt := s.now })
      s.objs.foldl (fun s p =>
        if p.2.scope = st % 8 ∧ (kget p.2.nodes (st / 8)).isSome ∧ (p.2.node (st / 8)).absent = false then correct p.1 (st / 8) s
        else s) s)

/-- The decision's verdict at a round end, if it is due (R124, R126, R127): a release's rests on the tree at the end of the
deciding round. -/
def SyncObj.judge (s : State) (o : SyncObj) (d : Decision) : Decision :=
  if d.verdict.isSome then d
  else match o.kind with
    | 0 =>
      let tree := d.tree.getD (o.treesOk s)
      { d with tree := some tree, verdict := if s.now < d.made + 2 then none else some (d.ok && tree) }
    | 1 => { d with verdict := some (d.ok && decide (o.privs = 1)) }
    | _ => { d with verdict := some o.clockOk }

/-- The verdicts on object `k` that have not been sent to their threads, which may have ended since (R124). -/
def State.verdictsFor (s : State) (k : Nat) (o : SyncObj) : List SyncMsg :=
  let sent := fun (tid dec : Nat) => s.smsgs.any (fun m => match m with | .verdict t k' _ d _ => decide (t = tid ∧ k' = k ∧ d = dec) | _ => false)
  o.decisions.flatMap (fun d => match d.verdict with
    | none => []
    | some v =>
      (((s.everyThread.filter (fun t => t.pend.contains (d.id, k))).map (·.tid) ++ d.left.map (·.1)).filter (fun t => !sent t d.id)).map
        (fun t => SyncMsg.verdict t k o.scope d.id v))

/-- An object at its umpire's round end: verdicts, then the reset of an illegitimate token (R124 to R127). -/
def umpire (k : Nat) (s : State) : State :=
  match s.obj k with
  | none => s
  | some o =>
    let o := { o with decisions := o.decisions.map (o.judge s) }
    let s := s.modObj k (fun _ => o)
    let s := { s with smsgs := s.smsgs ++ s.verdictsFor k o }
    if o.kind = 1 ∧ o.privs ≠ 1 then
      let x := (o.node (o.order.headD o.home)).x
      s.modObj k (fun o => { o with nodes := kmap o.nodes (fun n => { n with x := x }) })
    else s

/-- Lets SFREE of object `k` go on, everywhere, once no verdict of it is to come (R354). -/
def objectWakes (k : Nat) (s : State) : State :=
  if s.verdictsPending k then s
  else wakeBenched (fun t => decide (t.st = .waiting (.sfree k))) (eachEtlet (fun _ => true) (readyWhere (fun w => decide (w = .sfree k))) s)

/-- UMPIRE_ROUND_END (R117, R124 to R128): at the last cycle of a round of station `st / 8` at scope `st % 8`. -/
def execUmpireRoundEnd (st : Nat) (s : State) : Res :=
  .next (
    let r := kgetD s.stations st {}
    if s.now + 1 < r.roundAt + roundLen (st % 8) ∨ r.roundAt < r.endAt ∨ s.stationTested (st / 8) then s
    else
      let here := s.objs.filter (fun p => decide (p.2.home = st / 8 ∧ p.2.scope = st % 8))
      let lks := (here.map (·.2.launch)).eraseDups
      let good := fun (lk : Nat) => here.all (fun p => decide (p.2.launch ≠ lk) || p.2.legit s)
      let s := s.modSt st (fun x => lks.foldl (fun x lk =>
        { x with legit := kput x.legit lk (good lk), bad := if good lk then x.bad else kmod x.bad lk 0 (fun n => min 0xFFFFFFFF (n + 1)) })
        { x with endAt := s.now + 1, legit := [] })
      here.foldl (fun s p => objectWakes p.1 (umpire p.1 s)) s)

/-! ### Verdicts (R124, R126, R127, R129, R133, R135) -/

/-- A boundary's verdict reaches its etlet team (R133): the focus stands on the thread. A denied one's contexts are the
checkpoint to go back to. -/
def boundary (k dec : Nat) (ok : Bool) (s : State) : State :=
  let c := s.kern.ckpt
  match c.bounds.find? (fun b => decide (b.object = k ∧ b.dec = dec)) with
  | none => s
  | some b =>
    let rest := c.bounds.filter (fun x => decide (x.dec ≠ dec))
    if ok then
      let keep := ((rest.filter (fun x => decide (b.epoch < x.epoch))).head?.map (·.epoch)).getD (c.epoch + 1)
      (drainHeld s.th.kid (k + 1) (fun h => decide (h.epoch < b.epoch)) s).modK (fun kr => { kr with ckpt := { kr.ckpt with
        saved := some b.ctx, cut := b.epoch, scope := b.scope, bounds := rest, lapsed := false, reason := 0,
        undo := c.undo.filter (fun u => decide (keep ≤ u.epoch)), rolled := 0 } })
    else s.modK (fun kr => { kr with ckpt := { kr.ckpt with
      bounds := rest, scope := b.scope, saved := if c.saved.isSome then some b.ctx else none, cut := b.epoch } })

/-- Lets the waits go that verdicts end, everywhere; a benched thread's wake is held (R43, R226). -/
def verdictWakes (k : Nat) (s : State) : State :=
  let go := fun (s : State) => s.modT (fun t => { t with st := .ready, wokenAt := some s.now })
  let free := fun (t : Thread) => decide (t.st = .waiting .verdict) && t.pend.isEmpty
  let s := wakeBenched free (objectWakes k s)
  let s := eachEtlet (fun _ => true) (fun s =>
    let s := eachSlot (fun t => free t || decide (t.st = .waiting .ckptOff && !s.teamPending t.kid)) go s
    s.etl.kernels.foldl (fun s p =>
      if s.teamPending p.1 then s
      else wakeBenched (fun t => decide (t.st = .waiting .ckptOff ∧ t.lk = p.2.launch ∧ t.teamix.toNat / 64 = p.2.vix)) s) s) s
  soundWakes s

/-- The grant under decision `dec` of token `k` ends (R126). -/
def endGrant (k dec : Nat) (s : State) : State :=
  match s.obj k with
  | none => s
  | some o =>
    o.nodes.foldl (fun s p => if p.2.grant.isSome ∧ p.2.gdec = dec then
        modTid (p.2.grant.getD 0) (fun t => { t with grants := t.grants.filter (fun g => decide (g ≠ k)) })
          (s.modNode k p.1 (fun x => { x with grant := none }))
      else s) s

/-- VERDICT_DELIVERY (R124, R126, R127, R129): a verdict reaches a thread, or what it has left behind. Where a rollback has
undone the release already, the thread's FOUL is recorded with it. (DEDUCED, log 138) -/
def execVerdictDelivery (n : Nat) (s : State) : Res :=
  .next (match s.smsgs[n]? with
    | some (.verdict tid k scope dec ok) =>
      let s := takeMsg n s
      let had := s.everyThread.any (fun t => decide (t.tid = tid) && t.pend.contains (dec, k))
      let gone := ((s.obj k).map (fun o => (o.decisions.flatMap (fun d => if d.id = dec then d.left else [])).find? (fun x => decide (x.1 = tid)))).getD none
      let s := s.modObj k (fun o => { o with decisions := o.decisions.map (fun d =>
        if d.id = dec then { d with left := d.left.filter (fun x => decide (x.1 ≠ tid)) } else d) })
      let s := modTid tid (fun t => { t with
        pend := t.pend.filter (fun p => decide (p ≠ (dec, k))), foul := if ok then t.foul else t.foul ||| wd (2 ^ (scope - 1)) }) s
      let s := if ok then s else endGrant k dec s
      let here := fun (f : State → State) (s : State) => match s.whereTid tid with
        | some (e, l) => within e l f s
        | none => match s.standing tid with
          | some (e, t) => within e (if e = s.eid then s.slot else 64) (fun s =>
              match s.etl.kernels.find? (fun p => decide (p.2.launch = t.lk)) with
              | some p =>
                let r := f { s with slot := 64, thr := some { t with kid := p.1 } }
                { r with slot := s.slot, thr := s.thr }
              | none => s) s
          | none => s
      let s := if had then here (boundary k dec ok) s else s
      let s := (match s.whereTid tid with
        | some (e, l) => within e l (verdictWakes k) s
        | none => verdictWakes k s)
      if ok then s
      else
        let lk := ((s.obj k).map (·.launch)).getD 0
        let h := ((s.obj k).map (fun o => o.handle k)).getD 0
        let at_ := (gone.map (fun x => x.2)).getD (s.eid, (((s.standing tid).map (·.2.rank)).getD 0))
        if (s.standing tid).isNone ∧ gone.isNone then s
        else raiseEvent lk tid at_.1 at_.2 { code := cFoul, eval := h, info := scope } s (!had)
    | _ => s)

/-- What a thread that ends leaves of the verdicts it has not had (R124). -/
def leaveVerdicts (t : Thread) (e : Nat) (s : State) : State :=
  t.pend.foldl (fun s p => s.modObj p.2 (fun o => { o with decisions := o.decisions.map (fun d =>
    if d.id = p.1 then { d with left := d.left ++ [(t.tid, e, t.rank)] } else d) })) s

/-- ROLLBACK_RESUME (R135 step 5): the rolled-back threads of kernel `kid` of etlet `e`. -/
def execRollbackResume (e kid : Nat) (s : State) : Res :=
  atE e s (eachSlot (fun t => decide (t.kid = kid)) (fun s =>
    match s.th.st with
    | .waiting (.rollback b) => if s.legitAt b then s.modT (fun t => { t with st := .ready, wokenAt := some s.now }) else s
    | _ => s))

/-! ### Absent members (R119) -/

/-- The nodes of the subtree of node `n` that the hierarchy fixes. -/
def SyncObj.below (o : SyncObj) (n : Nat) : List Nat :=
  (o.nodes.filter (fun p => p.1 == n || (o.node p.1).up == some n || ((o.node p.1).up.bind (fun q => (o.node q).up)) == some n ||
    (((o.node p.1).up.bind (fun q => (o.node q).up)).bind (fun q => (o.node q).up)) == some n)).map (·.1)

/-- MEMBER_ABSENT (R119): station `st / 8`, which has sent nothing at scope `st % 8` for 2 rounds, counts as absent, with what the hierarchy
places below it; their participants leave every population as EXIT would. (DEDUCED, log 81) -/
def execMemberAbsent (st : Nat) (s : State) : Res :=
  .next (
    if s.now < (kgetD s.stations st {}).roundAt + 3 * roundLen (st % 8) then s
    else s.objs.foldl (fun s p =>
      let n := st / 8
      match s.obj p.1 with
      | none => s
      | some o =>
        if o.scope = st % 8 ∧ (kget o.nodes n).isSome ∧ (o.node n).absent = false then
          let out := o.below n
          let s := s.modObj p.1 (fun o => { o with nodes := o.nodes.map (fun q =>
            if out.contains q.1 then
              (q.1, { q.2 with
                absent := true, gone := if classOf q.1 = 0 then List.range o.t else q.2.gone, waits := [], tokq := [], arr := 0, cnt := 0, rep := none })
            else q) })
          let s := (out.filter (fun q => (o.node q).grant.isSome)).foldl (fun s q => passToken p.1 q s) s
          match o.par n with
          | none => s
          | some q =>
            let b := o.childIx q n
            let had := (BitVec.ofNat 64 (o.node q).arr).getLsbD b
            let s := s.modNode p.1 q (fun y => { y with
              arr := if had then y.arr - 2 ^ b else y.arr, cnt := if had ∧ o.kind = 0 then (y.cnt + 255) % 256 else y.cnt })
            if o.kind = 0 then rule2 p.1 q s else s
        else s) s)

end Sys2Proof.Machine
end

