-- ==== Sys2Proof/Machine/Plat.lean ====
section
/-! DEFINITION. The platform: boot and readiness, retired rows, self-tests and lasting faults, undervolting, power,
page heat, migration, translation invalidation, loop stops (R15, R90 to R94, R231, R240, R241, R244, R245, R247 to R249,
R349, R383, R384). -/

namespace Sys2Proof.Machine

/-! ### Readiness (R240, Table 12.4) -/

/-- The die of a package that holds function `f`: READY bit `f` below 64, cluster `f` - 64, die `f` - 320. -/
def functionDie (f : Nat) : Nat :=
  if f < 16 then f / 4 else if f < 20 then f - 16 else if f < 56 then (f - 20) / 9 else if f < 60 then f - 56
  else if f < 64 then f - 60 else if f < 320 then (f - 64) / 64 else f - 320

/-- Sets or clears READY bit `f` of a package. -/
def Pkg.setReady (k : Pkg) (f : Nat) (v : Bool) : Pkg :=
  let b := if v then 1 else 0
  if f < 64 then { k with ready := setBits k.ready f 1 b }
  else if f < 320 then { k with clusters := kmod k.clusters ((f - 64) / 64) 0 (fun w => setBits w ((f - 64) % 64) 1 b) }
  else { k with dies := (setBits (wd k.dies) (f - 320) 1 b).toNat }

/-- Whether READY bit `f` of a package is set. -/
def Pkg.isReady (k : Pkg) (f : Nat) : Bool :=
  if f < 64 then k.ready.getLsbD f
  else if f < 320 then (kgetD k.clusters ((f - 64) / 64) 0).getLsbD ((f - 64) % 64)
  else (wd k.dies).getLsbD (f - 320)

/-- How the boot of a die ended (R244): 2 where die 0 could not read the flash for all four, 1 where a check failed. -/
def State.bootOf (s : State) (p d : Nat) : Nat :=
  let k := s.pkg p
  if Config.bootResult k.boot (4 * p) k.booted = 2 then 2 else if Config.bootResult k.boot (4 * p + d) k.booted = 0 then 0 else 1

/-- A measurement register extended with a stage's digest: SHA-256(old || digest) (R245). -/
def extendMeas (old digest : Nat) : Nat := sha256 (beBytes 32 old ++ beBytes 32 digest)

/-- FUNCTION_READY (R240, R244, R245): once its firmware passed, a function sets its bit; a die's measurement registers are
extended as its stages load. Where a die's check failed, STATE reads 2. (DEDUCED, log 108) -/
def execFunctionReady (p f : Nat) (s : State) : Res :=
  .next (
    let d := functionDie f
    if 324 ≤ f ∨ (s.pkg p).isReady f then s
    else if s.bootOf p d = 1 then s.modPkg p (fun k => { k with state := 2 })
    else if s.bootOf p d ≠ 0 then s
    else
      let s := s.modPkg p (fun k => { k.setReady f true with state := if 320 ≤ f ∧ k.state = 0 then 1 else k.state })
      if 320 ≤ f ∧ (kget s.pkgs p).isSome then
        s.modDie (4 * p + d) (fun x => { x with
          meas := (List.range 4).map (fun i =>
            extendMeas (x.meas.getD i 0) (Config.stageDigest (s.pkg p).boot (4 * p + d) i (s.pkg p).booted)) })
      else s)

/-- POWER_ON_RESET (R241, R244, R93): every register takes its reset value, what the flash holds stays, the retirement
table is applied, and every die boots. -/
def execPowerOnReset (s : State) : Res :=
  .next (
    let boot := s.free
    let fresh := fun (p : Nat × Pkg) =>
      let k : Pkg := { flash := p.2.flash, booted := p.2.flash, retireTable := p.2.retireTable, retired := p.2.retireTable.flatMap rowPages, boot := boot }
      let res := fun (d : Nat) => Config.bootResult boot (4 * p.1 + d) p.2.flash
      (p.1, { k with state := if decide (res 0 ≠ 2) && (List.range 4).any (fun d => decide (res d ≠ 0)) then 2 else 0 })
    { pkgs := s.pkgs.map fresh, links := s.links, domains := kmap s.domains (fun d => { switches := d.switches }),
      now := s.now, phase := s.phase, poked := s.poked, passed := s.passed, agenda := s.agenda, nextTid := s.nextTid, free := s.free + 1 })

/-- Resets the etlets that `mine` names, whose threads end; the scratchpads keep the last kernel's bytes (R89). -/
def resetEtlets (mine : Nat → Bool) (s : State) : State :=
  let s := eachEtlet mine (fun s => (s.etl.kernels.map (·.2.launch)).foldl (fun s lk => endOnEtlet lk s) s) s
  { s with etlets := s.etlets.map (fun (p : Nat × Etlet) => if mine p.1 then (p.1, { lastKey := p.2.lastKey }) else p),
           etl := if mine s.eid then { lastKey := s.etl.lastKey } else s.etl, thr := if mine s.eid then none else s.thr }

/-- The sync cells of the stations and core members that `mine` names are zero, no thread waits there, and their legitimacy flags and counts
take their reset values (R128, R241). -/
def resetCells (mine : Nat → Bool) (s : State) : State :=
  { s with
    objs := kmap s.objs (fun o => { o with nodes := o.nodes.map (fun (p : Nat × Node) =>
      if mine p.1 then (p.1, { up := p.2.up, gone := p.2.gone, absent := p.2.absent, parent := if p.1 = 0 then none else some 0 }) else p) }),
    stations := s.stations.map (fun (p : Nat × Station) => if mine (p.1 / 8) then (p.1, { p.2 with legit := [], bad := [] }) else p) }

/-- Resets the etlets of a cluster, its slice and its sync station. -/
def resetCluster (c : Nat) (s : State) : State :=
  (resetCells (fun n => decide (clusterOf n = c) && (decide (classOf n = 0) || decide (n = stationEid (c / 64) (c % 64))))
    (resetEtlets (fun e => decide (clusterOf e = c ∧ classOf e = 0)) s)).modCl c (fun _ => {})

/-- The undervolting of a die's five power domains takes its reset values (Table 12.7). -/
def Pkg.resetUv (k : Pkg) (d : Nat) : Pkg :=
  { k with uvEn := (setBits (wd k.uvEn) (5 * d) 5 31).toNat, uvFrozen := (setBits (wd k.uvFrozen) (5 * d) 5 0).toNat,
           uv := k.uv.filter (fun u => decide (u.1 / 5 ≠ d)) }

/-- FRESET's effect: function `f` of package `p` takes its reset state, its READY bit clear; measurement registers stay (R239,
R241, R245). A stack and a CXL port have no register of their own: their READY bit is all. -/
def resetFunction (p f : Nat) (s : State) : State :=
  let s := s.modPkg p (fun k => k.setReady f false)
  if f < 20 then s
  else if f < 56 then s.modPkg p (fun k => { k with ports := kdel k.ports (f - 20) })
  else if f < 60 then s.modDie (4 * p + (f - 56)) (fun d => { d with ueNext := 1, ueSend := [], ueRecv := [], ueRecs := [], ueResent := 0, uePeers := [], ueRegions := [] })
  else if f < 64 then resetCells (fun n => decide (n = stationEid (4 * p + (f - 60)) 64 ∨ (f = 60 ∧ n = stationEid (4 * p) 65))) s
  else if f < 320 then resetCluster (p * 256 + (f - 64)) s
  else if f < 324 then
    let d := 4 * p + (f - 320)
    let s := s.modPkg p (fun k => k.resetUv (f - 320))
    let s := loop (fun i s => resetCluster (d * 64 + i) s) 0 64 s
    let s := resetEtlets (fun e => decide (dieOf e = d ∧ classOf e = 1)) s
    s.modDie d (fun x => { meas := x.meas })
  else s

/-! ### Retired rows and lasting faults (R93, R231, Table 11.12) -/

/-- Retires the row of a page, with every page that holds part of it: it adds an entry, or sets TABLEFULL when the table is full (R93). -/
def Pkg.retire (k : Pkg) (page : Nat) : Pkg :=
  if k.retired.contains page then k
  else
    let k := { k with retired := k.retired ++ (rowPages page).filter (fun p => !k.retired.contains p) }
    if k.retireTable.length < 1024 then { k with retireTable := k.retireTable ++ [page] } else { k with tableFull := true }

/-- Ends the thread in focus with a DABORT event from the etlet-team level. -/
def dabortEnd (s : State) : State :=
  if s.thr.isNone then s
  else
    let w : Who := ⟨s.lkey, s.th.tid, s.eid, s.th.rank, s.lnch.policy, false, false⟩
    policyRun w { code := cDabort } false 7 1 (killThread s)

/-- A slice and its cluster leave the core map. -/
def failCluster (c : Nat) (s : State) : State :=
  let s := eachEtlet (fun e => decide (clusterOf e = c ∧ classOf e = 0)) (eachSlot (fun _ => true) dabortEnd) s
  s.modCl c (fun x => { x with
    out := true, l2 := [],
    badLines := x.badLines ++ (x.l2.map (·.1)).filter (fun l => !Config.lineReadsBack s.free l) })

/-- An etlet leaves the core map (Table 11.12). -/
def failEtlet (e : Nat) (s : State) : State :=
  (eachEtlet (fun x => decide (x = e)) (eachSlot (fun _ => true) dabortEnd) s).modEt e (fun x => { x with out := true })

/-- What a lasting fault of a unit does (Table 11.12); the units of Table 22.3 that it does not list have no action.
(DEDUCED, log 118) -/
def lastingFault (die u : Nat) (gpa : Option Nat) (s : State) : State :=
  let p := die / 4
  let (n, s) := s.fresh
  if u < 16 then
    let page := match gpa with
      | some g => g / 65536 * 65536
      | none => p * 2 ^ 47 + u / 4 * 2 ^ 38 + Config.failedPage n u % 3906250 * 65536
    s.modPkg p (fun k => k.retire page)
  else if 0x10 ≤ u ∧ u ≤ 0x33 then
    changePort p (u - 0x10) (fun q => { q with
      state := if q.state = 3 then 3 else 0, lanes := (BitVec.ofNat 4 q.lanes &&& ~~~(BitVec.ofNat 4 (2 ^ (Config.failedLane n u % 4)))).toNat }) s
  else if 0x40 ≤ u ∧ u ≤ 0x7F then
    (match (gpa.filter (fun g => regionOf g = 2)).map scratchOwner with
     | some e => failEtlet e s
     | none => failCluster (die * 64 + (u - 0x40)) s)
  else s

/-! ### The test engine (R231, R242, R349) -/

/-- Whether Table 22.3 lists the unit. -/
def unitExists (u : Nat) : Bool :=
  decide (u ≤ 0x33 ∨ (0x38 ≤ u ∧ u ≤ 0x7F) ∨ (0x80 ≤ u ∧ u ≤ 0x83))

/-- The READY bit of a unit, for a test engine of die `die`. -/
def unitReady (k : Pkg) (die u : Nat) : Bool :=
  if u < 16 then k.isReady u
  else if u ≤ 0x33 then k.isReady (20 + (u - 0x10))
  else if u ≤ 0x3B then k.isReady (16 + (u - 0x38))
  else if u ≤ 0x3F then k.isReady (56 + (u - 0x3C))
  else if u ≤ 0x7F then k.isReady (64 + die % 4 * 64 + (u - 0x40))
  else k.isReady (60 + (u - 0x80))

/-- Starts a test if the die's engine is free and the unit exists; a port under test is in TRAINING. -/
def startTest (die u : Nat) (gpa tid : Option Nat) (s : State) : State :=
  if (kgetD s.dies die {}).testUnit.isSome ∨ unitExists u = false then s
  else
    let s := s.modDie die (fun d => { d with testUnit := some u, testGpa := gpa, testTid := tid })
    if gpa.isNone ∧ 0x10 ≤ u ∧ u ≤ 0x33 then
      changePort (die / 4) (u - 0x10) (fun q => { q with state := 0 }) s
    else s

/-- The self-test that an error of a unit starts: at once, or when the die's test engine is free (R231). -/
def testSoon (die u gpa : Nat) (s : State) : State :=
  if unitExists u = false then s
  else if (kgetD s.dies die {}).testUnit.isSome then s.modDie die (fun d => { d with testsDue := d.testsDue ++ [(u, gpa)] })
  else startTest die u (some gpa) none s

/-- STEST_START (R242): ignored while the engine is busy. -/
def execStestStart (die u : Nat) (s : State) : Res := .next (startTest die u none none s)

/-- SELF_TEST_COMPLETE (R231, R349): data that its line's test has seen is withheld no longer, and the next test that is due starts. -/
def execSelfTestComplete (die : Nat) (pass : Bool) (s : State) : Res :=
  .next (
    let d := kgetD s.dies die {}
    match d.testUnit with
    | none => s
    | some u =>
      let s := s.modDie die (fun x => { x with
        testUnit := none
        testGpa := none
        testTid := none
        testFailed := !pass
        failing := x.failing.filter (fun l => decide (d.testGpa.map (· / 64) ≠ some l))
        testsDue := x.testsDue.drop 1 })
      let s := match d.testTid with
        | some t => wake t (some (if pass then 0 else 1)) s
        | none => s
      let s := if pass then s else lastingFault die u d.testGpa s
      reachWakes (match d.testsDue with
      | [] => s
      | (v, g) :: _ => startTest die v (some g) none s))

/-- SELFT (R349). (DEDUCED, log 107) -/
def execSelft (d a : Nat) (s : State) : Res :=
  issue (.selft d a) s (fun s => noHandler s (fun s =>
    let v := s.rd a
    let u := bits v 7 0
    let die := dieOf s.eid
    if bits v 63 8 ≠ 0 ∨ unitExists u = false ∨ unitReady (s.pkg (pkgOf s.eid)) die u = false then result d 3 s
    else if u = 0x40 + clusterOf s.eid % 64 then result d 4 s
    else if (kgetD s.dies die {}).testUnit.isSome then result d 2 s
    else waitFor .mem d (startTest die u none (some s.th.tid) s)))

/-! ### Undervolting (R248, R249) -/

/-- Sets FROZEN; where it is lifted, the health monitor starts anew (R248, R249). -/
def Pkg.setFrozen (p : Pkg) (m : Nat) : Pkg :=
  { p with uvFrozen := m % 2 ^ 20, uv := p.uv.map (fun u => if (BitVec.ofNat 20 m).getLsbD u.1 then u else (u.1, { u.2 with raised := false })) }

/-- Freezes or unfreezes domain `k` of a package. -/
def Pkg.freeze (p : Pkg) (k : Nat) (v : Bool) : Pkg := p.setFrozen (setBits (wd p.uvFrozen) k 1 (if v then 1 else 0)).toNat

/-- UV_FREEZE (R249). -/
def execUvFreeze (pkg dom : Nat) (s : State) : Res := .next (if dom < 20 then s.modPkg pkg (fun p => p.freeze dom true) else s)

/-- UV_UNFREEZE (R249). -/
def execUvUnfreeze (pkg dom : Nat) (s : State) : Res := .next (if dom < 20 then s.modPkg pkg (fun p => p.freeze dom false) else s)

/-- UV_ENABLE_WRITE (R249): it takes effect at the domain's next step decision. -/
def execUvEnableWrite (pkg dom : Nat) (en : Bool) (s : State) : Res :=
  .next (if dom < 20 then s.modPkg pkg (fun p => { p with uvEn := (setBits (wd p.uvEn) dom 1 (if en then 1 else 0)).toNat }) else s)

/-- UV_STEP (R248, R249): a step decision of a domain; a domain that is not enabled returns to full guardband, a frozen one
stays. (DEDUCED, log 117) -/
def execUvStep (pkg dom : Nat) (down : Bool) (s : State) : Res :=
  .next (if dom < 20 then s.modPkg pkg (fun p =>
    if !(wd p.uvEn).getLsbD dom then { p with uv := kmod p.uv dom {} (fun u => { u with step := 0 }) }
    else if (wd p.uvFrozen).getLsbD dom then p
    else { p with uv := kmod p.uv dom {} (fun u => { u with step := if down then u.step + 1 else u.step - 1 }) }) else s)

/-- Cycles over which the health monitor measures an error rate (R248). (DESIGN CHOICE, log 154) -/
def errorWindow : Nat := 2 ^ 20

/-- Whether the corrected errors of domain `k` in the window that ends now pass its threshold (R248). -/
def Uv.exceeds (v : Uv) (k now : Nat) : Bool :=
  decide (Config.errorThreshold k < (v.errors.filter (fun c => decide (now < c + errorWindow))).length)

/-- UV_MEASURE_END (R248), 2^20 cycles after the measurement began: the failure count advances only if the threshold is exceeded at full
guardband; `exceeded` says whether the errors counted exceed it, and an event that says otherwise of them is none. -/
def execUvMeasureEnd (pkg dom : Nat) (exceeded : Bool) (s : State) : Res :=
  .next (s.modPkg pkg (fun p =>
    let v := kgetD p.uv dom {}
    match v.measuring with
    | some c =>
      if s.now < c + errorWindow ∨ exceeded ≠ v.exceeds dom s.now then p
      else { p with uv := kput p.uv dom { v with measuring := none, errors := [], failures := if exceeded ∧ v.step = 0 then v.failures + 1 else v.failures } }
    | none => p))

/-- The power domain of a unit's error, within its package: a slice's group, for an address of a scratchpad the die's core arrays; the other
units lie in none (R248, R249). -/
def unitDomain (die u gpa : Nat) : Option Nat :=
  if 0x40 ≤ u ∧ u ≤ 0x7F then some (5 * (die % 4) + (if regionOf gpa = 2 then 0 else 1 + (u - 0x40) / 16)) else none

/-- A corrected error counts in its domain; past the threshold the monitor freezes the domain and raises the voltage one
step, and if the rate still exceeds it, restores full guardband and measures (R248). -/
def healthMonitor (die u gpa : Nat) (s : State) : State :=
  match unitDomain die u gpa with
  | none => s
  | some k =>
    s.modPkg (die / 4) (fun p =>
      let v := kgetD p.uv k {}
      let v := { v with errors := v.errors.filter (fun c => decide (s.now < c + errorWindow)) ++ [s.now] }
      if !v.exceeds k s.now ∨ v.measuring.isSome then { p with uv := kput p.uv k v }
      else if v.raised then { p with uv := kput p.uv k { v with step := 0, errors := [], measuring := some s.now } }
      else let p := p.freeze k true
        { p with uv := kput p.uv k { v with step := v.step - 1, errors := [], raised := true } })

/-- ERROR_DETECTED (R231, R248): a corrected error is only counted; an uncorrected one raises the error interrupt, withholds
the line, and aborts the requests that wait for it, those of FAGG groups too; either is followed by a targeted self-test. -/
def execErrorDetected (die u gpa : Nat) (corrected : Bool) (s : State) : Res :=
  .next (
    let s := if corrected then healthMonitor die u gpa (s.modDie die (fun d => { d with corrected := d.corrected + 1 }))
      else
        let s := s.modDie die (fun d => { d with irq := true, failing := if unitExists u then gpa / 64 :: d.failing else d.failing })
        eachEtlet (fun _ => true) (fun s => s.modE (fun e => { e with
          reqs := kmap e.reqs (fun r => if r.gpa / 64 = gpa / 64 ∧ r.reply = none then { r with reply := some .abort } else r),
          posted := e.posted.map (fun p => if p.gpa / 64 = gpa / 64 ∧ p.done = 0 then { p with done := 2 } else p),
          fagg := e.fagg.map (fun g => if g.gpa / 64 = gpa / 64 ∧ g.sent.isSome ∧ g.reply = none then { g with reply := some .abort } else g) })) s
    testSoon die u gpa s)

/-! ### Power, page heat, loop stops (R15, R90, R94, R247) -/

/-- POWER_SAMPLE (R247): a reading; a die at its allocation loses one more cycle of eight, one below it one fewer.
(DEDUCED, log 116) -/
def execPowerSample (pkg i mw : Nat) (s : State) : Res :=
  .next (
    let s := if i < 24 then s.modPkg pkg (fun p => { p with power := kput p.power i (mw % 2 ^ 32) }) else s
    if i < 8 ∧ (kget s.pkgs pkg).isSome then
      let d := i % 4
      let w := kgetD (s.pkg pkg).power d 0 + kgetD (s.pkg pkg).power (d + 4) 0
      s.modDie (4 * pkg + d) (fun x => { x with limit := if 700000 ≤ w then min 7 (x.limit + 1) else x.limit - 1 })
    else s)

/-- PAGE_HEAT_HALVE (R90). -/
def execPageHeatHalve (die : Nat) (s : State) : Res :=
  .next (s.modDie die (fun d =>
    if 2 ^ 20 ≤ d.accesses then { d with accesses := d.accesses - 2 ^ 20, heat := kmap d.heat (· / 2) } else d))

/-- The die loop that pairs rows `a` < `b` (R14), numbered 0 to 27 in the order (0, 1), (0, 2), …, (6, 7). (DESIGN CHOICE, log 139) -/
def rowLoop (a b : Nat) : Nat := a * (15 - a) / 2 + (b - a - 1)

/-- The loop that a packet from cluster `x` to cluster `y` of a die travels on (R15): the die loop of their rows, the one that pairs the row
with row XOR 1 where they share a row, the local loop, 28 + cluster, within one cluster. -/
def loopOf (x y : Nat) : Nat :=
  let a := x / 8
  let b := y / 8
  if x = y then 28 + x
  else if a = b then rowLoop (min a (a ^^^ 1)) (max a (a ^^^ 1))
  else rowLoop (min a b) (max a b)

/-- The base-die agents attached to the local loop of cluster `c` of a die (Table 1.3); the package station and the PCIe port stand on
die 0 alone. The package station has a stop of its own beside the die station's. (DESIGN CHOICE, log 156) -/
def attached (die0 : Bool) (c : Nat) : Nat :=
  (if c % 8 = 0 then 1 else 0) + (if [63, 7, 15, 27, 36].contains c then 1 else 0) + (if die0 ∧ (c = 27 ∨ c = 56) then 1 else 0)

/-- The stops of a loop of a die (R14): one of each cluster of the two rows of a die loop; of a local loop, the 16 etlets, the slice, the
station, the sweepers, the seven die loops and the agents. -/
def loopStops (die0 : Bool) (lp : Nat) : Nat := if lp < 28 then 16 else if lp < 92 then 26 + attached die0 (lp - 28) else 0

/-- Whether a die has the stop. -/
def stopExists (die lp stop : Nat) : Bool := decide (stop < loopStops (decide (die % 4 = 0)) lp)

/-- The cycle in which a stop was last woken. -/
def Die.stopAt (d : Die) (lp stop : Nat) : Nat := ((d.stopUsed.find? (fun x => decide (x.1 = lp ∧ x.2.1 = stop))).map (·.2.2)).getD 0

/-- LOOP_SLOT_RESERVE (R15). (DESIGN CHOICE, log 139) -/
def execLoopSlotReserve (die lp stop : Nat) (s : State) : Res :=
  .next (if stopExists die lp stop = false then s
    else s.modDie die (fun d => { d with reserved := if d.reserved.contains (lp, stop) then d.reserved else d.reserved ++ [(lp, stop)] }))

/-- LOOP_STOP_POWER_DOWN (R94): of a stop that has been idle for 4,096 cycles; the wake of the same cycle wins. (DEDUCED, log 123) -/
def execLoopStopPowerDown (die lp stop : Nat) (s : State) : Res :=
  .next (if stopExists die lp stop = false then s
    else s.modDie die (fun d =>
      if d.stopsOff.contains (lp, stop) ∨ s.now < d.stopAt lp stop + 4096 then d else { d with stopsOff := d.stopsOff ++ [(lp, stop)] }))

/-- LOOP_STOP_WAKE (R94): a packet wakes the stop, and a slot reserved for it is used. -/
def execLoopStopWake (die lp stop : Nat) (s : State) : Res :=
  .next (if stopExists die lp stop = false then s
    else s.modDie die (fun d => { d with
      stopsOff := d.stopsOff.filter (fun x => decide (x ≠ (lp, stop))), reserved := d.reserved.filter (fun x => decide (x ≠ (lp, stop))),
      stopUsed := (lp, stop, s.now) :: d.stopUsed.filter (fun x => !decide (x.1 = lp ∧ x.2.1 = stop)) }))

/-! ### Translation invalidation and migration (R75, R91, R383, R384) -/

/-- Whether a die lies in the reach of `from_`: 0 die, 1 package, 2 domain, 3 system (Table 23.7). -/
def inReach (reach from_ die : Nat) : Bool :=
  match reach with
  | 0 => decide (die = from_)
  | 1 => decide (die / 4 = from_ / 4)
  | 2 => decide (die / 4096 = from_ / 4096)
  | _ => true

/-- Drops the translation-cache entries that `p` accepts, in every etlet and cluster in reach. -/
def dropEntries (reach from_ : Nat) (p : TEntry → Bool) (s : State) : State :=
  let f := fun (l : List TEntry) => l.filter (fun t => !p t)
  let g := fun (e : Etlet) => { e with tcache := f e.tcache }
  { s with
    etl := if inReach reach from_ (dieOf s.eid) then g s.etl else s.etl,
    etlets := s.etlets.map (fun x => if inReach reach from_ (dieOf x.1) then (x.1, g x.2) else x),
    clusters := s.clusters.map (fun x => if inReach reach from_ (x.1 / 64) then (x.1, { x.2 with tcache := f x.2.tcache }) else x) }

/-- MIGRATION_GO (R91). -/
def execMigrationGo (die v : Nat) (s : State) : Res := .next (s.migGo die (wd v))

/-- Whether an access to a global physical address that `p` accepts is still under way from an etlet in reach: buffered, posted or
requested, held by a checkpoint, of an open FAGG group or of a bench image (R383). -/
def State.accessOut (s : State) (reach from_ : Nat) (p : Nat → Word → Nat → Bool) : Bool :=
  s.save.etlets.any (fun e => inReach reach from_ (dieOf e.1) &&
    ((e.2.buf ++ e.2.posted).any (fun x => decide (x.done = 0) && p x.gpa x.va x.key) ||
     e.2.reqs.any (fun r => r.2.reply.isNone && p r.2.gpa r.2.va r.2.key) ||
     e.2.kernels.any (fun k => k.2.ckpt.held.any (fun h => p h.gpa h.va h.key)) ||
     e.2.fagg.any (fun g => g.reply.isNone && g.members.any (fun m => p g.gpa m.va g.key)) ||
     e.2.benchW.any (fun b => ((List.range b.parts.length).zip b.parts).any (fun q => p q.2.1 (b.va + wd (b.off + 4096 * q.1)) b.key))))

/-- The migration engine writes a leaf, whatever key ID its table is under: at its home, where it counts as an access, and in the other copy
of a page under migration (R79, R82, R90, R91). -/
def State.writeLeaf (s : State) (a v : Nat) : State :=
  let cl := kgetD s.clusters (homeCluster a) {}
  let s := s.dropOthers a
  let s := if cl.l2.any (fun x => decide (x.1 = a / 64)) then s else s.heatUp a
  let s := s.modCl (homeCluster a) (fun c => { c with writes := filterAdd (a / 64) c.writes, badLines := c.badLines.filter (fun x => decide (x ≠ a / 64)) })
  let put := fun (b : Nat) (s : State) => { s with mem := loop (fun i x => memWr x (b + i) (BitVec.ofNat 8 (v / 256 ^ i))) 0 8 s.mem }
  match s.migCopy a with
  | some b => put b (put a s)
  | none => put a s

/-- MIGRATION_COMPLETE (R91): the leaf is written and its translations invalidated through the domain; once no access to SRC is under way,
SRC is released and the score counter advances. (DEDUCED, log 46) -/
def execMigrationComplete (die : Nat) (s : State) : Res :=
  .next (
    let m := (kgetD s.dies die {}).mig
    if m.busy = false then s
    else
      let n := m.bytes
      let src := m.src.toNat
      if m.moved = false then
        let a := m.entry.toNat
        let s := s.writeLeaf a m.newleaf.toNat
        dropEntries 2 die (fun t => decide (src < leafAddr t.leaf t.level 0 + pageBytes t.level ∧ leafAddr t.leaf t.level 0 < src + n))
          (s.modDie die (fun d => { d with mig := { m with moved := true } }))
      else if s.accessOut 2 die (fun g _ _ => decide (src ≤ g ∧ g < src + n)) then s
      else
        let s := s.modDie die (fun d => { d with mig := { m with busy := false, moved := false, status := 0 } })
        match s.scoreOf m with
        | some (e, c) => scAdvance e c 5 s
        | none => s)

end Sys2Proof.Machine
end

