-- ==== Sys2Proof/Machine/Csr.lean ====
section
/-! DEFINITION. The CSR instructions: CSRR, CSRW, CSRX, with every CSR of Tables 3.7 and 12.1 (R61, R62, R138, R139,
R175, R217, R242, R243, R249, R294, R295). -/

namespace Sys2Proof.Machine

/-! ### Checks (R62) -/

/-- Whether Table 3.7 lists a number below 0x80. -/
def csrListed (c : Nat) : Bool :=
  decide (c ≤ 0x0B ∨ c = 0x10 ∨ c = 0x11 ∨ (0x14 ≤ c ∧ c ≤ 0x19) ∨ (0x20 ≤ c ∧ c ≤ 0x22) ∨ c = 0x28 ∨ c = 0x29)

/-- Whether Table 3.7 marks an access in user mode as raising PRIV. -/
def csrUserPriv (c : Nat) (write : Bool) : Bool :=
  decide ((1 ≤ c ∧ c ≤ 5) ∨ c = 7) || (write && decide (c = 0 ∨ c = 0x18))

/-- The cause of a CSR access, if any. -/
def csrCause (user : Bool) (c : Nat) (write : Bool) : Option Cause :=
  if c < 0x80 then
    if csrListed c = false then some { code := cIllegal, eval := wd c, info := 2 }
    else if user ∧ csrUserPriv c write then some { code := cPriv, eval := wd c, info := 2 }
    else none
  else if user then some { code := cPriv, eval := wd c, info := 2 }
  else if 0x8B < c then some { code := cIllegal, eval := wd c, info := 2 }
  else none

/-! ### Reads -/

/-- CKPTST (Table 6.13). -/
def State.ckptst (s : State) : Word :=
  let c := s.kern.ckpt
  wd ((if c.on then 2 ^ 31 else 0) + (if c.lapsed then 2 ^ 30 else 0) + (if c.pend then 2 ^ 29 else 0) + c.reason * 2 ^ 27 +
    c.held.length * 2 ^ 16 + c.undo.length)

/-- CONVB (Table 6.9). -/
def convb : Word := wd (30 * 2 ^ 40 + 26 * 2 ^ 32 + 12 * 2 ^ 24 + 20 * 2 ^ 16 + 6 * 2 ^ 8 + 4)

/-- ROUNDLEN (Table 6.10). -/
def roundlen : Word := wd (17 * 2 ^ 25 + 14 * 2 ^ 20 + 11 * 2 ^ 15 + 9 * 2 ^ 10 + 6 * 2 ^ 5 + 3)

/-- The dispatch-log entry that the thread's SEL names. -/
def State.dlogSel (s : State) : Option DEntry := s.etl.dlog.find? (fun d => decide (d.seq = s.th.dsel))

/-- DLOGENT (R175, Table 8.15). -/
def State.dlogent (s : State) : Word :=
  match s.dlogSel with
  | none => 0
  | some d =>
    match s.th.dpart with
    | 0 => d.pc
    | 1 => wd (d.seq * 2 ^ 48 + d.slot * 2 ^ 42 + 2 ^ 41 + (match d.cause with | some c => 2 ^ 40 + c.1 * 2 ^ 32 | none => 0) + d.body)
    | 2 => (match d.cause with | some c => c.2 | none => 0)
    | _ => 0

/-- The LEND mask and the entry that SLOTIX selects (Table 12.1). -/
def State.slotent (s : State) : Word := wd (s.etl.lend * 16 + kgetD s.etl.slots s.etl.slotix 15)

/-- LRIGHT's writable bits (R243). -/
def lrightMask : Word := wd (2 ^ 63 + 3 * 2 ^ 48 + 0xFFF)

/-- DLOGSEQ.NEXT as a read in this cycle sees it: the value before a change of the same cycle (R295). -/
def Etlet.nextSeen (e : Etlet) (now : Nat) : Nat := if e.dnextAt = some now then e.dnextOld else e.dnext

/-- CSR[c] (Tables 3.7 and 12.1). -/
def State.csr (s : State) (c : Nat) : Word :=
  let t := s.th
  match c with
  | 0x00 => t.status
  | 0x01 => t.estatus
  | 0x02 => t.epc
  | 0x03 => t.ecause
  | 0x04 => t.eval
  | 0x05 => t.svec
  | 0x06 => t.fcsr
  | 0x07 => t.sscr
  | 0x08 => t.ls0
  | 0x09 => t.le0
  | 0x0A => t.ls1
  | 0x0B => t.le1
  | 0x10 => t.teamix
  | 0x11 => t.shape
  | 0x14 => kgetD t.chan 0 0
  | 0x15 => kgetD t.chan 1 0
  | 0x16 => kgetD t.chan 2 0
  | 0x17 => kgetD t.chan 3 0
  | 0x18 => t.policy
  | 0x19 => s.ckptst
  | 0x20 => s.legitBits
  | 0x21 => convb
  | 0x22 => roundlen
  | 0x28 => wd (s.etl.nextSeen s.now * 2 ^ 32 + t.dpart * 2 ^ 16 + t.dsel)
  | 0x29 => s.dlogent
  | 0x80 => wd s.etl.ksel
  | 0x81 => wd s.etl.slotix
  | 0x82 => s.slotent
  | 0x83 => ((kget s.etl.kernels s.etl.ksel).map (·.root)).getD 0
  | 0x84 => ((kget s.etl.kernels s.etl.ksel).map (·.right)).getD 0
  | 0x85 => wd s.etl.cmapix
  | 0x86 => s.etl.schedvec
  | 0x87 => s.etl.svtab
  | 0x88 => wd s.etl.keyslot
  | 0x89 => s.etl.mfqset
  | 0x8A => wd ((if s.myDie.testUnit.isSome then 2 ^ 63 else 0) + (if s.myDie.testFailed then 2 ^ 62 else 0))
  | 0x8B => wd ((s.pkg (pkgOf s.eid)).uvEn * 2 ^ 20 + (s.pkg (pkgOf s.eid)).uvFrozen)
  | _ => 0

/-! ### Writes -/

/-- A midfield quota for a key ID reaches every switch of the package's domain (Table 12.1). -/
def setQuota (pkg : Nat) (v : Word) (s : State) : State :=
  { s with domains := kmod s.domains (pkg / 1024) {} (fun d => { d with
      quota := kmod d.quota (bits v 11 0) (0, 0) (fun q => (bits v 63 32, q.2)) }) }

/-- MFQSET, the event (R242). -/
def execMfqset (pkg v : Nat) (s : State) : Res := .next (setQuota pkg (wd v) s)

/-- The writable bits of CHANk (Table 2.10). -/
def chanMask : Word := wd (2 ^ 63 + (2 ^ 38 - 8))

/-- FCSR as a write leaves it: RM values 5 to 7 store 0 (R138). -/
def fcsrPut (v : Word) : Word := if 5 ≤ bits v 7 5 then setBits (v &&& 0x1FFF) 5 3 0 else v &&& 0x1FFF

/-- STATUS as a write leaves it: GANG ignores it (Table 11.1). -/
def statusPut (old v : Word) : Word := (v &&& 0x17) ||| (old &&& 0x8)

/-- CSR[c] = v, writable fields only (R294); STATUS is written by `csrStatus`. The flags of vector completions of the same cycle are ORed into
FCSR after the write (R139). Bits [2:0] of SCHEDVEC are dropped, as those of SVEC are.
(DEDUCED, log 14) (DEDUCED, log 18) (DESIGN CHOICE, log 140) -/
def csrWrite (c : Nat) (v : Word) (s : State) : State :=
  let mine := fun (f : Thread → Thread) => s.modT f
  let chan := fun (k : Nat) => mine (fun t => { t with chan := kput t.chan k (v &&& chanMask), credits := kput t.credits k 16 })
  let low := v &&& ~~~(7 : Word)
  match c with
  | 0x01 => mine (fun t => { t with estatus := v &&& 0x1F })
  | 0x02 => mine (fun t => { t with epc := low })
  | 0x03 => mine (fun t => { t with ecause := v &&& 0x3FFF1FF })
  | 0x04 => mine (fun t => { t with eval := v })
  | 0x05 => mine (fun t => { t with svec := low })
  | 0x06 => mine (fun t => { t with fcsr := fcsrPut v ||| wd (t.vflags s.now * 256) })
  | 0x07 => mine (fun t => { t with sscr := v })
  | 0x08 => mine (fun t => { t with ls0 := low })
  | 0x09 => mine (fun t => { t with le0 := low })
  | 0x0A => mine (fun t => { t with ls1 := low })
  | 0x0B => mine (fun t => { t with le1 := low })
  | 0x14 => chan 0
  | 0x15 => chan 1
  | 0x16 => chan 2
  | 0x17 => chan 3
  | 0x18 => mine (fun t => { t with policy := v &&& 0xFFF })
  | 0x28 => mine (fun t => { t with dpart := bits v 17 16, dsel := bits v 15 0 })
  | 0x80 => s.modE (fun e => { e with ksel := bits v 2 0 })
  | 0x81 => s.modE (fun e => { e with slotix := bits v 5 0 })
  | 0x82 => s.modE (fun e => { e with
      slots := if bits v 3 0 < 8 then kput e.slots e.slotix (bits v 3 0) else kdel e.slots e.slotix, lend := bits v 11 4 })
  | 0x83 => s.modE (fun e => { e with kernels := match kget e.kernels e.ksel with
      | some k => kput e.kernels e.ksel { k with root := v }
      | none => e.kernels })
  | 0x84 => s.modE (fun e => { e with kernels := match kget e.kernels e.ksel with
      | some k => kput e.kernels e.ksel { k with right := v &&& lrightMask }
      | none => e.kernels })
  | 0x85 => s.modE (fun e => { e with cmapix := bits v 22 0 })
  | 0x86 => s.modE (fun e => { e with schedvec := low })
  | 0x87 => s.modE (fun e => { e with svtab := v })
  | 0x88 => s.modE (fun e => { e with keyslot := bits v 11 0 })
  | 0x89 => setQuota (pkgOf s.eid) v (s.modE (fun e => { e with mfqset := v &&& wd (2 ^ 64 - 2 ^ 32 + 0xFFF) }))
  | 0x8A => startTest (dieOf s.eid) (bits v 7 0) none none s
  | 0x8B => s.modPkg (pkgOf s.eid) (fun p => { p.setFrozen (bits v 19 0) with uvEn := bits v 39 20 })
  | _ => s

/-! ### The instructions (R294, R295) -/

/-- Whether a read of FCSR is held by the thread's earlier vector instructions (R139). -/
def State.fcsrHeld (s : State) : Bool :=
  s.etl.vq.any (fun v => decide (v.tid = s.th.tid)) ||
  (match s.etl.vrb with | some b => decide (b.owner = s.th.tid) && !b.capture | none => false)

/-- Whether a write of CHANk waits for its credits (R295). -/
def State.chanBusy (s : State) (c : Nat) : Bool :=
  decide (0x14 ≤ c ∧ c ≤ 0x17 ∧ kgetD s.th.credits (c - 0x14) 16 ≠ 16)

/-- Reading part 1 of an entry counts as reading its fault, which frees the log for triggers and for passes that wait (R175). -/
def dlogMark (c : Nat) (s : State) : State :=
  if c = 0x29 ∧ s.th.dpart = 1 then
    refill 32 (relog 32 (s.modE (fun e => { e with dlog := e.dlog.map (fun d => if d.seq = s.th.dsel then { d with read := true } else d) })))
  else s

/-- A write of STATUS takes effect from the next bundle, after this bundle's end test (R295). -/
def csrStatus (v : Word) (s : State) : State :=
  if s.ph = 1 then { s with adv := true, lateSt := some v }
  else (advance s).modT (fun t => { t with status := statusPut t.status v })

/-- A CSR access: its checks, its waits, then `body`. -/
def csrInstr (i : Instr) (c : Nat) (read write : Bool) (s : State) (body : State → State) : Res :=
  if s.ph = 0 ∧ c = 6 ∧ read ∧ s.fcsrHeld then .next { s with trap := none }
  else issue i s (fun s =>
    match csrCause s.user c write with
    | some x => takeTrap x s
    | none =>
      if write ∧ s.chanBusy c then (if s.handoff then takeTrap { code := cHandler } s else waitFor (.credit (c - 0x14)) 112 s)
      else body s)

/-- CSRR (R294). -/
def execCsrr (d c : Nat) (s : State) : Res :=
  csrInstr (.csrr d c) c true false s (fun s => dlogMark c (result d (s.seen (s.csr c)) s))

/-- CSRW (R294). -/
def execCsrw (a c : Nat) (s : State) : Res :=
  csrInstr (.csrw a c) c false true s (fun s => if c = 0 then csrStatus (s.rd a) s else advance (csrWrite c (s.rd a) s))

/-- CSRX (R294). -/
def execCsrx (d a c : Nat) (s : State) : Res :=
  csrInstr (.csrx d a c) c true true s (fun s =>
    let old := s.seen (s.csr c)
    let v := s.rd a
    let s := s.wr d old
    if c = 0 then csrStatus v s else dlogMark c (advance (csrWrite c v s)))

end Sys2Proof.Machine
end

