-- ==== Sys2Proof/WellFormed.lean ====
section
/-! DEFINITION. The ranges of every field (R56, R57) and the reserved field values of Table 18.3
(R267): an instruction outside them has no encoding. Events carry no encoding and are all well-formed. -/

namespace Sys2Proof

/-- An immediate whose short field lies below `n` and whose literal is 32 bits wide (R49, R52). -/
def Imm.wf (n : Nat) : Imm → Bool
  | .short v => decide (v < n)
  | .long k => decide (k < 4294967296)

/-- A right operand of CMP: a 7-bit register number, or a 7-bit or 32-bit immediate. -/
def CmpRhs.wf : CmpRhs → Bool
  | .reg b => decide (b < 128)
  | .imm i => i.wf 128

/-- Whether every field is in range and none holds a reserved value (R57, R267). -/
def Instr.wf : Instr → Bool
  | .trap a i => decide (a < 128) && decide (i < 1024)
  | .br o => decide (o < 16777216)
  | .brl o => decide (o < 16777216)
  | .jmpl d a => decide (d < 128) && decide (a < 128)
  | .lsetupImm p c e => decide (p < 2) && c.wf 1024 && decide (e < 4096)
  | .lsetupReg p r e => decide (p < 2) && decide (r < 128) && decide (e < 4096)
  | .ld d a w s o => decide (d < 128) && decide (a < 128) && decide (w < 4) && decide (s < 2) && o.wf 128 && !decide (w = 3 ∧ s = 1)
  | .st d a w o => decide (d < 128) && decide (a < 128) && decide (w < 4) && o.wf 128
  | .lda d a w s c o => decide (d < 128) && decide (a < 128) && decide (w < 4) && decide (s < 2) && decide (c < 8) && o.wf 1 && decide (1 ≤ c) && decide (c ≤ 6)
  | .stl d a w c o => decide (d < 128) && decide (a < 128) && decide (w < 4) && decide (c < 8) && o.wf 1 && decide (1 ≤ c) && decide (c ≤ 6)
  | .ldf d a s c o => decide (d < 128) && decide (a < 128) && decide (s < 2) && decide (c < 8) && o.wf 1 && decide (1 ≤ c) && decide (c ≤ 6)
  | .ldfe d a s c o => decide (d < 128) && decide (a < 128) && decide (s < 2) && decide (c < 8) && o.wf 1 && decide (1 ≤ c) && decide (c ≤ 6)
  | .stf d a c o => decide (d < 128) && decide (a < 128) && decide (c < 8) && o.wf 1 && decide (1 ≤ c) && decide (c ≤ 6)
  | .ste d a c o => decide (d < 128) && decide (a < 128) && decide (c < 8) && o.wf 1 && decide (1 ≤ c) && decide (c ≤ 6)
  | .sete a c o => decide (a < 128) && decide (c < 8) && o.wf 1 && decide (1 ≤ c) && decide (c ≤ 6)
  | .setf a c o => decide (a < 128) && decide (c < 8) && o.wf 1 && decide (1 ≤ c) && decide (c ≤ 6)
  | .amoWAdd d a b => decide (d < 128) && decide (a < 128) && decide (b < 128)
  | .amoWSwap d a b => decide (d < 128) && decide (a < 128) && decide (b < 128)
  | .amoWAnd d a b => decide (d < 128) && decide (a < 128) && decide (b < 128)
  | .amoWOr d a b => decide (d < 128) && decide (a < 128) && decide (b < 128)
  | .amoWSmin d a b => decide (d < 128) && decide (a < 128) && decide (b < 128)
  | .amoWSmax d a b => decide (d < 128) && decide (a < 128) && decide (b < 128)
  | .amoWUmin d a b => decide (d < 128) && decide (a < 128) && decide (b < 128)
  | .amoWUmax d a b => decide (d < 128) && decide (a < 128) && decide (b < 128)
  | .amoDAdd d a b => decide (d < 128) && decide (a < 128) && decide (b < 128)
  | .amoDSwap d a b => decide (d < 128) && decide (a < 128) && decide (b < 128)
  | .amoDAnd d a b => decide (d < 128) && decide (a < 128) && decide (b < 128)
  | .amoDOr d a b => decide (d < 128) && decide (a < 128) && decide (b < 128)
  | .amoDSmin d a b => decide (d < 128) && decide (a < 128) && decide (b < 128)
  | .amoDSmax d a b => decide (d < 128) && decide (a < 128) && decide (b < 128)
  | .amoDUmin d a b => decide (d < 128) && decide (a < 128) && decide (b < 128)
  | .amoDUmax d a b => decide (d < 128) && decide (a < 128) && decide (b < 128)
  | .casW d a b => decide (d < 128) && decide (a < 128) && decide (b < 128)
  | .casD d a b => decide (d < 128) && decide (a < 128) && decide (b < 128)
  | .faggW d a b => decide (d < 128) && decide (a < 128) && decide (b < 128)
  | .faggD d a b => decide (d < 128) && decide (a < 128) && decide (b < 128)
  | .fence s => decide (s < 128) && decide (1 ≤ s) && decide (s ≤ 6)
  | .fenceSs s => decide (s < 128) && decide (1 ≤ s) && decide (s ≤ 6)
  | .fenceLa s => decide (s < 128) && decide (1 ≤ s) && decide (s ≤ 6)
  | .cmoClean d a b => decide (d < 128) && decide (a < 128) && decide (b < 128) && decide (d ≤ 2)
  | .cmoInval d a b => decide (d < 128) && decide (a < 128) && decide (b < 128) && decide (d ≤ 2)
  | .cmoClinv d a b => decide (d < 128) && decide (a < 128) && decide (b < 128) && decide (d ≤ 2)
  | .cmoPref d a b => decide (d < 128) && decide (a < 128) && decide (b < 128) && decide (d ≤ 2)
  | .cmoZero d a b => decide (d < 128) && decide (a < 128) && decide (b < 128) && decide (d ≤ 2)
  | .cpy a x m => decide (a < 128) && decide (x < 64) && decide (m < 2)
  | .cpyf a x m => decide (a < 128) && decide (x < 64) && decide (m < 2)
  | .cpyg a x m => decide (a < 128) && decide (x < 64) && decide (m < 2)
  | .cpyp a x m p => decide (a < 128) && decide (x < 64) && decide (m < 2) && decide (p < 32)
  | .cpyr a x m r => decide (a < 128) && decide (x < 64) && decide (m < 2) && decide (r < 16)
  | .cpys a x m => decide (a < 128) && decide (x < 64) && decide (m < 2)
  | .twall d a => decide (d < 128) && decide (a < 128)
  | .twany d a => decide (d < 128) && decide (a < 128)
  | .tffr d a => decide (d < 128) && decide (a < 128)
  | .tclr a => decide (a < 128)
  | .mma r s c f p z q m => decide (r < 16) && decide (s < 16) && decide (c < 2) && decide (f < 16) && decide (p < 4) && decide (z < 2) && decide (q < 2) && decide (m < 32) && decide (f ≤ 8) && decide (p ≤ 2) && !decide (p ≠ 0 ∧ 7 ≤ f) && !decide (q = 0 ∧ m ≠ 0)
  | .aclr a b => decide (a < 128) && decide (b < 128) && decide (a ≤ 2) && decide (b ≤ 1)
  | .asto a b => decide (a < 128) && decide (b < 128) && decide (b ≤ 1)
  | .ald a b => decide (a < 128) && decide (b < 128) && decide (b ≤ 1)
  | .rdef d a b => decide (d < 128) && decide (a < 128) && decide (b < 128) && decide (b ≤ 15)
  | .rqry d b => decide (d < 128) && decide (b < 128) && decide (b ≤ 15)
  | .rdrop d b => decide (d < 128) && decide (b < 128) && decide (b ≤ 15)
  | .rreset b => decide (b < 128) && decide (b ≤ 15)
  | .snew d a b => decide (d < 128) && decide (a < 128) && decide (b < 128) && decide (1 ≤ b) && decide (b ≤ 6)
  | .sfree d a b => decide (d < 128) && decide (a < 128) && decide (b < 128) && decide (1 ≤ b) && decide (b ≤ 6)
  | .spoke d a b => decide (d < 128) && decide (a < 128) && decide (b < 128) && decide (1 ≤ b) && decide (b ≤ 6)
  | .legq d b => decide (d < 128) && decide (b < 128) && decide (1 ≤ b) && decide (b ≤ 6)
  | .foulc a => decide (a < 128)
  | .ckpt d a => decide (d < 128) && decide (a < 128)
  | .bar d a b => decide (d < 128) && decide (a < 128) && decide (b < 128) && decide (1 ≤ b) && decide (b ≤ 6)
  | .bara d a b => decide (d < 128) && decide (a < 128) && decide (b < 128) && decide (1 ≤ b) && decide (b ≤ 6)
  | .barw d a b => decide (d < 128) && decide (a < 128) && decide (b < 128) && decide (1 ≤ b) && decide (b ≤ 6)
  | .toka d a b => decide (d < 128) && decide (a < 128) && decide (b < 128) && decide (1 ≤ b) && decide (b ≤ 6)
  | .tokr d a b => decide (d < 128) && decide (a < 128) && decide (b < 128) && decide (1 ≤ b) && decide (b ≤ 6)
  | .step d a b => decide (d < 128) && decide (a < 128) && decide (b < 128) && decide (1 ≤ b) && decide (b ≤ 6)
  | .stepr d a b => decide (d < 128) && decide (a < 128) && decide (b < 128) && decide (1 ≤ b) && decide (b ≤ 6)
  | .sound d b => decide (d < 128) && decide (b < 128) && decide (1 ≤ b) && decide (b ≤ 6)
  | .send a b => decide (a < 128) && decide (b < 128)
  | .go a => decide (a < 128)
  | .put a => decide (a < 128)
  | .get a => decide (a < 128)
  | .tsend d a b => decide (d < 128) && decide (a < 128) && decide (b < 128)
  | .tcancel d a => decide (d < 128) && decide (a < 128)
  | .scset d a b => decide (d < 128) && decide (a < 128) && decide (b < 128) && decide (b ≤ 15)
  | .scadd d a b => decide (d < 128) && decide (a < 128) && decide (b < 128) && decide (b ≤ 15)
  | .scwait d a b => decide (d < 128) && decide (a < 128) && decide (b < 128) && decide (b ≤ 15)
  | .scrd d b => decide (d < 128) && decide (b < 128) && decide (b ≤ 15)
  | .wrq d a => decide (d < 128) && decide (a < 128)
  | .wrcq d => decide (d < 128)
  | .uestat d b => decide (d < 128) && decide (b < 128) && decide (b ≤ 3)
  | .mfalloc d a b => decide (d < 128) && decide (a < 128) && decide (b < 128)
  | .mffree d a => decide (d < 128) && decide (a < 128)
  | .mfquota d => decide (d < 128)
  | .mfstat d a => decide (d < 128) && decide (a < 128)
  | .swb d a => decide (d < 128) && decide (a < 128)
  | .swn d a => decide (d < 128) && decide (a < 128)
  | .swe d a => decide (d < 128) && decide (a < 128)
  | .resq d a => decide (d < 128) && decide (a < 128)
  | .swstat d a => decide (d < 128) && decide (a < 128)
  | .qnew d a => decide (d < 128) && decide (a < 128)
  | .qenq a b => decide (a < 128) && decide (b < 128)
  | .qdeq d a => decide (d < 128) && decide (a < 128)
  | .qtry d a b => decide (d < 128) && decide (a < 128) && decide (b < 128)
  | .qfree d a => decide (d < 128) && decide (a < 128)
  | .gang d a => decide (d < 128) && decide (a < 128)
  | .pload d a b => decide (d < 128) && decide (a < 128) && decide (b < 128) && decide (d ≤ 31) && decide (1 ≤ b) && decide (b ≤ 7)
  | .pstore d a => decide (d < 128) && decide (a < 128) && decide (d ≤ 31)
  | .vld d a o => decide (d < 32) && decide (a < 128) && decide (o < 256)
  | .vldStr d a o => decide (d < 32) && decide (a < 128) && decide (o < 256)
  | .vldBc d a o => decide (d < 32) && decide (a < 128) && decide (o < 256)
  | .vst d a o => decide (d < 32) && decide (a < 128) && decide (o < 256)
  | .vstStr d a o => decide (d < 32) && decide (a < 128) && decide (o < 256)
  | .csrr d c => decide (d < 128) && decide (c < 256)
  | .csrw a c => decide (a < 128) && decide (c < 256)
  | .csrx d a c => decide (d < 128) && decide (a < 128) && decide (c < 256)
  | .launch d a => decide (d < 128) && decide (a < 128)
  | .bencho d a b => decide (d < 128) && decide (a < 128) && decide (b < 128)
  | .benchi d a b => decide (d < 128) && decide (a < 128) && decide (b < 128)
  | .mapset d a => decide (d < 128) && decide (a < 128)
  | .xinv d a b => decide (d < 128) && decide (a < 128) && decide (b < 128)
  | .keyset d a => decide (d < 128) && decide (a < 128)
  | .selft d a => decide (d < 128) && decide (a < 128)
  | .vre a b => decide (a < 128) && decide (b < 128)
  | .add d a b => decide (d < 128) && decide (a < 128) && decide (b < 128)
  | .sub d a b => decide (d < 128) && decide (a < 128) && decide (b < 128)
  | .and d a b => decide (d < 128) && decide (a < 128) && decide (b < 128)
  | .or d a b => decide (d < 128) && decide (a < 128) && decide (b < 128)
  | .xor d a b => decide (d < 128) && decide (a < 128) && decide (b < 128)
  | .andn d a b => decide (d < 128) && decide (a < 128) && decide (b < 128)
  | .sll d a b => decide (d < 128) && decide (a < 128) && decide (b < 128)
  | .srl d a b => decide (d < 128) && decide (a < 128) && decide (b < 128)
  | .sra d a b => decide (d < 128) && decide (a < 128) && decide (b < 128)
  | .rotr d a b => decide (d < 128) && decide (a < 128) && decide (b < 128)
  | .min d a b => decide (d < 128) && decide (a < 128) && decide (b < 128)
  | .max d a b => decide (d < 128) && decide (a < 128) && decide (b < 128)
  | .minu d a b => decide (d < 128) && decide (a < 128) && decide (b < 128)
  | .maxu d a b => decide (d < 128) && decide (a < 128) && decide (b < 128)
  | .addw d a b => decide (d < 128) && decide (a < 128) && decide (b < 128)
  | .subw d a b => decide (d < 128) && decide (a < 128) && decide (b < 128)
  | .mul d a b => decide (d < 128) && decide (a < 128) && decide (b < 128)
  | .mulh d a b => decide (d < 128) && decide (a < 128) && decide (b < 128)
  | .mulhu d a b => decide (d < 128) && decide (a < 128) && decide (b < 128)
  | .mulw d a b => decide (d < 128) && decide (a < 128) && decide (b < 128)
  | .div d a b => decide (d < 128) && decide (a < 128) && decide (b < 128)
  | .divu d a b => decide (d < 128) && decide (a < 128) && decide (b < 128)
  | .rem d a b => decide (d < 128) && decide (a < 128) && decide (b < 128)
  | .remu d a b => decide (d < 128) && decide (a < 128) && decide (b < 128)
  | .clz d a => decide (d < 128) && decide (a < 128)
  | .ctz d a => decide (d < 128) && decide (a < 128)
  | .popc d a => decide (d < 128) && decide (a < 128)
  | .brev d a => decide (d < 128) && decide (a < 128)
  | .bswap d a => decide (d < 128) && decide (a < 128)
  | .sext d a b => decide (d < 128) && decide (a < 128) && decide (b < 128) && decide (b ≤ 63)
  | .zext d a b => decide (d < 128) && decide (a < 128) && decide (b < 128) && decide (b ≤ 63)
  | .addi d a i => decide (d < 128) && decide (a < 128) && i.wf 1024
  | .andi d a i => decide (d < 128) && decide (a < 128) && i.wf 1024
  | .ori d a i => decide (d < 128) && decide (a < 128) && i.wf 1024
  | .xori d a i => decide (d < 128) && decide (a < 128) && i.wf 1024
  | .slli d a s => decide (d < 128) && decide (a < 128) && decide (s < 64)
  | .srli d a s => decide (d < 128) && decide (a < 128) && decide (s < 64)
  | .srai d a s => decide (d < 128) && decide (a < 128) && decide (s < 64)
  | .rotri d a s => decide (d < 128) && decide (a < 128) && decide (s < 64)
  | .movi d i => decide (d < 128) && i.wf 131072
  | .movhi d k => decide (d < 128) && decide (k < 4294967296)
  | .cmp k c a b => decide (k < 4) && decide (c < 16) && decide (a < 128) && b.wf && decide (k ≤ 2) && decide (c ≤ 7)
  | .cmpW k c a b => decide (k < 4) && decide (c < 16) && decide (a < 128) && b.wf && decide (k ≤ 2) && decide (c ≤ 7)
  | .setcEq d a b => decide (d < 128) && decide (a < 128) && decide (b < 128)
  | .setcNe d a b => decide (d < 128) && decide (a < 128) && decide (b < 128)
  | .setcLt d a b => decide (d < 128) && decide (a < 128) && decide (b < 128)
  | .setcGe d a b => decide (d < 128) && decide (a < 128) && decide (b < 128)
  | .setcLtu d a b => decide (d < 128) && decide (a < 128) && decide (b < 128)
  | .setcGeu d a b => decide (d < 128) && decide (a < 128) && decide (b < 128)
  | .setcBs d a b => decide (d < 128) && decide (a < 128) && decide (b < 128)
  | .setcBc d a b => decide (d < 128) && decide (a < 128) && decide (b < 128)
  | .faddD d a b => decide (d < 128) && decide (a < 128) && decide (b < 128)
  | .fsubD d a b => decide (d < 128) && decide (a < 128) && decide (b < 128)
  | .fmulD d a b => decide (d < 128) && decide (a < 128) && decide (b < 128)
  | .fdivD d a b => decide (d < 128) && decide (a < 128) && decide (b < 128)
  | .fminD d a b => decide (d < 128) && decide (a < 128) && decide (b < 128)
  | .fmaxD d a b => decide (d < 128) && decide (a < 128) && decide (b < 128)
  | .fsqrtD d a => decide (d < 128) && decide (a < 128)
  | .fcpsD d a b => decide (d < 128) && decide (a < 128) && decide (b < 128)
  | .faddS d a b => decide (d < 128) && decide (a < 128) && decide (b < 128)
  | .fsubS d a b => decide (d < 128) && decide (a < 128) && decide (b < 128)
  | .fmulS d a b => decide (d < 128) && decide (a < 128) && decide (b < 128)
  | .fdivS d a b => decide (d < 128) && decide (a < 128) && decide (b < 128)
  | .fminS d a b => decide (d < 128) && decide (a < 128) && decide (b < 128)
  | .fmaxS d a b => decide (d < 128) && decide (a < 128) && decide (b < 128)
  | .fsqrtS d a => decide (d < 128) && decide (a < 128)
  | .fcpsS d a b => decide (d < 128) && decide (a < 128) && decide (b < 128)
  | .fmaD d a b => decide (d < 128) && decide (a < 128) && decide (b < 128)
  | .fmsD d a b => decide (d < 128) && decide (a < 128) && decide (b < 128)
  | .fnmaD d a b => decide (d < 128) && decide (a < 128) && decide (b < 128)
  | .fmaS d a b => decide (d < 128) && decide (a < 128) && decide (b < 128)
  | .fmsS d a b => decide (d < 128) && decide (a < 128) && decide (b < 128)
  | .fnmaS d a b => decide (d < 128) && decide (a < 128) && decide (b < 128)
  | .fcvt d a b r => decide (d < 128) && decide (a < 128) && decide (b < 128) && decide (r < 8) && decide (b ≤ 13) && decide (r ≤ 5)
  | .frcp d a => decide (d < 128) && decide (a < 128)
  | .frsq d a => decide (d < 128) && decide (a < 128)
  | .fexp2 d a => decide (d < 128) && decide (a < 128)
  | .flog2 d a => decide (d < 128) && decide (a < 128)
  | .fclass d a => decide (d < 128) && decide (a < 128)
  | .fcmpD k c a b => decide (k < 4) && decide (c < 16) && decide (a < 128) && decide (b < 128) && decide (k ≤ 2) && decide (c ≤ 7)
  | .fcmpS k c a b => decide (k < 4) && decide (c < 16) && decide (a < 128) && decide (b < 128) && decide (k ≤ 2) && decide (c ≤ 7)
  | .vfadd d a b => decide (d < 32) && decide (a < 32) && decide (b < 32)
  | .vfsub d a b => decide (d < 32) && decide (a < 32) && decide (b < 32)
  | .vfmul d a b => decide (d < 32) && decide (a < 32) && decide (b < 32)
  | .vfma d a b c => decide (d < 32) && decide (a < 32) && decide (b < 32) && decide (c < 32)
  | .vfmin d a b => decide (d < 32) && decide (a < 32) && decide (b < 32)
  | .vfmax d a b => decide (d < 32) && decide (a < 32) && decide (b < 32)
  | .vfrcp d a => decide (d < 32) && decide (a < 32)
  | .vfexp2 d a => decide (d < 32) && decide (a < 32)
  | .vadd d a b => decide (d < 32) && decide (a < 32) && decide (b < 32)
  | .vsub d a b => decide (d < 32) && decide (a < 32) && decide (b < 32)
  | .vmul d a b => decide (d < 32) && decide (a < 32) && decide (b < 32)
  | .vmin d a b => decide (d < 32) && decide (a < 32) && decide (b < 32)
  | .vmax d a b => decide (d < 32) && decide (a < 32) && decide (b < 32)
  | .vminu d a b => decide (d < 32) && decide (a < 32) && decide (b < 32)
  | .vmaxu d a b => decide (d < 32) && decide (a < 32) && decide (b < 32)
  | .vand d a b => decide (d < 32) && decide (a < 32) && decide (b < 32)
  | .vor d a b => decide (d < 32) && decide (a < 32) && decide (b < 32)
  | .vxor d a b => decide (d < 32) && decide (a < 32) && decide (b < 32)
  | .vsll d a b => decide (d < 32) && decide (a < 32) && decide (b < 32)
  | .vsrl d a b => decide (d < 32) && decide (a < 32) && decide (b < 32)
  | .vsra d a b => decide (d < 32) && decide (a < 32) && decide (b < 32)
  | .vred d a c => decide (d < 32) && decide (a < 32) && decide (c < 32) && decide (c ≤ 1)
  | .vperm d a p => decide (d < 32) && decide (a < 32) && decide (p < 32)
  | .vsel d a b c => decide (d < 32) && decide (a < 32) && decide (b < 32) && decide (c < 32)
  | .vcmp d a b c => decide (d < 32) && decide (a < 32) && decide (b < 32) && decide (c < 32) && decide (c ≤ 15)
  | .vcvt d a c => decide (d < 32) && decide (a < 32) && decide (c < 32) && decide (c ≤ 7)
  | .vbcast d s => decide (d < 32) && decide (s < 128)
  | .vext d a n => decide (d < 128) && decide (a < 32) && decide (n < 128)
  | .qnt d a b => decide (d < 128) && decide (a < 128) && decide (b < 128)
  | .dqnt d a b => decide (d < 128) && decide (a < 128) && decide (b < 128)
  | .baddq d a b => decide (d < 128) && decide (a < 128) && decide (b < 128)
  | .scaleq d a b => decide (d < 128) && decide (a < 128) && decide (b < 128)
  | .pcomp d a b => decide (d < 128) && decide (a < 128) && decide (b < 128) && decide (d ≤ 31) && decide (a ≤ 31) && decide (b ≤ 31)
  | .pinv d a => decide (d < 128) && decide (a < 128) && decide (d ≤ 31) && decide (a ≤ 31)
  | .prand d a b => decide (d < 128) && decide (a < 128) && decide (b < 128) && decide (d ≤ 31) && decide (1 ≤ b) && decide (b ≤ 7)
  | .pidn d b => decide (d < 128) && decide (b < 128) && decide (d ≤ 31) && decide (1 ≤ b) && decide (b ≤ 7)
  | .pcyc d a b => decide (d < 128) && decide (a < 128) && decide (b < 128) && decide (a ≤ 31) && decide (b ≤ 4)
  | .pmov d a => decide (d < 128) && decide (a < 128) && decide (d ≤ 31) && decide (a ≤ 31)
  | .illegalEncoding .. => true
  | .fetchFault .. => true
  | .nop => true
  | .yield => true
  | .exit => true
  | .eret => true
  | .disband => true
  | .vrb => true
  | .vrstop => true
  | .vrwait => true
  | .powerOnReset .. => true
  | .functionReady .. => true
  | .commandFetch .. => true
  | .init .. => true
  | .hostLaunch .. => true
  | .rstat .. => true
  | .freset .. => true
  | .attest .. => true
  | .fwload .. => true
  | .cdoor .. => true
  | .qstart .. => true
  | .registerWrite .. => true
  | .migrationGo .. => true
  | .migrationComplete .. => true
  | .stestStart .. => true
  | .selfTestComplete .. => true
  | .uvUnfreeze .. => true
  | .uvFreeze .. => true
  | .uvEnableWrite .. => true
  | .mfqset .. => true
  | .uvStep .. => true
  | .uvMeasureEnd .. => true
  | .powerSample .. => true
  | .translationWalkComplete .. => true
  | .memoryReply .. => true
  | .storeTakesEffect .. => true
  | .storeReply .. => true
  | .pageHeatHalve .. => true
  | .loopSlotReserve .. => true
  | .loopStopPowerDown .. => true
  | .loopStopWake .. => true
  | .longLatencyWriteback .. => true
  | .eventDelivery .. => true
  | .yieldExpiry .. => true
  | .handlerIssueLimit .. => true
  | .activeMessageArrival .. => true
  | .handlerStart .. => true
  | .absent .. => true
  | .loopPortWordArrival .. => true
  | .loopPortCreditReturn .. => true
  | .goArrival .. => true
  | .parkedThreadPlace .. => true
  | .mapsetForward .. => true
  | .exitComplete .. => true
  | .launchCompletionWrite .. => true
  | .benchImageWrite .. => true
  | .copyStart .. => true
  | .copyComplete .. => true
  | .mmaStart .. => true
  | .mmaComplete .. => true
  | .vectorStart .. => true
  | .vectorWriteback .. => true
  | .solverComplete .. => true
  | .putArrival .. => true
  | .putComplete .. => true
  | .uePacketArrival .. => true
  | .wrqComplete .. => true
  | .norecvTimeout .. => true
  | .syncRoundStart .. => true
  | .umpireRoundEnd .. => true
  | .completionReport .. => true
  | .phaseMessage .. => true
  | .verdictDelivery .. => true
  | .memberAbsent .. => true
  | .tokenPass .. => true
  | .stepAdvance .. => true
  | .rollbackResume .. => true
  | .errorDetected .. => true
  | .sweeperExamine .. => true
  | .sweeperPassStart .. => true
  | .sweeperForce .. => true
  | .faggGroupClose .. => true
  | .requestArrival .. => true
  | .requestResend .. => true
  | .requestTimeout .. => true
  | .dedupExpiry .. => true
  | .flitReceive .. => true
  | .replayRequest .. => true
  | .criticalPacketReceive .. => true
  | .portTrainingEnd .. => true
  | .trainingTimeout .. => true
  | .flowMove .. => true
  | .flowStallEnd .. => true
  | .switchLossNotice .. => true
  | .rheadAdvance .. => true
  | .portCommand .. => true
  | .memoryWriteComplete .. => true

end Sys2Proof
end

