-- ==== Sys2Proof/Decode.lean ====
section
/-! DEFINITION. The decoder of bodies and bundles (R49 to R57, R266 to R270), total and rejecting
every reserved encoding, and the encoder written from the same tables. -/

namespace Sys2Proof

/-- Bits h down to l of w, as an unsigned value: x[h:l] (R5, R8). -/
def fld (w h l : Nat) : Nat := w / 2 ^ l % 2 ^ (h - l + 1)

/-- The immediate of an instruction of Table 3.3: K in a LONE bundle, the short field in a pair. -/
def immOf (k : Option Nat) (f : Nat) : Imm :=
  match k with
  | some k => .long k
  | none => .short f

/-- In a LONE bundle the short field must be zero (R52, R267). -/
def immOk (k : Option Nat) (f : Nat) : Bool := k.isNone || decide (f = 0)

/-- The offset of a format MS instruction: K in a LONE bundle, 0 in a pair (R52). -/
def immMS (k : Option Nat) : Imm := immOf k 0

/-- The right operand of CMP from its b and i fields (R291). -/
def cmpRhs (k : Option Nat) (b i : Nat) : CmpRhs :=
  if i = 1 then .imm (immOf k b) else .reg b

/-- With i = 1 a LONE CMP must hold b = 0 (R52). -/
def cmpOk (k : Option Nat) (b i : Nat) : Bool := i != 1 || immOk k b

/-- Primary 0x00 (Tables 18.1 and 18.2, R266; reserved field values R267). -/
def dec00 (k : Option Nat) (w : Nat) : Option Instr :=
  if fld w 23 0 = 0 then some (.nop)
  else if fld w 23 0 = 1 then some (.yield)
  else if fld w 23 0 = 2 then some (.exit)
  else if fld w 23 0 = 3 then some (.eret)
  else none

/-- Primary 0x01 (Tables 18.1 and 18.2, R266; reserved field values R267). -/
def dec01 (k : Option Nat) (w : Nat) : Option Instr :=
  if fld w 23 17 = 0 then some (.trap (fld w 16 10) (fld w 9 0))
  else none

/-- Primary 0x02 (Tables 18.1 and 18.2, R266; reserved field values R267). -/
def dec02 (k : Option Nat) (w : Nat) : Option Instr :=
  if True then some (.br (fld w 23 0))
  else none

/-- Primary 0x03 (Tables 18.1 and 18.2, R266; reserved field values R267). -/
def dec03 (k : Option Nat) (w : Nat) : Option Instr :=
  if True then some (.brl (fld w 23 0))
  else none

/-- Primary 0x04 (Tables 18.1 and 18.2, R266; reserved field values R267). -/
def dec04 (k : Option Nat) (w : Nat) : Option Instr :=
  if fld w 9 0 = 0 then some (.jmpl (fld w 23 17) (fld w 16 10))
  else none

/-- Primary 0x05 (Tables 18.1 and 18.2, R266; reserved field values R267). -/
def dec05 (k : Option Nat) (w : Nat) : Option Instr :=
  if fld w 22 22 = 1 ∧ immOk k (fld w 21 12) then some (.lsetupImm (fld w 23 23) (immOf k (fld w 21 12)) (fld w 11 0))
  else if fld w 22 19 = 0 then some (.lsetupReg (fld w 23 23) (fld w 18 12) (fld w 11 0))
  else none

/-- Primary 0x06 (Tables 18.1 and 18.2, R266; reserved field values R267). -/
def dec06 (k : Option Nat) (w : Nat) : Option Instr :=
  if immOk k (fld w 6 0) ∧ ¬ ((fld w 9 8) = 3 ∧ (fld w 7 7) = 1) then some (.ld (fld w 23 17) (fld w 16 10) (fld w 9 8) (fld w 7 7) (immOf k (fld w 6 0)))
  else none

/-- Primary 0x07 (Tables 18.1 and 18.2, R266; reserved field values R267). -/
def dec07 (k : Option Nat) (w : Nat) : Option Instr :=
  if fld w 7 7 = 0 ∧ immOk k (fld w 6 0) then some (.st (fld w 23 17) (fld w 16 10) (fld w 9 8) (immOf k (fld w 6 0)))
  else none

/-- Primary 0x08 (Tables 18.1 and 18.2, R266; reserved field values R267). -/
def dec08 (k : Option Nat) (w : Nat) : Option Instr :=
  if fld w 3 0 = 0 ∧ 1 ≤ (fld w 6 4) ∧ (fld w 6 4) ≤ 6 then some (.lda (fld w 23 17) (fld w 16 10) (fld w 9 8) (fld w 7 7) (fld w 6 4) (immMS k))
  else none

/-- Primary 0x09 (Tables 18.1 and 18.2, R266; reserved field values R267). -/
def dec09 (k : Option Nat) (w : Nat) : Option Instr :=
  if fld w 3 0 = 0 ∧ fld w 7 7 = 0 ∧ 1 ≤ (fld w 6 4) ∧ (fld w 6 4) ≤ 6 then some (.stl (fld w 23 17) (fld w 16 10) (fld w 9 8) (fld w 6 4) (immMS k))
  else none

/-- Primary 0x0A (Tables 18.1 and 18.2, R266; reserved field values R267). -/
def dec0A (k : Option Nat) (w : Nat) : Option Instr :=
  if fld w 3 0 = 0 ∧ fld w 9 8 = 3 ∧ 1 ≤ (fld w 6 4) ∧ (fld w 6 4) ≤ 6 then some (.ldf (fld w 23 17) (fld w 16 10) (fld w 7 7) (fld w 6 4) (immMS k))
  else if fld w 3 0 = 1 ∧ fld w 9 8 = 3 ∧ 1 ≤ (fld w 6 4) ∧ (fld w 6 4) ≤ 6 then some (.ldfe (fld w 23 17) (fld w 16 10) (fld w 7 7) (fld w 6 4) (immMS k))
  else none

/-- Primary 0x0B (Tables 18.1 and 18.2, R266; reserved field values R267). -/
def dec0B (k : Option Nat) (w : Nat) : Option Instr :=
  if fld w 3 0 = 0 ∧ fld w 9 7 = 6 ∧ 1 ≤ (fld w 6 4) ∧ (fld w 6 4) ≤ 6 then some (.stf (fld w 23 17) (fld w 16 10) (fld w 6 4) (immMS k))
  else if fld w 3 0 = 1 ∧ fld w 9 7 = 6 ∧ 1 ≤ (fld w 6 4) ∧ (fld w 6 4) ≤ 6 then some (.ste (fld w 23 17) (fld w 16 10) (fld w 6 4) (immMS k))
  else if fld w 3 0 = 2 ∧ fld w 9 7 = 6 ∧ fld w 23 17 = 0 ∧ 1 ≤ (fld w 6 4) ∧ (fld w 6 4) ≤ 6 then some (.sete (fld w 16 10) (fld w 6 4) (immMS k))
  else if fld w 3 0 = 3 ∧ fld w 9 7 = 6 ∧ fld w 23 17 = 0 ∧ 1 ≤ (fld w 6 4) ∧ (fld w 6 4) ≤ 6 then some (.setf (fld w 16 10) (fld w 6 4) (immMS k))
  else none

/-- Primary 0x0C (Tables 18.1 and 18.2, R266; reserved field values R267). -/
def dec0C (k : Option Nat) (w : Nat) : Option Instr :=
  if fld w 2 0 = 0 then some (.amoWAdd (fld w 23 17) (fld w 16 10) (fld w 9 3))
  else if fld w 2 0 = 1 then some (.amoWSwap (fld w 23 17) (fld w 16 10) (fld w 9 3))
  else if fld w 2 0 = 2 then some (.amoWAnd (fld w 23 17) (fld w 16 10) (fld w 9 3))
  else if fld w 2 0 = 3 then some (.amoWOr (fld w 23 17) (fld w 16 10) (fld w 9 3))
  else if fld w 2 0 = 4 then some (.amoWSmin (fld w 23 17) (fld w 16 10) (fld w 9 3))
  else if fld w 2 0 = 5 then some (.amoWSmax (fld w 23 17) (fld w 16 10) (fld w 9 3))
  else if fld w 2 0 = 6 then some (.amoWUmin (fld w 23 17) (fld w 16 10) (fld w 9 3))
  else if fld w 2 0 = 7 then some (.amoWUmax (fld w 23 17) (fld w 16 10) (fld w 9 3))
  else none

/-- Primary 0x0D (Tables 18.1 and 18.2, R266; reserved field values R267). -/
def dec0D (k : Option Nat) (w : Nat) : Option Instr :=
  if fld w 2 0 = 0 then some (.amoDAdd (fld w 23 17) (fld w 16 10) (fld w 9 3))
  else if fld w 2 0 = 1 then some (.amoDSwap (fld w 23 17) (fld w 16 10) (fld w 9 3))
  else if fld w 2 0 = 2 then some (.amoDAnd (fld w 23 17) (fld w 16 10) (fld w 9 3))
  else if fld w 2 0 = 3 then some (.amoDOr (fld w 23 17) (fld w 16 10) (fld w 9 3))
  else if fld w 2 0 = 4 then some (.amoDSmin (fld w 23 17) (fld w 16 10) (fld w 9 3))
  else if fld w 2 0 = 5 then some (.amoDSmax (fld w 23 17) (fld w 16 10) (fld w 9 3))
  else if fld w 2 0 = 6 then some (.amoDUmin (fld w 23 17) (fld w 16 10) (fld w 9 3))
  else if fld w 2 0 = 7 then some (.amoDUmax (fld w 23 17) (fld w 16 10) (fld w 9 3))
  else none

/-- Primary 0x0E (Tables 18.1 and 18.2, R266; reserved field values R267). -/
def dec0E (k : Option Nat) (w : Nat) : Option Instr :=
  if fld w 2 0 = 0 then some (.casW (fld w 23 17) (fld w 16 10) (fld w 9 3))
  else if fld w 2 0 = 1 then some (.casD (fld w 23 17) (fld w 16 10) (fld w 9 3))
  else none

/-- Primary 0x0F (Tables 18.1 and 18.2, R266; reserved field values R267). -/
def dec0F (k : Option Nat) (w : Nat) : Option Instr :=
  if fld w 2 0 = 0 then some (.faggW (fld w 23 17) (fld w 16 10) (fld w 9 3))
  else if fld w 2 0 = 1 then some (.faggD (fld w 23 17) (fld w 16 10) (fld w 9 3))
  else none

/-- Primary 0x10 (Tables 18.1 and 18.2, R266; reserved field values R267). -/
def dec10 (k : Option Nat) (w : Nat) : Option Instr :=
  if fld w 9 0 = 0 ∧ fld w 23 17 = 0 ∧ 1 ≤ (fld w 16 10) ∧ (fld w 16 10) ≤ 6 then some (.fence (fld w 16 10))
  else if fld w 9 0 = 1 ∧ fld w 23 17 = 0 ∧ 1 ≤ (fld w 16 10) ∧ (fld w 16 10) ≤ 6 then some (.fenceSs (fld w 16 10))
  else if fld w 9 0 = 2 ∧ fld w 23 17 = 0 ∧ 1 ≤ (fld w 16 10) ∧ (fld w 16 10) ≤ 6 then some (.fenceLa (fld w 16 10))
  else none

/-- Primary 0x11 (Tables 18.1 and 18.2, R266; reserved field values R267). -/
def dec11 (k : Option Nat) (w : Nat) : Option Instr :=
  if fld w 2 0 = 0 ∧ (fld w 23 17) ≤ 2 then some (.cmoClean (fld w 23 17) (fld w 16 10) (fld w 9 3))
  else if fld w 2 0 = 1 ∧ (fld w 23 17) ≤ 2 then some (.cmoInval (fld w 23 17) (fld w 16 10) (fld w 9 3))
  else if fld w 2 0 = 2 ∧ (fld w 23 17) ≤ 2 then some (.cmoClinv (fld w 23 17) (fld w 16 10) (fld w 9 3))
  else if fld w 2 0 = 3 ∧ (fld w 23 17) ≤ 2 then some (.cmoPref (fld w 23 17) (fld w 16 10) (fld w 9 3))
  else if fld w 2 0 = 4 ∧ (fld w 23 17) ≤ 2 then some (.cmoZero (fld w 23 17) (fld w 16 10) (fld w 9 3))
  else none

/-- Primary 0x12 (Tables 18.1 and 18.2, R266; reserved field values R267). -/
def dec12 (k : Option Nat) (w : Nat) : Option Instr :=
  if fld w 4 0 = 0 ∧ fld w 10 6 = 0 then some (.cpy (fld w 23 17) (fld w 16 11) (fld w 5 5))
  else if fld w 4 0 = 0 ∧ fld w 10 6 = 1 then some (.cpyf (fld w 23 17) (fld w 16 11) (fld w 5 5))
  else if fld w 4 0 = 0 ∧ fld w 10 6 = 2 then some (.cpyg (fld w 23 17) (fld w 16 11) (fld w 5 5))
  else if fld w 10 6 = 3 then some (.cpyp (fld w 23 17) (fld w 16 11) (fld w 5 5) (fld w 4 0))
  else if fld w 4 4 = 0 ∧ fld w 10 6 = 4 then some (.cpyr (fld w 23 17) (fld w 16 11) (fld w 5 5) (fld w 3 0))
  else if fld w 4 0 = 0 ∧ fld w 10 6 = 5 then some (.cpys (fld w 23 17) (fld w 16 11) (fld w 5 5))
  else none

/-- Primary 0x13 (Tables 18.1 and 18.2, R266; reserved field values R267). -/
def dec13 (k : Option Nat) (w : Nat) : Option Instr :=
  if fld w 9 0 = 0 then some (.twall (fld w 23 17) (fld w 16 10))
  else if fld w 9 0 = 1 then some (.twany (fld w 23 17) (fld w 16 10))
  else if fld w 9 0 = 2 then some (.tffr (fld w 23 17) (fld w 16 10))
  else if fld w 9 0 = 3 ∧ fld w 23 17 = 0 then some (.tclr (fld w 16 10))
  else none

/-- Primary 0x14 (Tables 18.1 and 18.2, R266; reserved field values R267). -/
def dec14 (k : Option Nat) (w : Nat) : Option Instr :=
  if fld w 1 0 = 0 ∧ (fld w 14 11) ≤ 8 ∧ (fld w 10 9) ≤ 2 ∧ ¬ ((fld w 10 9) ≠ 0 ∧ 7 ≤ (fld w 14 11)) ∧ ¬ ((fld w 7 7) = 0 ∧ (fld w 6 2) ≠ 0) then some (.mma (fld w 23 20) (fld w 19 16) (fld w 15 15) (fld w 14 11) (fld w 10 9) (fld w 8 8) (fld w 7 7) (fld w 6 2))
  else none

/-- Primary 0x15 (Tables 18.1 and 18.2, R266; reserved field values R267). -/
def dec15 (k : Option Nat) (w : Nat) : Option Instr :=
  if fld w 2 0 = 0 ∧ fld w 23 17 = 0 ∧ (fld w 16 10) ≤ 2 ∧ (fld w 9 3) ≤ 1 then some (.aclr (fld w 16 10) (fld w 9 3))
  else if fld w 2 0 = 1 ∧ fld w 23 17 = 0 ∧ (fld w 9 3) ≤ 1 then some (.asto (fld w 16 10) (fld w 9 3))
  else if fld w 2 0 = 2 ∧ fld w 23 17 = 0 ∧ (fld w 9 3) ≤ 1 then some (.ald (fld w 16 10) (fld w 9 3))
  else none

/-- Primary 0x16 (Tables 18.1 and 18.2, R266; reserved field values R267). -/
def dec16 (k : Option Nat) (w : Nat) : Option Instr :=
  if fld w 2 0 = 0 ∧ (fld w 9 3) ≤ 15 then some (.rdef (fld w 23 17) (fld w 16 10) (fld w 9 3))
  else if fld w 2 0 = 1 ∧ fld w 16 10 = 0 ∧ (fld w 9 3) ≤ 15 then some (.rqry (fld w 23 17) (fld w 9 3))
  else if fld w 2 0 = 2 ∧ fld w 16 10 = 0 ∧ (fld w 9 3) ≤ 15 then some (.rdrop (fld w 23 17) (fld w 9 3))
  else if fld w 2 0 = 3 ∧ fld w 23 10 = 0 ∧ (fld w 9 3) ≤ 15 then some (.rreset (fld w 9 3))
  else none

/-- Primary 0x17 (Tables 18.1 and 18.2, R266; reserved field values R267). -/
def dec17 (k : Option Nat) (w : Nat) : Option Instr :=
  if fld w 2 0 = 0 ∧ 1 ≤ (fld w 9 3) ∧ (fld w 9 3) ≤ 6 then some (.snew (fld w 23 17) (fld w 16 10) (fld w 9 3))
  else if fld w 2 0 = 1 ∧ 1 ≤ (fld w 9 3) ∧ (fld w 9 3) ≤ 6 then some (.sfree (fld w 23 17) (fld w 16 10) (fld w 9 3))
  else if fld w 2 0 = 2 ∧ 1 ≤ (fld w 9 3) ∧ (fld w 9 3) ≤ 6 then some (.spoke (fld w 23 17) (fld w 16 10) (fld w 9 3))
  else if fld w 2 0 = 3 ∧ fld w 16 10 = 0 ∧ 1 ≤ (fld w 9 3) ∧ (fld w 9 3) ≤ 6 then some (.legq (fld w 23 17) (fld w 9 3))
  else if fld w 9 0 = 4 ∧ fld w 23 17 = 0 then some (.foulc (fld w 16 10))
  else if fld w 9 0 = 5 then some (.ckpt (fld w 23 17) (fld w 16 10))
  else none

/-- Primary 0x18 (Tables 18.1 and 18.2, R266; reserved field values R267). -/
def dec18 (k : Option Nat) (w : Nat) : Option Instr :=
  if fld w 2 0 = 0 ∧ 1 ≤ (fld w 9 3) ∧ (fld w 9 3) ≤ 6 then some (.bar (fld w 23 17) (fld w 16 10) (fld w 9 3))
  else if fld w 2 0 = 1 ∧ 1 ≤ (fld w 9 3) ∧ (fld w 9 3) ≤ 6 then some (.bara (fld w 23 17) (fld w 16 10) (fld w 9 3))
  else if fld w 2 0 = 2 ∧ 1 ≤ (fld w 9 3) ∧ (fld w 9 3) ≤ 6 then some (.barw (fld w 23 17) (fld w 16 10) (fld w 9 3))
  else if fld w 2 0 = 3 ∧ 1 ≤ (fld w 9 3) ∧ (fld w 9 3) ≤ 6 then some (.toka (fld w 23 17) (fld w 16 10) (fld w 9 3))
  else if fld w 2 0 = 4 ∧ 1 ≤ (fld w 9 3) ∧ (fld w 9 3) ≤ 6 then some (.tokr (fld w 23 17) (fld w 16 10) (fld w 9 3))
  else if fld w 2 0 = 5 ∧ 1 ≤ (fld w 9 3) ∧ (fld w 9 3) ≤ 6 then some (.step (fld w 23 17) (fld w 16 10) (fld w 9 3))
  else if fld w 2 0 = 6 ∧ 1 ≤ (fld w 9 3) ∧ (fld w 9 3) ≤ 6 then some (.stepr (fld w 23 17) (fld w 16 10) (fld w 9 3))
  else if fld w 2 0 = 7 ∧ fld w 16 10 = 0 ∧ 1 ≤ (fld w 9 3) ∧ (fld w 9 3) ≤ 6 then some (.sound (fld w 23 17) (fld w 9 3))
  else none

/-- Primary 0x19 (Tables 18.1 and 18.2, R266; reserved field values R267). -/
def dec19 (k : Option Nat) (w : Nat) : Option Instr :=
  if fld w 2 0 = 0 ∧ fld w 23 17 = 0 then some (.send (fld w 16 10) (fld w 9 3))
  else if fld w 9 0 = 1 ∧ fld w 23 17 = 0 then some (.go (fld w 16 10))
  else none

/-- Primary 0x1A (Tables 18.1 and 18.2, R266; reserved field values R267). -/
def dec1A (k : Option Nat) (w : Nat) : Option Instr :=
  if fld w 9 0 = 0 ∧ fld w 23 17 = 0 then some (.put (fld w 16 10))
  else if fld w 9 0 = 1 ∧ fld w 23 17 = 0 then some (.get (fld w 16 10))
  else if fld w 2 0 = 2 then some (.tsend (fld w 23 17) (fld w 16 10) (fld w 9 3))
  else if fld w 9 0 = 3 then some (.tcancel (fld w 23 17) (fld w 16 10))
  else if fld w 2 0 = 4 ∧ (fld w 9 3) ≤ 15 then some (.scset (fld w 23 17) (fld w 16 10) (fld w 9 3))
  else if fld w 2 0 = 5 ∧ (fld w 9 3) ≤ 15 then some (.scadd (fld w 23 17) (fld w 16 10) (fld w 9 3))
  else if fld w 2 0 = 6 ∧ (fld w 9 3) ≤ 15 then some (.scwait (fld w 23 17) (fld w 16 10) (fld w 9 3))
  else if fld w 2 0 = 7 ∧ fld w 16 10 = 0 ∧ (fld w 9 3) ≤ 15 then some (.scrd (fld w 23 17) (fld w 9 3))
  else none

/-- Primary 0x1B (Tables 18.1 and 18.2, R266; reserved field values R267). -/
def dec1B (k : Option Nat) (w : Nat) : Option Instr :=
  if fld w 9 0 = 0 then some (.wrq (fld w 23 17) (fld w 16 10))
  else if fld w 16 0 = 1 then some (.wrcq (fld w 23 17))
  else if fld w 2 0 = 2 ∧ fld w 16 10 = 0 ∧ (fld w 9 3) ≤ 3 then some (.uestat (fld w 23 17) (fld w 9 3))
  else none

/-- Primary 0x1C (Tables 18.1 and 18.2, R266; reserved field values R267). -/
def dec1C (k : Option Nat) (w : Nat) : Option Instr :=
  if fld w 2 0 = 0 then some (.mfalloc (fld w 23 17) (fld w 16 10) (fld w 9 3))
  else if fld w 9 0 = 1 then some (.mffree (fld w 23 17) (fld w 16 10))
  else if fld w 16 0 = 2 then some (.mfquota (fld w 23 17))
  else if fld w 9 0 = 3 then some (.mfstat (fld w 23 17) (fld w 16 10))
  else none

/-- Primary 0x1D (Tables 18.1 and 18.2, R266; reserved field values R267). -/
def dec1D (k : Option Nat) (w : Nat) : Option Instr :=
  if fld w 9 0 = 0 then some (.swb (fld w 23 17) (fld w 16 10))
  else if fld w 9 0 = 1 then some (.swn (fld w 23 17) (fld w 16 10))
  else if fld w 9 0 = 2 then some (.swe (fld w 23 17) (fld w 16 10))
  else if fld w 9 0 = 3 then some (.resq (fld w 23 17) (fld w 16 10))
  else if fld w 9 0 = 4 then some (.swstat (fld w 23 17) (fld w 16 10))
  else none

/-- Primary 0x1E (Tables 18.1 and 18.2, R266; reserved field values R267). -/
def dec1E (k : Option Nat) (w : Nat) : Option Instr :=
  if fld w 9 0 = 0 then some (.qnew (fld w 23 17) (fld w 16 10))
  else if fld w 2 0 = 1 ∧ fld w 23 17 = 0 then some (.qenq (fld w 16 10) (fld w 9 3))
  else if fld w 9 0 = 2 then some (.qdeq (fld w 23 17) (fld w 16 10))
  else if fld w 2 0 = 3 then some (.qtry (fld w 23 17) (fld w 16 10) (fld w 9 3))
  else if fld w 9 0 = 4 then some (.qfree (fld w 23 17) (fld w 16 10))
  else none

/-- Primary 0x1F (Tables 18.1 and 18.2, R266; reserved field values R267). -/
def dec1F (k : Option Nat) (w : Nat) : Option Instr :=
  if fld w 9 0 = 0 then some (.gang (fld w 23 17) (fld w 16 10))
  else if fld w 23 0 = 1 then some (.disband)
  else none

/-- Primary 0x20 (Tables 18.1 and 18.2, R266; reserved field values R267). -/
def dec20 (k : Option Nat) (w : Nat) : Option Instr :=
  if fld w 2 0 = 0 ∧ (fld w 23 17) ≤ 31 ∧ 1 ≤ (fld w 9 3) ∧ (fld w 9 3) ≤ 7 then some (.pload (fld w 23 17) (fld w 16 10) (fld w 9 3))
  else if fld w 9 0 = 1 ∧ (fld w 23 17) ≤ 31 then some (.pstore (fld w 23 17) (fld w 16 10))
  else none

/-- Primary 0x21 (Tables 18.1 and 18.2, R266; reserved field values R267). -/
def dec21 (k : Option Nat) (w : Nat) : Option Instr :=
  if fld w 11 8 = 0 then some (.vld (fld w 23 19) (fld w 18 12) (fld w 7 0))
  else if fld w 11 8 = 1 then some (.vldStr (fld w 23 19) (fld w 18 12) (fld w 7 0))
  else if fld w 11 8 = 2 then some (.vldBc (fld w 23 19) (fld w 18 12) (fld w 7 0))
  else none

/-- Primary 0x22 (Tables 18.1 and 18.2, R266; reserved field values R267). -/
def dec22 (k : Option Nat) (w : Nat) : Option Instr :=
  if fld w 11 8 = 0 then some (.vst (fld w 23 19) (fld w 18 12) (fld w 7 0))
  else if fld w 11 8 = 1 then some (.vstStr (fld w 23 19) (fld w 18 12) (fld w 7 0))
  else none

/-- Primary 0x23 (Tables 18.1 and 18.2, R266; reserved field values R267). -/
def dec23 (k : Option Nat) (w : Nat) : Option Instr :=
  if fld w 16 8 = 0 then some (.csrr (fld w 23 17) (fld w 7 0))
  else if fld w 9 8 = 1 ∧ fld w 23 17 = 0 then some (.csrw (fld w 16 10) (fld w 7 0))
  else if fld w 9 8 = 2 then some (.csrx (fld w 23 17) (fld w 16 10) (fld w 7 0))
  else none

/-- Primary 0x24 (Tables 18.1 and 18.2, R266; reserved field values R267). -/
def dec24 (k : Option Nat) (w : Nat) : Option Instr :=
  if fld w 9 0 = 0 then some (.launch (fld w 23 17) (fld w 16 10))
  else if fld w 2 0 = 1 then some (.bencho (fld w 23 17) (fld w 16 10) (fld w 9 3))
  else if fld w 2 0 = 2 then some (.benchi (fld w 23 17) (fld w 16 10) (fld w 9 3))
  else if fld w 9 0 = 3 then some (.mapset (fld w 23 17) (fld w 16 10))
  else if fld w 2 0 = 4 then some (.xinv (fld w 23 17) (fld w 16 10) (fld w 9 3))
  else if fld w 9 0 = 5 then some (.keyset (fld w 23 17) (fld w 16 10))
  else if fld w 9 0 = 6 then some (.selft (fld w 23 17) (fld w 16 10))
  else none

/-- Primary 0x25 (Tables 18.1 and 18.2, R266; reserved field values R267). -/
def dec25 (k : Option Nat) (w : Nat) : Option Instr :=
  if fld w 23 0 = 0 then some (.vrb)
  else if fld w 2 0 = 1 ∧ fld w 23 17 = 0 then some (.vre (fld w 16 10) (fld w 9 3))
  else if fld w 23 0 = 2 then some (.vrstop)
  else if fld w 23 0 = 3 then some (.vrwait)
  else none

/-- Primary 0x28 (Tables 18.1 and 18.2, R266; reserved field values R267). -/
def dec28 (k : Option Nat) (w : Nat) : Option Instr :=
  if fld w 2 0 = 0 then some (.add (fld w 23 17) (fld w 16 10) (fld w 9 3))
  else if fld w 2 0 = 1 then some (.sub (fld w 23 17) (fld w 16 10) (fld w 9 3))
  else if fld w 2 0 = 2 then some (.and (fld w 23 17) (fld w 16 10) (fld w 9 3))
  else if fld w 2 0 = 3 then some (.or (fld w 23 17) (fld w 16 10) (fld w 9 3))
  else if fld w 2 0 = 4 then some (.xor (fld w 23 17) (fld w 16 10) (fld w 9 3))
  else if fld w 2 0 = 5 then some (.andn (fld w 23 17) (fld w 16 10) (fld w 9 3))
  else if fld w 2 0 = 6 then some (.sll (fld w 23 17) (fld w 16 10) (fld w 9 3))
  else if fld w 2 0 = 7 then some (.srl (fld w 23 17) (fld w 16 10) (fld w 9 3))
  else none

/-- Primary 0x29 (Tables 18.1 and 18.2, R266; reserved field values R267). -/
def dec29 (k : Option Nat) (w : Nat) : Option Instr :=
  if fld w 2 0 = 0 then some (.sra (fld w 23 17) (fld w 16 10) (fld w 9 3))
  else if fld w 2 0 = 1 then some (.rotr (fld w 23 17) (fld w 16 10) (fld w 9 3))
  else if fld w 2 0 = 2 then some (.min (fld w 23 17) (fld w 16 10) (fld w 9 3))
  else if fld w 2 0 = 3 then some (.max (fld w 23 17) (fld w 16 10) (fld w 9 3))
  else if fld w 2 0 = 4 then some (.minu (fld w 23 17) (fld w 16 10) (fld w 9 3))
  else if fld w 2 0 = 5 then some (.maxu (fld w 23 17) (fld w 16 10) (fld w 9 3))
  else if fld w 2 0 = 6 then some (.addw (fld w 23 17) (fld w 16 10) (fld w 9 3))
  else if fld w 2 0 = 7 then some (.subw (fld w 23 17) (fld w 16 10) (fld w 9 3))
  else none

/-- Primary 0x2A (Tables 18.1 and 18.2, R266; reserved field values R267). -/
def dec2A (k : Option Nat) (w : Nat) : Option Instr :=
  if fld w 2 0 = 0 then some (.mul (fld w 23 17) (fld w 16 10) (fld w 9 3))
  else if fld w 2 0 = 1 then some (.mulh (fld w 23 17) (fld w 16 10) (fld w 9 3))
  else if fld w 2 0 = 2 then some (.mulhu (fld w 23 17) (fld w 16 10) (fld w 9 3))
  else if fld w 2 0 = 3 then some (.mulw (fld w 23 17) (fld w 16 10) (fld w 9 3))
  else if fld w 2 0 = 4 then some (.div (fld w 23 17) (fld w 16 10) (fld w 9 3))
  else if fld w 2 0 = 5 then some (.divu (fld w 23 17) (fld w 16 10) (fld w 9 3))
  else if fld w 2 0 = 6 then some (.rem (fld w 23 17) (fld w 16 10) (fld w 9 3))
  else if fld w 2 0 = 7 then some (.remu (fld w 23 17) (fld w 16 10) (fld w 9 3))
  else none

/-- Primary 0x2B (Tables 18.1 and 18.2, R266; reserved field values R267). -/
def dec2B (k : Option Nat) (w : Nat) : Option Instr :=
  if fld w 9 0 = 0 then some (.clz (fld w 23 17) (fld w 16 10))
  else if fld w 9 0 = 1 then some (.ctz (fld w 23 17) (fld w 16 10))
  else if fld w 9 0 = 2 then some (.popc (fld w 23 17) (fld w 16 10))
  else if fld w 9 0 = 3 then some (.brev (fld w 23 17) (fld w 16 10))
  else if fld w 9 0 = 4 then some (.bswap (fld w 23 17) (fld w 16 10))
  else if fld w 2 0 = 5 ∧ (fld w 9 3) ≤ 63 then some (.sext (fld w 23 17) (fld w 16 10) (fld w 9 3))
  else if fld w 2 0 = 6 ∧ (fld w 9 3) ≤ 63 then some (.zext (fld w 23 17) (fld w 16 10) (fld w 9 3))
  else none

/-- Primary 0x2C (Tables 18.1 and 18.2, R266; reserved field values R267). -/
def dec2C (k : Option Nat) (w : Nat) : Option Instr :=
  if immOk k (fld w 9 0) then some (.addi (fld w 23 17) (fld w 16 10) (immOf k (fld w 9 0)))
  else none

/-- Primary 0x2D (Tables 18.1 and 18.2, R266; reserved field values R267). -/
def dec2D (k : Option Nat) (w : Nat) : Option Instr :=
  if immOk k (fld w 9 0) then some (.andi (fld w 23 17) (fld w 16 10) (immOf k (fld w 9 0)))
  else none

/-- Primary 0x2E (Tables 18.1 and 18.2, R266; reserved field values R267). -/
def dec2E (k : Option Nat) (w : Nat) : Option Instr :=
  if immOk k (fld w 9 0) then some (.ori (fld w 23 17) (fld w 16 10) (immOf k (fld w 9 0)))
  else none

/-- Primary 0x2F (Tables 18.1 and 18.2, R266; reserved field values R267). -/
def dec2F (k : Option Nat) (w : Nat) : Option Instr :=
  if immOk k (fld w 9 0) then some (.xori (fld w 23 17) (fld w 16 10) (immOf k (fld w 9 0)))
  else none

/-- Primary 0x30 (Tables 18.1 and 18.2, R266; reserved field values R267). -/
def dec30 (k : Option Nat) (w : Nat) : Option Instr :=
  if fld w 9 6 = 0 then some (.slli (fld w 23 17) (fld w 16 10) (fld w 5 0))
  else if fld w 9 6 = 4 then some (.srli (fld w 23 17) (fld w 16 10) (fld w 5 0))
  else if fld w 9 6 = 8 then some (.srai (fld w 23 17) (fld w 16 10) (fld w 5 0))
  else if fld w 9 6 = 12 then some (.rotri (fld w 23 17) (fld w 16 10) (fld w 5 0))
  else none

/-- Primary 0x31 (Tables 18.1 and 18.2, R266; reserved field values R267). -/
def dec31 (k : Option Nat) (w : Nat) : Option Instr :=
  if immOk k (fld w 16 0) then some (.movi (fld w 23 17) (immOf k (fld w 16 0)))
  else none

/-- Primary 0x32 (Tables 18.1 and 18.2, R266; reserved field values R267). -/
def dec32 (k : Option Nat) (w : Nat) : Option Instr :=
  if fld w 16 0 = 0 ∧ k.isSome then some (.movhi (fld w 23 17) (k.getD 0))
  else none

/-- Primary 0x33 (Tables 18.1 and 18.2, R266; reserved field values R267). -/
def dec33 (k : Option Nat) (w : Nat) : Option Instr :=
  if fld w 2 0 = 0 ∧ cmpOk k (fld w 10 4) (fld w 3 3) ∧ (fld w 23 22) ≤ 2 ∧ (fld w 21 18) ≤ 7 then some (.cmp (fld w 23 22) (fld w 21 18) (fld w 17 11) (cmpRhs k (fld w 10 4) (fld w 3 3)))
  else if fld w 2 0 = 1 ∧ cmpOk k (fld w 10 4) (fld w 3 3) ∧ (fld w 23 22) ≤ 2 ∧ (fld w 21 18) ≤ 7 then some (.cmpW (fld w 23 22) (fld w 21 18) (fld w 17 11) (cmpRhs k (fld w 10 4) (fld w 3 3)))
  else none

/-- Primary 0x34 (Tables 18.1 and 18.2, R266; reserved field values R267). -/
def dec34 (k : Option Nat) (w : Nat) : Option Instr :=
  if fld w 2 0 = 0 then some (.setcEq (fld w 23 17) (fld w 16 10) (fld w 9 3))
  else if fld w 2 0 = 1 then some (.setcNe (fld w 23 17) (fld w 16 10) (fld w 9 3))
  else if fld w 2 0 = 2 then some (.setcLt (fld w 23 17) (fld w 16 10) (fld w 9 3))
  else if fld w 2 0 = 3 then some (.setcGe (fld w 23 17) (fld w 16 10) (fld w 9 3))
  else if fld w 2 0 = 4 then some (.setcLtu (fld w 23 17) (fld w 16 10) (fld w 9 3))
  else if fld w 2 0 = 5 then some (.setcGeu (fld w 23 17) (fld w 16 10) (fld w 9 3))
  else if fld w 2 0 = 6 then some (.setcBs (fld w 23 17) (fld w 16 10) (fld w 9 3))
  else if fld w 2 0 = 7 then some (.setcBc (fld w 23 17) (fld w 16 10) (fld w 9 3))
  else none

/-- Primary 0x35 (Tables 18.1 and 18.2, R266; reserved field values R267). -/
def dec35 (k : Option Nat) (w : Nat) : Option Instr :=
  if fld w 2 0 = 0 then some (.faddD (fld w 23 17) (fld w 16 10) (fld w 9 3))
  else if fld w 2 0 = 1 then some (.fsubD (fld w 23 17) (fld w 16 10) (fld w 9 3))
  else if fld w 2 0 = 2 then some (.fmulD (fld w 23 17) (fld w 16 10) (fld w 9 3))
  else if fld w 2 0 = 3 then some (.fdivD (fld w 23 17) (fld w 16 10) (fld w 9 3))
  else if fld w 2 0 = 4 then some (.fminD (fld w 23 17) (fld w 16 10) (fld w 9 3))
  else if fld w 2 0 = 5 then some (.fmaxD (fld w 23 17) (fld w 16 10) (fld w 9 3))
  else if fld w 9 0 = 6 then some (.fsqrtD (fld w 23 17) (fld w 16 10))
  else if fld w 2 0 = 7 then some (.fcpsD (fld w 23 17) (fld w 16 10) (fld w 9 3))
  else none

/-- Primary 0x36 (Tables 18.1 and 18.2, R266; reserved field values R267). -/
def dec36 (k : Option Nat) (w : Nat) : Option Instr :=
  if fld w 2 0 = 0 then some (.faddS (fld w 23 17) (fld w 16 10) (fld w 9 3))
  else if fld w 2 0 = 1 then some (.fsubS (fld w 23 17) (fld w 16 10) (fld w 9 3))
  else if fld w 2 0 = 2 then some (.fmulS (fld w 23 17) (fld w 16 10) (fld w 9 3))
  else if fld w 2 0 = 3 then some (.fdivS (fld w 23 17) (fld w 16 10) (fld w 9 3))
  else if fld w 2 0 = 4 then some (.fminS (fld w 23 17) (fld w 16 10) (fld w 9 3))
  else if fld w 2 0 = 5 then some (.fmaxS (fld w 23 17) (fld w 16 10) (fld w 9 3))
  else if fld w 9 0 = 6 then some (.fsqrtS (fld w 23 17) (fld w 16 10))
  else if fld w 2 0 = 7 then some (.fcpsS (fld w 23 17) (fld w 16 10) (fld w 9 3))
  else none

/-- Primary 0x37 (Tables 18.1 and 18.2, R266; reserved field values R267). -/
def dec37 (k : Option Nat) (w : Nat) : Option Instr :=
  if fld w 2 0 = 0 then some (.fmaD (fld w 23 17) (fld w 16 10) (fld w 9 3))
  else if fld w 2 0 = 1 then some (.fmsD (fld w 23 17) (fld w 16 10) (fld w 9 3))
  else if fld w 2 0 = 2 then some (.fnmaD (fld w 23 17) (fld w 16 10) (fld w 9 3))
  else if fld w 2 0 = 4 then some (.fmaS (fld w 23 17) (fld w 16 10) (fld w 9 3))
  else if fld w 2 0 = 5 then some (.fmsS (fld w 23 17) (fld w 16 10) (fld w 9 3))
  else if fld w 2 0 = 6 then some (.fnmaS (fld w 23 17) (fld w 16 10) (fld w 9 3))
  else none

/-- Primary 0x38 (Tables 18.1 and 18.2, R266; reserved field values R267). -/
def dec38 (k : Option Nat) (w : Nat) : Option Instr :=
  if (fld w 9 3) ≤ 13 ∧ (fld w 2 0) ≤ 5 then some (.fcvt (fld w 23 17) (fld w 16 10) (fld w 9 3) (fld w 2 0))
  else none

/-- Primary 0x39 (Tables 18.1 and 18.2, R266; reserved field values R267). -/
def dec39 (k : Option Nat) (w : Nat) : Option Instr :=
  if fld w 9 0 = 0 then some (.frcp (fld w 23 17) (fld w 16 10))
  else if fld w 9 0 = 1 then some (.frsq (fld w 23 17) (fld w 16 10))
  else if fld w 9 0 = 2 then some (.fexp2 (fld w 23 17) (fld w 16 10))
  else if fld w 9 0 = 3 then some (.flog2 (fld w 23 17) (fld w 16 10))
  else if fld w 9 0 = 4 then some (.fclass (fld w 23 17) (fld w 16 10))
  else none

/-- Primary 0x3A (Tables 18.1 and 18.2, R266; reserved field values R267). -/
def dec3A (k : Option Nat) (w : Nat) : Option Instr :=
  if fld w 3 0 = 0 ∧ (fld w 23 22) ≤ 2 ∧ (fld w 21 18) ≤ 7 then some (.fcmpD (fld w 23 22) (fld w 21 18) (fld w 17 11) (fld w 10 4))
  else if fld w 3 0 = 1 ∧ (fld w 23 22) ≤ 2 ∧ (fld w 21 18) ≤ 7 then some (.fcmpS (fld w 23 22) (fld w 21 18) (fld w 17 11) (fld w 10 4))
  else none

/-- Primary 0x3B (Tables 18.1 and 18.2, R266; reserved field values R267). -/
def dec3B (k : Option Nat) (w : Nat) : Option Instr :=
  if fld w 8 0 = 0 then some (.vfadd (fld w 23 19) (fld w 18 14) (fld w 13 9))
  else if fld w 8 0 = 1 then some (.vfsub (fld w 23 19) (fld w 18 14) (fld w 13 9))
  else if fld w 8 0 = 2 then some (.vfmul (fld w 23 19) (fld w 18 14) (fld w 13 9))
  else if fld w 3 0 = 3 then some (.vfma (fld w 23 19) (fld w 18 14) (fld w 13 9) (fld w 8 4))
  else if fld w 8 0 = 4 then some (.vfmin (fld w 23 19) (fld w 18 14) (fld w 13 9))
  else if fld w 8 0 = 5 then some (.vfmax (fld w 23 19) (fld w 18 14) (fld w 13 9))
  else if fld w 13 0 = 6 then some (.vfrcp (fld w 23 19) (fld w 18 14))
  else if fld w 13 0 = 7 then some (.vfexp2 (fld w 23 19) (fld w 18 14))
  else none

/-- Primary 0x3C (Tables 18.1 and 18.2, R266; reserved field values R267). -/
def dec3C (k : Option Nat) (w : Nat) : Option Instr :=
  if fld w 8 0 = 0 then some (.vadd (fld w 23 19) (fld w 18 14) (fld w 13 9))
  else if fld w 8 0 = 1 then some (.vsub (fld w 23 19) (fld w 18 14) (fld w 13 9))
  else if fld w 8 0 = 2 then some (.vmul (fld w 23 19) (fld w 18 14) (fld w 13 9))
  else if fld w 8 0 = 3 then some (.vmin (fld w 23 19) (fld w 18 14) (fld w 13 9))
  else if fld w 8 0 = 4 then some (.vmax (fld w 23 19) (fld w 18 14) (fld w 13 9))
  else if fld w 8 0 = 5 then some (.vminu (fld w 23 19) (fld w 18 14) (fld w 13 9))
  else if fld w 8 0 = 6 then some (.vmaxu (fld w 23 19) (fld w 18 14) (fld w 13 9))
  else if fld w 8 0 = 7 then some (.vand (fld w 23 19) (fld w 18 14) (fld w 13 9))
  else if fld w 8 0 = 8 then some (.vor (fld w 23 19) (fld w 18 14) (fld w 13 9))
  else if fld w 8 0 = 9 then some (.vxor (fld w 23 19) (fld w 18 14) (fld w 13 9))
  else if fld w 8 0 = 10 then some (.vsll (fld w 23 19) (fld w 18 14) (fld w 13 9))
  else if fld w 8 0 = 11 then some (.vsrl (fld w 23 19) (fld w 18 14) (fld w 13 9))
  else if fld w 8 0 = 12 then some (.vsra (fld w 23 19) (fld w 18 14) (fld w 13 9))
  else none

/-- Primary 0x3D (Tables 18.1 and 18.2, R266; reserved field values R267). -/
def dec3D (k : Option Nat) (w : Nat) : Option Instr :=
  if fld w 3 0 = 0 ∧ fld w 13 9 = 0 ∧ (fld w 8 4) ≤ 1 then some (.vred (fld w 23 19) (fld w 18 14) (fld w 8 4))
  else if fld w 8 0 = 1 then some (.vperm (fld w 23 19) (fld w 18 14) (fld w 13 9))
  else if fld w 3 0 = 2 then some (.vsel (fld w 23 19) (fld w 18 14) (fld w 13 9) (fld w 8 4))
  else if fld w 3 0 = 3 ∧ (fld w 8 4) ≤ 15 then some (.vcmp (fld w 23 19) (fld w 18 14) (fld w 13 9) (fld w 8 4))
  else if fld w 3 0 = 4 ∧ fld w 13 9 = 0 ∧ (fld w 8 4) ≤ 7 then some (.vcvt (fld w 23 19) (fld w 18 14) (fld w 8 4))
  else if fld w 11 0 = 5 then some (.vbcast (fld w 23 19) (fld w 18 12))
  else if fld w 4 0 = 6 then some (.vext (fld w 23 17) (fld w 16 12) (fld w 11 5))
  else none

/-- Primary 0x3E (Tables 18.1 and 18.2, R266; reserved field values R267). -/
def dec3E (k : Option Nat) (w : Nat) : Option Instr :=
  if fld w 2 0 = 0 then some (.qnt (fld w 23 17) (fld w 16 10) (fld w 9 3))
  else if fld w 2 0 = 1 then some (.dqnt (fld w 23 17) (fld w 16 10) (fld w 9 3))
  else if fld w 2 0 = 2 then some (.baddq (fld w 23 17) (fld w 16 10) (fld w 9 3))
  else if fld w 2 0 = 3 then some (.scaleq (fld w 23 17) (fld w 16 10) (fld w 9 3))
  else none

/-- Primary 0x3F (Tables 18.1 and 18.2, R266; reserved field values R267). -/
def dec3F (k : Option Nat) (w : Nat) : Option Instr :=
  if fld w 2 0 = 0 ∧ (fld w 23 17) ≤ 31 ∧ (fld w 16 10) ≤ 31 ∧ (fld w 9 3) ≤ 31 then some (.pcomp (fld w 23 17) (fld w 16 10) (fld w 9 3))
  else if fld w 9 0 = 1 ∧ (fld w 23 17) ≤ 31 ∧ (fld w 16 10) ≤ 31 then some (.pinv (fld w 23 17) (fld w 16 10))
  else if fld w 2 0 = 2 ∧ (fld w 23 17) ≤ 31 ∧ 1 ≤ (fld w 9 3) ∧ (fld w 9 3) ≤ 7 then some (.prand (fld w 23 17) (fld w 16 10) (fld w 9 3))
  else if fld w 2 0 = 3 ∧ fld w 16 10 = 0 ∧ (fld w 23 17) ≤ 31 ∧ 1 ≤ (fld w 9 3) ∧ (fld w 9 3) ≤ 7 then some (.pidn (fld w 23 17) (fld w 9 3))
  else if fld w 2 0 = 4 ∧ (fld w 16 10) ≤ 31 ∧ (fld w 9 3) ≤ 4 then some (.pcyc (fld w 23 17) (fld w 16 10) (fld w 9 3))
  else if fld w 9 0 = 5 ∧ (fld w 23 17) ≤ 31 ∧ (fld w 16 10) ≤ 31 then some (.pmov (fld w 23 17) (fld w 16 10))
  else none

/-- The instruction of a 30-bit body; `k` is the literal K of a LONE bundle, none in a pair (R50, R52, R266). -/
def decodeBody (k : Option Nat) (w : Nat) : Option Instr :=
  match fld w 29 24 with
  | 0x00 => dec00 k w
  | 0x01 => dec01 k w
  | 0x02 => dec02 k w
  | 0x03 => dec03 k w
  | 0x04 => dec04 k w
  | 0x05 => dec05 k w
  | 0x06 => dec06 k w
  | 0x07 => dec07 k w
  | 0x08 => dec08 k w
  | 0x09 => dec09 k w
  | 0x0A => dec0A k w
  | 0x0B => dec0B k w
  | 0x0C => dec0C k w
  | 0x0D => dec0D k w
  | 0x0E => dec0E k w
  | 0x0F => dec0F k w
  | 0x10 => dec10 k w
  | 0x11 => dec11 k w
  | 0x12 => dec12 k w
  | 0x13 => dec13 k w
  | 0x14 => dec14 k w
  | 0x15 => dec15 k w
  | 0x16 => dec16 k w
  | 0x17 => dec17 k w
  | 0x18 => dec18 k w
  | 0x19 => dec19 k w
  | 0x1A => dec1A k w
  | 0x1B => dec1B k w
  | 0x1C => dec1C k w
  | 0x1D => dec1D k w
  | 0x1E => dec1E k w
  | 0x1F => dec1F k w
  | 0x20 => dec20 k w
  | 0x21 => dec21 k w
  | 0x22 => dec22 k w
  | 0x23 => dec23 k w
  | 0x24 => dec24 k w
  | 0x25 => dec25 k w
  | 0x28 => dec28 k w
  | 0x29 => dec29 k w
  | 0x2A => dec2A k w
  | 0x2B => dec2B k w
  | 0x2C => dec2C k w
  | 0x2D => dec2D k w
  | 0x2E => dec2E k w
  | 0x2F => dec2F k w
  | 0x30 => dec30 k w
  | 0x31 => dec31 k w
  | 0x32 => dec32 k w
  | 0x33 => dec33 k w
  | 0x34 => dec34 k w
  | 0x35 => dec35 k w
  | 0x36 => dec36 k w
  | 0x37 => dec37 k w
  | 0x38 => dec38 k w
  | 0x39 => dec39 k w
  | 0x3A => dec3A k w
  | 0x3B => dec3B k w
  | 0x3C => dec3C k w
  | 0x3D => dec3D k w
  | 0x3E => dec3E k w
  | 0x3F => dec3F k w
  | _ => none

/-- A body of class A: primaries 0x28 to 0x3F (R50). -/
def bodyIsA (w : Nat) : Bool := decide (0x28 ≤ fld w 29 24)

/-- The bundle of a 64-bit value, W0 in its low half; none is an invalid encoding (R49 to R54 step 2). -/
def decodeBundle (w : Nat) : Option Bundle :=
  let w0 := w % 4294967296
  let w1 := w / 4294967296 % 4294967296
  let vote := decide (fld w0 30 30 = 1)
  if fld w0 31 31 = 1 then
    (decodeBody (some w1) (fld w0 29 0)).map fun i => ⟨vote, .lone i⟩
  else if fld w1 31 30 = 0 ∧ !bodyIsA (fld w0 29 0) ∧ bodyIsA (fld w1 29 0) then
    match decodeBody none (fld w0 29 0), decodeBody none (fld w1 29 0) with
    | some c, some a => some ⟨vote, .pair c a⟩
    | _, _ => none
  else none

/-- Eight bytes, the one at the lowest address first, as the little-endian bundle they hold (R5). -/
def bundleOfBytes : List Byte → Nat
  | [] => 0
  | b :: bs => b.toNat + 256 * bundleOfBytes bs

/-- Decoding the bytes at a bundle's address: the first eight bytes and the rest, or a refusal when
fewer than eight are given or the encoding is invalid. -/
def decodeBytes (bs : List Byte) : Option (Bundle × List Byte) :=
  if bs.length < 8 then none
  else (decodeBundle (bundleOfBytes (bs.take 8))).map fun b => (b, bs.drop 8)

/-- The value an immediate puts in its short field: 0 when the operand stands in K (R52). -/
def Imm.field : Imm → Nat
  | .short v => v
  | .long _ => 0

/-- The b and i fields of CMP as one number, b * 2 + i. -/
def CmpRhs.field : CmpRhs → Nat
  | .reg b => b * 2
  | .imm i => i.field * 2 + 1

/-- Which bundles an instruction's operands fit: a pair only, a LONE bundle with this K only, or either. -/
inductive KKind where
  | any
  | pairOnly
  | loneK (k : Nat)
deriving DecidableEq, Repr

/-- Where an immediate can stand. -/
def Imm.kind : Imm → KKind
  | .short _ => .pairOnly
  | .long k => .loneK k

/-- Where CMP's right operand can stand: a register operand in either kind of bundle. -/
def CmpRhs.kind : CmpRhs → KKind
  | .reg _ => .any
  | .imm i => i.kind

/-- Which bundles can hold the instruction (Table 3.3, R52). -/
def Instr.kind : Instr → KKind
  | .lsetupImm _ c _ => c.kind
  | .ld _ _ _ _ o => o.kind
  | .st _ _ _ o => o.kind
  | .lda _ _ _ _ _ o => o.kind
  | .stl _ _ _ _ o => o.kind
  | .ldf _ _ _ _ o => o.kind
  | .ldfe _ _ _ _ o => o.kind
  | .stf _ _ _ o => o.kind
  | .ste _ _ _ o => o.kind
  | .sete _ _ o => o.kind
  | .setf _ _ o => o.kind
  | .addi _ _ i => i.kind
  | .andi _ _ i => i.kind
  | .ori _ _ i => i.kind
  | .xori _ _ i => i.kind
  | .movi _ i => i.kind
  | .movhi _ k => .loneK k
  | .cmp _ _ _ b => b.kind
  | .cmpW _ _ _ b => b.kind
  | _ => .any

/-- The 30-bit body of an instruction, from the formats of Table 3.4 (R56); 0 for an event, which has none. -/
def encodeBody : Instr → Nat
  | .trap a i => 0x01000000 + a * 1024 + i
  | .br o => 0x02000000 + o
  | .brl o => 0x03000000 + o
  | .jmpl d a => 0x04000000 + d * 131072 + a * 1024
  | .lsetupImm p c e => 0x05400000 + p * 8388608 + c.field * 4096 + e
  | .lsetupReg p r e => 0x05000000 + p * 8388608 + r * 4096 + e
  | .ld d a w s o => 0x06000000 + d * 131072 + a * 1024 + w * 256 + s * 128 + o.field
  | .st d a w o => 0x07000000 + d * 131072 + a * 1024 + w * 256 + o.field
  | .lda d a w s c _ => 0x08000000 + d * 131072 + a * 1024 + w * 256 + s * 128 + c * 16
  | .stl d a w c _ => 0x09000000 + d * 131072 + a * 1024 + w * 256 + c * 16
  | .ldf d a s c _ => 0x0A000300 + d * 131072 + a * 1024 + s * 128 + c * 16
  | .ldfe d a s c _ => 0x0A000301 + d * 131072 + a * 1024 + s * 128 + c * 16
  | .stf d a c _ => 0x0B000300 + d * 131072 + a * 1024 + c * 16
  | .ste d a c _ => 0x0B000301 + d * 131072 + a * 1024 + c * 16
  | .sete a c _ => 0x0B000302 + a * 1024 + c * 16
  | .setf a c _ => 0x0B000303 + a * 1024 + c * 16
  | .amoWAdd d a b => 0x0C000000 + d * 131072 + a * 1024 + b * 8
  | .amoWSwap d a b => 0x0C000001 + d * 131072 + a * 1024 + b * 8
  | .amoWAnd d a b => 0x0C000002 + d * 131072 + a * 1024 + b * 8
  | .amoWOr d a b => 0x0C000003 + d * 131072 + a * 1024 + b * 8
  | .amoWSmin d a b => 0x0C000004 + d * 131072 + a * 1024 + b * 8
  | .amoWSmax d a b => 0x0C000005 + d * 131072 + a * 1024 + b * 8
  | .amoWUmin d a b => 0x0C000006 + d * 131072 + a * 1024 + b * 8
  | .amoWUmax d a b => 0x0C000007 + d * 131072 + a * 1024 + b * 8
  | .amoDAdd d a b => 0x0D000000 + d * 131072 + a * 1024 + b * 8
  | .amoDSwap d a b => 0x0D000001 + d * 131072 + a * 1024 + b * 8
  | .amoDAnd d a b => 0x0D000002 + d * 131072 + a * 1024 + b * 8
  | .amoDOr d a b => 0x0D000003 + d * 131072 + a * 1024 + b * 8
  | .amoDSmin d a b => 0x0D000004 + d * 131072 + a * 1024 + b * 8
  | .amoDSmax d a b => 0x0D000005 + d * 131072 + a * 1024 + b * 8
  | .amoDUmin d a b => 0x0D000006 + d * 131072 + a * 1024 + b * 8
  | .amoDUmax d a b => 0x0D000007 + d * 131072 + a * 1024 + b * 8
  | .casW d a b => 0x0E000000 + d * 131072 + a * 1024 + b * 8
  | .casD d a b => 0x0E000001 + d * 131072 + a * 1024 + b * 8
  | .faggW d a b => 0x0F000000 + d * 131072 + a * 1024 + b * 8
  | .faggD d a b => 0x0F000001 + d * 131072 + a * 1024 + b * 8
  | .fence s => 0x10000000 + s * 1024
  | .fenceSs s => 0x10000001 + s * 1024
  | .fenceLa s => 0x10000002 + s * 1024
  | .cmoClean d a b => 0x11000000 + d * 131072 + a * 1024 + b * 8
  | .cmoInval d a b => 0x11000001 + d * 131072 + a * 1024 + b * 8
  | .cmoClinv d a b => 0x11000002 + d * 131072 + a * 1024 + b * 8
  | .cmoPref d a b => 0x11000003 + d * 131072 + a * 1024 + b * 8
  | .cmoZero d a b => 0x11000004 + d * 131072 + a * 1024 + b * 8
  | .cpy a x m => 0x12000000 + a * 131072 + x * 2048 + m * 32
  | .cpyf a x m => 0x12000040 + a * 131072 + x * 2048 + m * 32
  | .cpyg a x m => 0x12000080 + a * 131072 + x * 2048 + m * 32
  | .cpyp a x m p => 0x120000C0 + a * 131072 + x * 2048 + m * 32 + p
  | .cpyr a x m r => 0x12000100 + a * 131072 + x * 2048 + m * 32 + r
  | .cpys a x m => 0x12000140 + a * 131072 + x * 2048 + m * 32
  | .twall d a => 0x13000000 + d * 131072 + a * 1024
  | .twany d a => 0x13000001 + d * 131072 + a * 1024
  | .tffr d a => 0x13000002 + d * 131072 + a * 1024
  | .tclr a => 0x13000003 + a * 1024
  | .mma r s c f p z q m => 0x14000000 + r * 1048576 + s * 65536 + c * 32768 + f * 2048 + p * 512 + z * 256 + q * 128 + m * 4
  | .aclr a b => 0x15000000 + a * 1024 + b * 8
  | .asto a b => 0x15000001 + a * 1024 + b * 8
  | .ald a b => 0x15000002 + a * 1024 + b * 8
  | .rdef d a b => 0x16000000 + d * 131072 + a * 1024 + b * 8
  | .rqry d b => 0x16000001 + d * 131072 + b * 8
  | .rdrop d b => 0x16000002 + d * 131072 + b * 8
  | .rreset b => 0x16000003 + b * 8
  | .snew d a b => 0x17000000 + d * 131072 + a * 1024 + b * 8
  | .sfree d a b => 0x17000001 + d * 131072 + a * 1024 + b * 8
  | .spoke d a b => 0x17000002 + d * 131072 + a * 1024 + b * 8
  | .legq d b => 0x17000003 + d * 131072 + b * 8
  | .foulc a => 0x17000004 + a * 1024
  | .ckpt d a => 0x17000005 + d * 131072 + a * 1024
  | .bar d a b => 0x18000000 + d * 131072 + a * 1024 + b * 8
  | .bara d a b => 0x18000001 + d * 131072 + a * 1024 + b * 8
  | .barw d a b => 0x18000002 + d * 131072 + a * 1024 + b * 8
  | .toka d a b => 0x18000003 + d * 131072 + a * 1024 + b * 8
  | .tokr d a b => 0x18000004 + d * 131072 + a * 1024 + b * 8
  | .step d a b => 0x18000005 + d * 131072 + a * 1024 + b * 8
  | .stepr d a b => 0x18000006 + d * 131072 + a * 1024 + b * 8
  | .sound d b => 0x18000007 + d * 131072 + b * 8
  | .send a b => 0x19000000 + a * 1024 + b * 8
  | .go a => 0x19000001 + a * 1024
  | .put a => 0x1A000000 + a * 1024
  | .get a => 0x1A000001 + a * 1024
  | .tsend d a b => 0x1A000002 + d * 131072 + a * 1024 + b * 8
  | .tcancel d a => 0x1A000003 + d * 131072 + a * 1024
  | .scset d a b => 0x1A000004 + d * 131072 + a * 1024 + b * 8
  | .scadd d a b => 0x1A000005 + d * 131072 + a * 1024 + b * 8
  | .scwait d a b => 0x1A000006 + d * 131072 + a * 1024 + b * 8
  | .scrd d b => 0x1A000007 + d * 131072 + b * 8
  | .wrq d a => 0x1B000000 + d * 131072 + a * 1024
  | .wrcq d => 0x1B000001 + d * 131072
  | .uestat d b => 0x1B000002 + d * 131072 + b * 8
  | .mfalloc d a b => 0x1C000000 + d * 131072 + a * 1024 + b * 8
  | .mffree d a => 0x1C000001 + d * 131072 + a * 1024
  | .mfquota d => 0x1C000002 + d * 131072
  | .mfstat d a => 0x1C000003 + d * 131072 + a * 1024
  | .swb d a => 0x1D000000 + d * 131072 + a * 1024
  | .swn d a => 0x1D000001 + d * 131072 + a * 1024
  | .swe d a => 0x1D000002 + d * 131072 + a * 1024
  | .resq d a => 0x1D000003 + d * 131072 + a * 1024
  | .swstat d a => 0x1D000004 + d * 131072 + a * 1024
  | .qnew d a => 0x1E000000 + d * 131072 + a * 1024
  | .qenq a b => 0x1E000001 + a * 1024 + b * 8
  | .qdeq d a => 0x1E000002 + d * 131072 + a * 1024
  | .qtry d a b => 0x1E000003 + d * 131072 + a * 1024 + b * 8
  | .qfree d a => 0x1E000004 + d * 131072 + a * 1024
  | .gang d a => 0x1F000000 + d * 131072 + a * 1024
  | .pload d a b => 0x20000000 + d * 131072 + a * 1024 + b * 8
  | .pstore d a => 0x20000001 + d * 131072 + a * 1024
  | .vld d a o => 0x21000000 + d * 524288 + a * 4096 + o
  | .vldStr d a o => 0x21000100 + d * 524288 + a * 4096 + o
  | .vldBc d a o => 0x21000200 + d * 524288 + a * 4096 + o
  | .vst d a o => 0x22000000 + d * 524288 + a * 4096 + o
  | .vstStr d a o => 0x22000100 + d * 524288 + a * 4096 + o
  | .csrr d c => 0x23000000 + d * 131072 + c
  | .csrw a c => 0x23000100 + a * 1024 + c
  | .csrx d a c => 0x23000200 + d * 131072 + a * 1024 + c
  | .launch d a => 0x24000000 + d * 131072 + a * 1024
  | .bencho d a b => 0x24000001 + d * 131072 + a * 1024 + b * 8
  | .benchi d a b => 0x24000002 + d * 131072 + a * 1024 + b * 8
  | .mapset d a => 0x24000003 + d * 131072 + a * 1024
  | .xinv d a b => 0x24000004 + d * 131072 + a * 1024 + b * 8
  | .keyset d a => 0x24000005 + d * 131072 + a * 1024
  | .selft d a => 0x24000006 + d * 131072 + a * 1024
  | .vre a b => 0x25000001 + a * 1024 + b * 8
  | .add d a b => 0x28000000 + d * 131072 + a * 1024 + b * 8
  | .sub d a b => 0x28000001 + d * 131072 + a * 1024 + b * 8
  | .and d a b => 0x28000002 + d * 131072 + a * 1024 + b * 8
  | .or d a b => 0x28000003 + d * 131072 + a * 1024 + b * 8
  | .xor d a b => 0x28000004 + d * 131072 + a * 1024 + b * 8
  | .andn d a b => 0x28000005 + d * 131072 + a * 1024 + b * 8
  | .sll d a b => 0x28000006 + d * 131072 + a * 1024 + b * 8
  | .srl d a b => 0x28000007 + d * 131072 + a * 1024 + b * 8
  | .sra d a b => 0x29000000 + d * 131072 + a * 1024 + b * 8
  | .rotr d a b => 0x29000001 + d * 131072 + a * 1024 + b * 8
  | .min d a b => 0x29000002 + d * 131072 + a * 1024 + b * 8
  | .max d a b => 0x29000003 + d * 131072 + a * 1024 + b * 8
  | .minu d a b => 0x29000004 + d * 131072 + a * 1024 + b * 8
  | .maxu d a b => 0x29000005 + d * 131072 + a * 1024 + b * 8
  | .addw d a b => 0x29000006 + d * 131072 + a * 1024 + b * 8
  | .subw d a b => 0x29000007 + d * 131072 + a * 1024 + b * 8
  | .mul d a b => 0x2A000000 + d * 131072 + a * 1024 + b * 8
  | .mulh d a b => 0x2A000001 + d * 131072 + a * 1024 + b * 8
  | .mulhu d a b => 0x2A000002 + d * 131072 + a * 1024 + b * 8
  | .mulw d a b => 0x2A000003 + d * 131072 + a * 1024 + b * 8
  | .div d a b => 0x2A000004 + d * 131072 + a * 1024 + b * 8
  | .divu d a b => 0x2A000005 + d * 131072 + a * 1024 + b * 8
  | .rem d a b => 0x2A000006 + d * 131072 + a * 1024 + b * 8
  | .remu d a b => 0x2A000007 + d * 131072 + a * 1024 + b * 8
  | .clz d a => 0x2B000000 + d * 131072 + a * 1024
  | .ctz d a => 0x2B000001 + d * 131072 + a * 1024
  | .popc d a => 0x2B000002 + d * 131072 + a * 1024
  | .brev d a => 0x2B000003 + d * 131072 + a * 1024
  | .bswap d a => 0x2B000004 + d * 131072 + a * 1024
  | .sext d a b => 0x2B000005 + d * 131072 + a * 1024 + b * 8
  | .zext d a b => 0x2B000006 + d * 131072 + a * 1024 + b * 8
  | .addi d a i => 0x2C000000 + d * 131072 + a * 1024 + i.field
  | .andi d a i => 0x2D000000 + d * 131072 + a * 1024 + i.field
  | .ori d a i => 0x2E000000 + d * 131072 + a * 1024 + i.field
  | .xori d a i => 0x2F000000 + d * 131072 + a * 1024 + i.field
  | .slli d a s => 0x30000000 + d * 131072 + a * 1024 + s
  | .srli d a s => 0x30000100 + d * 131072 + a * 1024 + s
  | .srai d a s => 0x30000200 + d * 131072 + a * 1024 + s
  | .rotri d a s => 0x30000300 + d * 131072 + a * 1024 + s
  | .movi d i => 0x31000000 + d * 131072 + i.field
  | .movhi d _ => 0x32000000 + d * 131072
  | .cmp k c a b => 0x33000000 + k * 4194304 + c * 262144 + a * 2048 + b.field * 8
  | .cmpW k c a b => 0x33000001 + k * 4194304 + c * 262144 + a * 2048 + b.field * 8
  | .setcEq d a b => 0x34000000 + d * 131072 + a * 1024 + b * 8
  | .setcNe d a b => 0x34000001 + d * 131072 + a * 1024 + b * 8
  | .setcLt d a b => 0x34000002 + d * 131072 + a * 1024 + b * 8
  | .setcGe d a b => 0x34000003 + d * 131072 + a * 1024 + b * 8
  | .setcLtu d a b => 0x34000004 + d * 131072 + a * 1024 + b * 8
  | .setcGeu d a b => 0x34000005 + d * 131072 + a * 1024 + b * 8
  | .setcBs d a b => 0x34000006 + d * 131072 + a * 1024 + b * 8
  | .setcBc d a b => 0x34000007 + d * 131072 + a * 1024 + b * 8
  | .faddD d a b => 0x35000000 + d * 131072 + a * 1024 + b * 8
  | .fsubD d a b => 0x35000001 + d * 131072 + a * 1024 + b * 8
  | .fmulD d a b => 0x35000002 + d * 131072 + a * 1024 + b * 8
  | .fdivD d a b => 0x35000003 + d * 131072 + a * 1024 + b * 8
  | .fminD d a b => 0x35000004 + d * 131072 + a * 1024 + b * 8
  | .fmaxD d a b => 0x35000005 + d * 131072 + a * 1024 + b * 8
  | .fsqrtD d a => 0x35000006 + d * 131072 + a * 1024
  | .fcpsD d a b => 0x35000007 + d * 131072 + a * 1024 + b * 8
  | .faddS d a b => 0x36000000 + d * 131072 + a * 1024 + b * 8
  | .fsubS d a b => 0x36000001 + d * 131072 + a * 1024 + b * 8
  | .fmulS d a b => 0x36000002 + d * 131072 + a * 1024 + b * 8
  | .fdivS d a b => 0x36000003 + d * 131072 + a * 1024 + b * 8
  | .fminS d a b => 0x36000004 + d * 131072 + a * 1024 + b * 8
  | .fmaxS d a b => 0x36000005 + d * 131072 + a * 1024 + b * 8
  | .fsqrtS d a => 0x36000006 + d * 131072 + a * 1024
  | .fcpsS d a b => 0x36000007 + d * 131072 + a * 1024 + b * 8
  | .fmaD d a b => 0x37000000 + d * 131072 + a * 1024 + b * 8
  | .fmsD d a b => 0x37000001 + d * 131072 + a * 1024 + b * 8
  | .fnmaD d a b => 0x37000002 + d * 131072 + a * 1024 + b * 8
  | .fmaS d a b => 0x37000004 + d * 131072 + a * 1024 + b * 8
  | .fmsS d a b => 0x37000005 + d * 131072 + a * 1024 + b * 8
  | .fnmaS d a b => 0x37000006 + d * 131072 + a * 1024 + b * 8
  | .fcvt d a b r => 0x38000000 + d * 131072 + a * 1024 + b * 8 + r
  | .frcp d a => 0x39000000 + d * 131072 + a * 1024
  | .frsq d a => 0x39000001 + d * 131072 + a * 1024
  | .fexp2 d a => 0x39000002 + d * 131072 + a * 1024
  | .flog2 d a => 0x39000003 + d * 131072 + a * 1024
  | .fclass d a => 0x39000004 + d * 131072 + a * 1024
  | .fcmpD k c a b => 0x3A000000 + k * 4194304 + c * 262144 + a * 2048 + b * 16
  | .fcmpS k c a b => 0x3A000001 + k * 4194304 + c * 262144 + a * 2048 + b * 16
  | .vfadd d a b => 0x3B000000 + d * 524288 + a * 16384 + b * 512
  | .vfsub d a b => 0x3B000001 + d * 524288 + a * 16384 + b * 512
  | .vfmul d a b => 0x3B000002 + d * 524288 + a * 16384 + b * 512
  | .vfma d a b c => 0x3B000003 + d * 524288 + a * 16384 + b * 512 + c * 16
  | .vfmin d a b => 0x3B000004 + d * 524288 + a * 16384 + b * 512
  | .vfmax d a b => 0x3B000005 + d * 524288 + a * 16384 + b * 512
  | .vfrcp d a => 0x3B000006 + d * 524288 + a * 16384
  | .vfexp2 d a => 0x3B000007 + d * 524288 + a * 16384
  | .vadd d a b => 0x3C000000 + d * 524288 + a * 16384 + b * 512
  | .vsub d a b => 0x3C000001 + d * 524288 + a * 16384 + b * 512
  | .vmul d a b => 0x3C000002 + d * 524288 + a * 16384 + b * 512
  | .vmin d a b => 0x3C000003 + d * 524288 + a * 16384 + b * 512
  | .vmax d a b => 0x3C000004 + d * 524288 + a * 16384 + b * 512
  | .vminu d a b => 0x3C000005 + d * 524288 + a * 16384 + b * 512
  | .vmaxu d a b => 0x3C000006 + d * 524288 + a * 16384 + b * 512
  | .vand d a b => 0x3C000007 + d * 524288 + a * 16384 + b * 512
  | .vor d a b => 0x3C000008 + d * 524288 + a * 16384 + b * 512
  | .vxor d a b => 0x3C000009 + d * 524288 + a * 16384 + b * 512
  | .vsll d a b => 0x3C00000A + d * 524288 + a * 16384 + b * 512
  | .vsrl d a b => 0x3C00000B + d * 524288 + a * 16384 + b * 512
  | .vsra d a b => 0x3C00000C + d * 524288 + a * 16384 + b * 512
  | .vred d a c => 0x3D000000 + d * 524288 + a * 16384 + c * 16
  | .vperm d a p => 0x3D000001 + d * 524288 + a * 16384 + p * 512
  | .vsel d a b c => 0x3D000002 + d * 524288 + a * 16384 + b * 512 + c * 16
  | .vcmp d a b c => 0x3D000003 + d * 524288 + a * 16384 + b * 512 + c * 16
  | .vcvt d a c => 0x3D000004 + d * 524288 + a * 16384 + c * 16
  | .vbcast d s => 0x3D000005 + d * 524288 + s * 4096
  | .vext d a n => 0x3D000006 + d * 131072 + a * 4096 + n * 32
  | .qnt d a b => 0x3E000000 + d * 131072 + a * 1024 + b * 8
  | .dqnt d a b => 0x3E000001 + d * 131072 + a * 1024 + b * 8
  | .baddq d a b => 0x3E000002 + d * 131072 + a * 1024 + b * 8
  | .scaleq d a b => 0x3E000003 + d * 131072 + a * 1024 + b * 8
  | .pcomp d a b => 0x3F000000 + d * 131072 + a * 1024 + b * 8
  | .pinv d a => 0x3F000001 + d * 131072 + a * 1024
  | .prand d a b => 0x3F000002 + d * 131072 + a * 1024 + b * 8
  | .pidn d b => 0x3F000003 + d * 131072 + b * 8
  | .pcyc d a b => 0x3F000004 + d * 131072 + a * 1024 + b * 8
  | .pmov d a => 0x3F000005 + d * 131072 + a * 1024
  | .illegalEncoding .. => 0
  | .fetchFault .. => 0
  | .nop => 0x00000000
  | .yield => 0x00000001
  | .exit => 0x00000002
  | .eret => 0x00000003
  | .disband => 0x1F000001
  | .vrb => 0x25000000
  | .vrstop => 0x25000002
  | .vrwait => 0x25000003
  | .powerOnReset .. => 0
  | .functionReady .. => 0
  | .commandFetch .. => 0
  | .init .. => 0
  | .hostLaunch .. => 0
  | .rstat .. => 0
  | .freset .. => 0
  | .attest .. => 0
  | .fwload .. => 0
  | .cdoor .. => 0
  | .qstart .. => 0
  | .registerWrite .. => 0
  | .migrationGo .. => 0
  | .migrationComplete .. => 0
  | .stestStart .. => 0
  | .selfTestComplete .. => 0
  | .uvUnfreeze .. => 0
  | .uvFreeze .. => 0
  | .uvEnableWrite .. => 0
  | .mfqset .. => 0
  | .uvStep .. => 0
  | .uvMeasureEnd .. => 0
  | .powerSample .. => 0
  | .translationWalkComplete .. => 0
  | .memoryReply .. => 0
  | .storeTakesEffect .. => 0
  | .storeReply .. => 0
  | .pageHeatHalve .. => 0
  | .loopSlotReserve .. => 0
  | .loopStopPowerDown .. => 0
  | .loopStopWake .. => 0
  | .longLatencyWriteback .. => 0
  | .eventDelivery .. => 0
  | .yieldExpiry .. => 0
  | .handlerIssueLimit .. => 0
  | .activeMessageArrival .. => 0
  | .handlerStart .. => 0
  | .absent .. => 0
  | .loopPortWordArrival .. => 0
  | .loopPortCreditReturn .. => 0
  | .goArrival .. => 0
  | .parkedThreadPlace .. => 0
  | .mapsetForward .. => 0
  | .exitComplete .. => 0
  | .launchCompletionWrite .. => 0
  | .benchImageWrite .. => 0
  | .copyStart .. => 0
  | .copyComplete .. => 0
  | .mmaStart .. => 0
  | .mmaComplete .. => 0
  | .vectorStart .. => 0
  | .vectorWriteback .. => 0
  | .solverComplete .. => 0
  | .putArrival .. => 0
  | .putComplete .. => 0
  | .uePacketArrival .. => 0
  | .wrqComplete .. => 0
  | .norecvTimeout .. => 0
  | .syncRoundStart .. => 0
  | .umpireRoundEnd .. => 0
  | .completionReport .. => 0
  | .phaseMessage .. => 0
  | .verdictDelivery .. => 0
  | .memberAbsent .. => 0
  | .tokenPass .. => 0
  | .stepAdvance .. => 0
  | .rollbackResume .. => 0
  | .errorDetected .. => 0
  | .sweeperExamine .. => 0
  | .sweeperPassStart .. => 0
  | .sweeperForce .. => 0
  | .faggGroupClose .. => 0
  | .requestArrival .. => 0
  | .requestResend .. => 0
  | .requestTimeout .. => 0
  | .dedupExpiry .. => 0
  | .flitReceive .. => 0
  | .replayRequest .. => 0
  | .criticalPacketReceive .. => 0
  | .portTrainingEnd .. => 0
  | .trainingTimeout .. => 0
  | .flowMove .. => 0
  | .flowStallEnd .. => 0
  | .switchLossNotice .. => 0
  | .rheadAdvance .. => 0
  | .portCommand .. => 0
  | .memoryWriteComplete .. => 0

/-- The neutral A-class partner that completes a C-class half to a pair: ADD z, z, z (R274). -/
def neutralA : Instr := .add 112 112 112

/-- The 64-bit bundle that holds the instruction: a LONE bundle (K = 0 where it ignores K), or, where the
operand stands in a short field, a pair with the neutral partner of the other class (R49 to R52). -/
def encode (i : Instr) : Nat :=
  match i.kind with
  | .any => 0x80000000 + encodeBody i
  | .loneK k => 0x80000000 + encodeBody i + 4294967296 * k
  | .pairOnly =>
    if bodyIsA (encodeBody i) then encodeBody .nop + 4294967296 * encodeBody i
    else encodeBody i + 4294967296 * encodeBody neutralA

/-- The 64-bit value of a bundle (R49, R53). -/
def encodeBundle (b : Bundle) : Nat :=
  let v := if b.vote then 0x40000000 else 0
  match b.slots with
  | .pair c a => v + encodeBody c + 4294967296 * encodeBody a
  | .lone i =>
    match i.kind with
    | .loneK k => 0x80000000 + v + encodeBody i + 4294967296 * k
    | _ => 0x80000000 + v + encodeBody i

/-- The whole bundle that an opcode-table word stands for. With LONE set the word is W0 and W1 is zero; with
LONE clear the word is one half of a pair, which the neutral partner of the other class completes. -/
def tableBundle (nbits w : Nat) : Nat :=
  if nbits = 32 then
    if fld w 31 31 = 1 then w
    else if bodyIsA (fld w 29 0) then encodeBody .nop + 4294967296 * w
    else w + 4294967296 * encodeBody neutralA
  else w

/-- The instruction of interest of a decoded table word: the LONE instruction, or the half of the pair that
is not the neutral partner. -/
def tableInstr (w : Nat) (b : Bundle) : Instr :=
  match b.slots with
  | .lone i => i
  | .pair c a => if bodyIsA (fld w 29 0) then a else c

/-- The instruction the decoder reads from an instruction whose bits are `w`, numbered as the opcode table
numbers them; none where it refuses. -/
def decodeTableWord (nbits w : Nat) : Option Instr :=
  (decodeBundle (tableBundle nbits w)).map (tableInstr w)

end Sys2Proof
end

