-- ==== Sys2Proof/Machine/Msg.lean ====
section
/-! DEFINITION. Active messages and their handlers, ABSENT, loop ports, migration with GO (R39 to R46, R105, R106, R301,
R316, R350). -/

namespace Sys2Proof.Machine

/-! ### Windows and slots (R21, R28 to R30, Table 1.2) -/

/-- The first base at which `n` registers fit between the windows `ws` below `cap`. -/
def firstFit (cap n : Nat) (ws : List (Nat × Nat)) : Option Nat :=
  ((0 :: ws.map (fun w => w.1 + w.2)).filter (fun b => decide (b + n ≤ cap) && ws.all (fun w => !overlap b n w.1 w.2))).foldl
    (fun (m : Option Nat) b => some (min b (m.getD b))) none

/-- The threads in slots 0 to 61 of the etlet in focus. -/
def State.seated (s : State) : List (Nat × Thread) := (kset s.etl.threads s.slot s.thr).filter (fun p => decide (p.1 < 62))

/-- Registers for threads in the etlet's protection mode (R30). -/
def Etlet.regCap (e : Etlet) : Nat := if e.detect then 2200 else 2016

/-- Puts a thread into slot `l` of the etlet in focus. -/
def setThread (l : Nat) (t : Thread) (s : State) : State :=
  if l = s.slot then { s with thr := some t } else s.modE (fun e => { e with threads := kput e.threads l t })

/-- Seats a thread in slot `l` with windows of its sizes, if there are any. -/
def seatAt (l : Nat) (t : Thread) (s : State) : Option State :=
  let ws := s.seated
  match firstFit s.etl.regCap t.limit (ws.map (fun p => (p.2.base, p.2.limit))), firstFit 256 t.vlimit (ws.map (fun p => (p.2.vbase, p.2.vlimit))) with
  | some b, some v =>
    let lk := (kgetD s.etl.kernels t.kid {}).launch
    some (breakGangs l (fun k => decide (k ≠ lk)) (setThread l { t with base := b, vbase := v } s))
  | _, _ => none

/-- The lowest free thread slot; on a gateway one of those that its firmware leaves to reduction threads (R196). -/
def State.freeThreadSlot (s : State) : Option Nat :=
  if s.gateway then lowest (fun i => (s.threadAt i).isNone) 48 14 else lowest (fun i => (s.threadAt i).isNone) 0 62

/-- Seats a thread in the lowest free slot (R22, R44). -/
def seat (t : Thread) (s : State) : Option (Nat × State) :=
  match s.freeThreadSlot with
  | none => none
  | some l => (seatAt l t s).map (fun s => (l, s))

/-- The kernel of launch `lk` on the etlet in focus. -/
def State.kernelOf (s : State) (lk : Nat) : Option (Nat × Kernel) := s.etl.kernels.find? (fun p => decide (p.2.launch = lk))

/-- A free hand-off slot. -/
def State.freeHandoff (s : State) : Option Nat := lowest (fun i => (s.threadAt i).isNone) 62 2

/-! ### Messages (R39) -/

/-- The handler of a message in hand-off slot `l` (R39, R41). -/
def handlerThread (tid kid l : Nat) (k : Kernel) (la : Launch) (shape : Word) (m : Msg) : Thread :=
  let w := fun i => (1 + i + 1, m.words.getD i 0)
  { tid := tid, kid := kid, pc := m.words.headD 0, limit := 16, rank := BitVec.allOnes 64,
    teamix := wd (k.vix * 64 + l), shape := setBits shape 0 6 (bits shape 5 0), policy := wd la.policy, handler := 1,
    g := [(1, m.sender)] ++ (List.range 7).map (fun i => w (i + 1)) ++ [(10, wd m.words.length)] }

/-- SHAPE of a launch (Table 2.8). -/
def Launch.shapeWord (l : Launch) : Word :=
  wd ((l.domains - 1) * 2 ^ 28 + (l.packages - 1) * 2 ^ 18 + (l.dies - 1) * 2 ^ 16 + (l.clusters - 1) * 2 ^ 10 + (l.etlets - 1) * 2 ^ 6 + (l.threads - 1))

/-- Starts the oldest waiting message in a free hand-off slot (R39), an acquire where the message is of package scope or wider (R98, R106);
one whose launch has no kernel here is discarded. -/
def startHandler (s : State) : State :=
  match s.etl.inbox, s.freeHandoff with
  | m :: rest, some l =>
    let s := s.modE (fun e => { e with inbox := rest })
    match s.kernelOf m.launch with
    | none => record m.launch { eval := m.words.headD 0, rank := BitVec.allOnes 64, code := cDabort, level := 0, only := true } s
    | some (kid, k) =>
      let la := kgetD s.launches m.launch {}
      let s := if 4 ≤ m.scope then s.acquire (dieOf s.eid) else s
      setThread l (handlerThread s.nextTid kid l k la la.shapeWord m) { s with nextTid := s.nextTid + 1 }
  | _, _ => s

/-- A message reaches the etlet in focus (R39): handlers start in arrival order. (DESIGN CHOICE, log 29) -/
def msgArrive (m : Msg) (s : State) : State := startHandler (s.modE (fun e => { e with inbox := e.inbox ++ [m] }))

/-- The launch of a forwarded item. -/
def Fwd.launch : Fwd → Nat
  | .msg m => m.launch
  | .go t => t.lk
  | .word w => w.lk

/-- Whether arrivals of a launch at etlet `e` are held back until the dugout has forwarded everything (R47). -/
def State.heldBack (s : State) (e lk : Nat) : Bool :=
  s.save.etlets.any (fun p => p.2.fwd.any (fun x => decide (x.1 = e ∧ x.2.launch = lk)))

/-- Whether the dugout of the etlet in focus, of 4,096 items, has room (R13, Table 1.2). -/
def State.dugoutRoom (s : State) : Bool := decide (s.dugout (clusterOf s.eid) < 4096)

/-- Whether a message that arrives has a place: in the inbound buffer or the dugout (R39). -/
def State.msgRoom (s : State) : Bool := decide (s.etl.inbox.length < 8) || s.dugoutRoom

/-- ACTIVE_MESSAGE_ARRIVAL (R39): the oldest message on its way; where nothing has room it stays there, and VC0 with it. From another package
it comes through the port of its flow (R195). -/
def execActiveMessageArrival (e : Nat) (s : State) : Res :=
  atE e s (fun s =>
    match s.etl.msgs with
    | [] => s
    | m :: rest =>
      if s.heldBack e m.launch ∨ s.msgRoom = false then s
      else match usePort 0 m.src (pkgOf e) s with
      | none => s
      | some s => eachEtlet (fun _ => true) (readyWhere (fun w => decide (w = .stall))) (msgArrive m (s.modE (fun x => { x with msgs := rest }))))

/-- HANDLER_START (R39): when a hand-off slot has freed. -/
def execHandlerStart (e : Nat) (s : State) : Res :=
  atE e s (fun s => reachWakes (eachEtlet (fun _ => true) (readyWhere (fun w => decide (w = .stall))) (startHandler s)))

/-- HANDLER_ISSUE_LIMIT (R40): a handler whose EXIT has issued has run to completion. (DEDUCED, log 21) -/
def execHandlerIssueLimit (e slot : Nat) (s : State) : Res :=
  at_ e slot s (fun s =>
    if s.handoff ∧ s.th.handler = 1 ∧ 4096 ≤ s.th.issues ∧ s.th.st ≠ .waiting .exitDrain then takeTrap { code := cHandler, eval := 1 } s else s)

/-- The causes of SEND, the register run first (R272, R350). A count that takes the run to the special registers has failed at step 4. -/
def sendCause (a b : Nat) (s : State) : Option Cause :=
  let n := bits (s.rd b) 3 0
  if s.th.limit ≤ a + n then some { code := cWindow, eval := wd (a + n) }
  else if n = 0 ∨ 8 < n ∨ bits (s.rd b) 63 4 ≠ 0 then some (illegalReg b)
  else if bits (s.rd a) 62 38 ≠ 0 ∨ bits (s.rd a) 2 0 ≠ 0 ∨ (s.lnch.chanEtlet (s.rd a)).isNone then some (illegalReg a)
  else if (s.rd (a + 1)).toNat % 8 ≠ 0 then some { code := cAlign, eval := s.rd (a + 1) }
  else none

/-- SEND (R39, R106, R350): a release at die scope; the message's scope is the narrowest that holds both etlets. -/
def execSend (a b : Nat) (s : State) : Res :=
  issue (.send a b) s (fun s =>
    match sendCause a b s, s.lnch.chanEtlet (s.rd a) with
    | some c, _ => takeTrap c s
    | none, none => s
    | none, some e => afterVerdicts s (fun s => release s (fun s =>
      if s.vc0Stalls e then waitFor .stall 112 s
      else
        let m : Msg := ⟨s.lkey, s.myVirt, (List.range (bits (s.rd b) 3 0)).map (fun i => s.rd (a + 1 + i)), scopeBetween s.eid e, s.eid, s.now⟩
        advance (s.modEt e (fun x => { x with msgs := x.msgs ++ [m] })))))

/-! ### ABSENT (R43, R224) -/

/-- ABSENT (R43): the oldest one is raised in a free hand-off slot, in supervisor mode, at the scheduler vector, also where its thread has
been restored meanwhile. (DEDUCED, log 33) -/
def execAbsent (e : Nat) (s : State) : Res :=
  atE e s (fun s =>
    match s.etl.absent, s.freeHandoff with
    | a :: rest, some l =>
      let s := s.modE (fun x => { x with absent := rest })
      match s.kernelOf a.lk with
      | none => s
      | some (kid, k) =>
        let t : Thread := {
          tid := s.nextTid, kid := kid, limit := 16, rank := BitVec.allOnes 64, teamix := wd (k.vix * 64 + l),
          shape := (kgetD s.launches k.launch {}).shapeWord, policy := wd (kgetD s.launches k.launch {}).policy,
          svec := s.etl.schedvec, handler := 2 }
        setThread l (enterTrap { code := cAbsent, eval := wd a.slot } t) { s with nextTid := s.nextTid + 1 }
    | _, _ => s)

/-! ### Loop ports (R43, R46) -/

/-- The thread of launch `lk` benched from slot `slot` whose kernel the etlet in focus holds (R43, R47). -/
def State.benchedAt (s : State) (lk slot : Nat) : Option Thread :=
  (s.kernelOf lk).bind (fun k => s.allBenched.find? (fun t => decide (t.lastSlot = slot ∧ t.lk = lk ∧ t.teamix.toNat / 64 = k.2.vix)))

/-- Whether slot `slot` of the etlet in focus holds a thread of launch `lk`. -/
def State.holdsAt (s : State) (lk slot : Nat) : Bool :=
  match s.threadAt slot with
  | some t => decide ((kgetD s.etl.kernels t.kid {}).launch = lk ∧ slot < 62)
  | none => false

/-- A word reaches its slot on the etlet in focus: the queue, the dugout for a benched thread, or a discard with a DABORT
record, which still returns the credit (R43, R46). -/
def lpArrive (w : LpWord) (s : State) : State :=
  if s.holdsAt w.lk w.slot then
    within s.eid w.slot (fun s => s.modT (fun t => { t with
      inq := kput t.inq w.port (kgetD t.inq w.port [] ++ [w]),
      st := if t.st = .waiting .lport then .ready else t.st
      wokenAt := if t.st = .waiting .lport then some s.now else t.wokenAt })) s
  else match s.benchedAt w.lk w.slot with
  | some t => s.modE (fun x => { x with heldLp := x.heldLp ++ [(t.tid, w)], absent := x.absent ++ [⟨w.lk, w.slot⟩] })
  | none => record w.lk { eval := wd w.slot, rank := BitVec.allOnes 64, code := cDabort, level := 0, only := true } (dropWords { inq := [(0, [w])] } s)

/-- Whether a word that arrives has a place: in the thread's queue of 16 words, or in the dugout for a benched thread. -/
def State.wordRoom (s : State) (w : LpWord) : Bool :=
  if s.holdsAt w.lk w.slot then decide ((kgetD ((s.threadAt w.slot).getD {}).inq w.port []).length < 16)
  else (s.benchedAt w.lk w.slot).isNone || s.dugoutRoom

/-- LOOP_PORT_WORD_ARRIVAL (R46): the oldest word on its way, from another package through the port of its flow (R195). A full queue holds it
back, and what is behind it. (DESIGN CHOICE, log 142) -/
def execLoopPortWordArrival (e : Nat) (s : State) : Res :=
  atE e s (fun s =>
    match s.etl.lpIn with
    | [] => s
    | w :: rest =>
      if s.wordRoom w = false ∨ s.heldBack e w.lk then s
      else ((usePort 0 w.srcE (pkgOf e) s).map (fun s => lpArrive w (s.modE (fun x => { x with lpIn := rest })))).getD s)

/-- LOOP_PORT_CREDIT_RETURN (R46): a credit returns to the binding of port `k` of slot `slot`; the wake of a benched thread is
held (R43). -/
def execLoopPortCreditReturn (e slot k : Nat) (s : State) : Res :=
  at_ e slot s (fun s =>
    match s.etl.crIn.findIdx? (fun c => decide (c.1 = slot ∧ c.2.1 = k)) with
    | none => s
    | some i =>
      let tid := (s.etl.crIn.getD i (0, 0, 0)).2.2
      let waits := fun (t : Thread) => decide (t.st = .waiting .lport ∨ t.st = .waiting (.credit k))
      let s := modTid tid (fun t => { t with credits := kmod t.credits k 16 (fun n => min 16 (n + 1)) })
        (s.modE (fun x => { x with crIn := x.crIn.eraseIdx i }))
      if (s.whereTid tid).isSome then modTid tid (fun t => if waits t then { t with st := .ready, wokenAt := some s.now } else t) s
      else if s.allBenched.any (fun t => decide (t.tid = tid) && waits t) && !s.heldWake tid then wake tid none s
      else s)

/-! ### GO (R44, R105, R316) -/

/-- The state a thread moves with from etlet `e` (R44): g0 to g15, loop and trap state; bindings, queues and vectors are cleared. -/
def Thread.travel (t : Thread) (lk e : Nat) : Thread :=
  { t with
    g := t.g.filter (fun p => decide (p.1 < 16)), v := [], chan := [], credits := [], inq := [], dpart := 0, dsel := 0,
    st := .ready, yieldAt := none, deferred := none, kill := none, votes := [], pops := [], after := none, vfl := none,
    from_ := e, lk := lk }

/-- The stores of thread `tid` that are still under way go on from etlet `e`, with numbers of its own: they stay its earlier
stores there (R99, R105, R194). -/
def moveStores (tid e : Nat) (s : State) : State :=
  let own := fun (x : SEntry) => decide (x.tid = tid ∧ x.done = 0)
  let s := (s.etl.posted.filter own).foldl (fun s x => s.modEt e (fun y => { y with
    posted := y.posted ++ [{ x with seq := y.reqSeq }], reqSeq := (y.reqSeq + 1) % 2 ^ 24 })) s
  let s := s.modEt e (fun y => { y with benchW := y.benchW ++ s.etl.benchW.filter (fun b => decide (b.tid = tid)) })
  s.modE (fun y => { y with posted := y.posted.filter (fun x => !own x), benchW := y.benchW.filter (fun b => decide (b.tid ≠ tid)) })

/-- The thread in focus leaves for etlet `e`: its queues' words are discarded, its slot and windows free (R44). A capture of it is discarded,
and the repetition buffer is free. (DESIGN CHOICE, log 157) -/
def goLeave (e : Nat) (s : State) : State :=
  let s := dropCapture s
  let t := s.th.travel s.lkey s.eid
  let s := breakGangs s.slot (fun _ => true) { moveStores t.tid e (dropWords s.th s) with thr := none }
  readyWhere (fun w => decide (w = .bench)) (s.modEt e (fun x => { x with goIn := x.goIn ++ [t] }))

/-- Lets the held stores of the thread in focus go (R109). -/
def drainMine (s : State) : State := let t := s.th.tid; drainHeld s.th.kid 0 (fun h => decide (h.tid = t)) s

/-- Whether a vector instruction of the thread in focus is in flight. -/
def State.vectorOut (s : State) : Bool := s.sequence || s.etl.vq.any (fun v => decide (v.tid = s.th.tid))

/-- GO (R44, R105, R316): a full fence at die scope, after which no store of the thread stands in the etlet's buffer; a gang is disbanded
first, wherever its members go; it waits for the thread's vector instructions. (DEDUCED, log 86) (DEDUCED, log 133) -/
def execGo (a : Nat) (s : State) : Res :=
  issue (.go a) s (fun s => noHandler s (fun s =>
    let va := s.rd a
    if canonical va = false then takeTrap { code := cXlate, eval := va } s
    else if inWindow va = false ∨ 0x30000 ≤ bits va 17 0 ∨ s.kern.battery then takeTrap { code := cProt, eval := va } s
    else match s.windowEtlet va with
    | none => takeTrap { code := cProt, eval := va } s
    | some e => afterVerdicts s (fun s =>
      if s.vectorOut then waitFor .bench 112 s
      else
        let s := drainMine s
        afterThose (fun x => s.etl.buf.contains x) s (fun s => fullFence 3 s (fun s =>
          let s := disbandAll s
          if e = s.eid then advance s
          else
            if s.ph = 0 then goLeave e (popPorts [.src a] (advance s)) else { s with adv := true, lateGo := some e })))))

/-- A travelling thread takes a slot and windows of the etlet in focus; TEAMIX changes to its indices, THR stays (R44). Its first access there
sees its own earlier stores: no line that was filled before is used (R105). (DEDUCED, log 158) -/
def goSeat (t : Thread) (s : State) : Option State :=
  match s.kernelOf t.lk with
  | none => none
  | some (kid, k) => (seat { t with kid := kid, teamix := wd (k.vix * 64 + bits t.teamix 5 0) } s).map (fun r => r.2.acquire (dieOf s.eid))

/-- A migrating thread arrives, or is parked in the dugout (R44). -/
def goArrive (t : Thread) (s : State) : State :=
  match (if s.etl.parked ≠ [] then none else goSeat t s) with
  | some s => s
  | none => s.modE (fun x => { x with parked := x.parked ++ [t] })

/-- Whether a migrating thread that arrives has a place: a slot, or the dugout. -/
def State.goRoom (s : State) (t : Thread) : Bool := (decide (s.etl.parked = []) && (goSeat t s).isSome) || s.dugoutRoom

/-- GO_ARRIVAL (R44): from another package through the port of the flow (R195). -/
def execGoArrival (e : Nat) (s : State) : Res :=
  atE e s (fun s =>
    match s.etl.goIn with
    | [] => s
    | t :: rest =>
      if s.heldBack e t.lk ∨ s.goRoom t = false then s
      else ((usePort 0 t.from_ (pkgOf e) s).map (fun s => goArrive t (s.modE (fun x => { x with goIn := rest })))).getD s)

/-- PARKED_THREAD_PLACE (R44): the oldest parked thread that fits. -/
def execParkedThreadPlace (e : Nat) (s : State) : Res :=
  atE e s (fun s =>
    match s.etl.parked with
    | [] => s
    | t :: rest => ((goSeat t (s.modE (fun x => { x with parked := rest }))).map reachWakes).getD s)

end Sys2Proof.Machine
end

