-- ==== Sys2Proof/Machine/Net.lean ====
section
/-! DEFINITION. Midfield memory and the network engine (R210 to R216, R330, R331, R368, R369). -/

namespace Sys2Proof.Machine

/-! ### Midfield instructions (R211, R330, R331) -/

/-- The domain of the etlet in focus. -/
def State.myDom (s : State) : Nat := pkgOf s.eid / 1024

/-- Changes domain `d`. -/
def State.modDom (s : State) (d : Nat) (f : Domain → Domain) : State := { s with domains := kmod s.domains d {} f }

/-- Where a request to the switches of the domain goes (R211). -/
def State.mfHome (s : State) : Nat := s.myDom * 1024 * 2 ^ 47 + 3 * 2 ^ 44

/-- MFALLOC (R330): the switches answer with MEMORY_REPLY; a bad operand asks for 0 granules. -/
def execMfalloc (d a b : Nat) (s : State) : Res :=
  issue (.mfalloc d a b) s (fun s => noHandler s (fun s =>
    let v := s.rd a
    let n := bits v 31 0
    sendReq (.mfalloc (if n = 0 ∨ 65536 < n ∨ bits v 63 33 ≠ 0 then 0 else n) (v.getLsbD 32) b) s.mfHome v 5 false d s))

/-- MFFREE (R331): the region is unmapped for the whole launch when it issues. -/
def execMffree (d a : Nat) (s : State) : Res :=
  issue (.mffree d a) s (fun s => noHandler s (fun s =>
    let v := s.rd a
    match s.midRegion s.lkey v.toNat with
    | some (dom, r) =>
      if r.va = v.toNat then
        sendReq (.mffree v) s.mfHome v 5 false d (s.modDom dom (fun x => { x with regions := x.regions.map (fun y => if y = r then { y with unmapped := true } else y) }))
      else sendReq (.mffree 0) s.mfHome v 5 false d s
    | none => sendReq (.mffree 0) s.mfHome v 5 false d s))

/-- MFQUOTA (R211, R330). -/
def execMfquota (d : Nat) (s : State) : Res :=
  issue (.mfquota d) s (fun s => noHandler s (fun s => sendReq .mfquota s.mfHome 0 5 false d s))

/-- MFSTAT (R211, R330). -/
def execMfstat (d a : Nat) (s : State) : Res :=
  issue (.mfstat d a) s (fun s => noHandler s (fun s => sendReq (.mfstat (s.rd a)) s.mfHome (s.rd a) 5 false d s))

/-! ### What the switches do (R212) -/

/-- The granule ranges taken on switch `w`. -/
def Domain.taken (d : Domain) (w : Nat) : List (Nat × Nat) :=
  d.regions.flatMap (fun r => (r.copies.filter (fun c => decide (c.1 = w))).map (fun c => (c.2, r.granules)))

/-- Free granules of switch `w`, which holds 524,288. -/
def Domain.freeOn (d : Domain) (w : Nat) : Nat := 524288 - (d.taken w).foldl (fun n r => n + r.2) 0

/-- The copy placed on a plane: the live switch with the most free granules that holds the contiguous granules, the lowest
number on a tie (R212). -/
def Domain.placeOn (d : Domain) (plane n : Nat) : Option (Nat × Nat) :=
  let ws := d.switches.filter (fun w => decide (w / 64 = plane) && (firstFit 524288 n (d.taken w)).isSome)
  let best := ws.foldl (fun (m : Option Nat) w => match m with
    | none => some w
    | some x => if d.freeOn x < d.freeOn w ∨ (d.freeOn x = d.freeOn w ∧ w < x) then some w else some x) none
  best.bind (fun w => (firstFit 524288 n (d.taken w)).map (fun g => (w, g)))

/-- The VA of a new region: in the launch's window, aligned, clear of its regions in every domain. -/
def State.pickVa (s : State) (lk n k : Nat) : Nat :=
  let base := 0xFFE0000000000000
  let mine := (s.domains.flatMap (fun d => d.2.regions.filter (fun r => decide (r.launch = lk)))).map (fun r => ((r.va - base) / 65536, r.granules))
  let v := Config.midfieldVa k
  let g := if v + n ≤ 2 ^ 28 ∧ mine.all (fun w => !overlap v n w.1 w.2) then v else (firstFit (2 ^ 28) n mine).getD 0
  base + g * 65536

/-- Whether an address lies in a region's copies, `n` granules each, in domain `dom` (Table 10.8). -/
def inCopies (dom : Nat) (copies : List (Nat × Nat)) (n a : Nat) : Bool :=
  copies.any (fun c =>
    let b := dom * 1024 * 2 ^ 47 + 3 * 2 ^ 44 + c.1 * 2 ^ 37 + c.2 * 65536
    decide (b ≤ a ∧ a < b + n * 65536))

/-- MFALLOC at the switches: the region's VA and the status (R211, R212). (DEDUCED, log 75) -/
def mfAlloc (dom lk key plane n : Nat) (mirrored : Bool) (s : State) : State × Word × Nat :=
  let d := kgetD s.domains dom {}
  let q := kgetD d.quota key (0, 0)
  let live := fun p => d.switches.any (fun w => decide (w / 64 = p))
  let charge := if mirrored then 2 * n else n
  if n = 0 then (s, 0, 3)
  else if mirrored ∧ (live 0 && live 1) = false then (s, 0, 4)
  else if q.1 < q.2 + charge then (s, 0, 1)
  else
    let copies := if mirrored then
        match d.placeOn 0 n, d.placeOn 1 n with
        | some x, some y => [x, y]
        | _, _ => []
      else match d.placeOn plane n, d.placeOn (1 - plane) n with
        | some x, _ => [x]
        | none, some y => [y]
        | none, none => []
    if copies = [] then (s, 0, 2)
    else
      let (k, s) := s.fresh
      let va := s.pickVa lk n k
      let s := { s with fe := s.fe.filter (fun w => !inCopies dom copies n (w * 8)) }
      (s.modDom dom (fun d => { d with
        quota := kput d.quota key (q.1, q.2 + charge),
        regions := d.regions ++ [{ launch := lk, va := va, granules := n, copies := copies, key := key, charged := charge }] }), wd va, 0)

/-- A precise trap of thread `tid`, which waits: at its bundle, whose other effects are discarded; of a benched one it is
held among its events, a wake for it. -/
def trapTid (tid : Nat) (c : Cause) (s : State) : State :=
  match s.whereTid tid with
  | some (e, l) => aside (within e l (replyTrap c)) s
  | none => holdWake tid none (modTid tid (fun t => { t with st := .ready, pops := [], events := t.events ++ [c] }) s)

/-- Every waiter on a word of a region's copies takes LOST (R214, R331). -/
def lostWaiters (dom : Nat) (copies : List (Nat × Nat)) (n : Nat) (s : State) : State :=
  let out := (s.feq.filter (fun q => inCopies dom copies n (q.1 * 8))).flatMap (·.2)
  let s := { s with feq := s.feq.filter (fun q => !inCopies dom copies n (q.1 * 8)) }
  out.foldl (fun s r => trapTid r.tid { code := cLost, eval := r.va } s) s

/-- The waiters on words of a lost copy wait on at the survivor, which is the primary from here on (R213, R214). -/
def moveWaiters (dom : Nat) (copies : List (Nat × Nat)) (n : Nat) (s : State) : State :=
  let out := s.feq.filter (fun q => inCopies dom copies n (q.1 * 8))
  let s := { s with feq := s.feq.filter (fun q => !inCopies dom copies n (q.1 * 8)) }
  out.foldl (fun s q =>
    let w := s.survivor (q.1 * 8) / 8
    let s := { s with feq := kput s.feq w (kgetD s.feq w [] ++ q.2) }
    q.2.foldl (fun s r => modTid r.tid (fun t => match t.st with | .waiting (.fe _) => { t with st := .waiting (.fe w) } | _ => t) s) s) s

/-- Whether a dispatched VLD or VST that is still to be performed names an address of a region. -/
def VOp.touches (o : VOp) (r : Region) : Bool :=
  o.instr.vmem && o.out.isNone &&
  (laneAddrs (o.scal.getD 0 0) (match o.instr with | .vldBc _ _ _ => 0 | _ => o.scal.getD 1 0)).any (fun v => overlap v.toNat 4 r.va (r.granules * 65536))

/-- Whether an access of launch `lk` to a region is still in flight (R331): buffered, held, posted, requested, of an open FAGG group, of an
image, of a dispatched VLD or VST, or of a running engine command on midfield memory. -/
def State.regionBusy (s : State) (dom : Nat) (r : Region) : Bool :=
  let inside := fun (a : Nat) => decide (regionOf a = 3) && inCopies dom (r.copies ++ r.gone) r.granules a
  s.save.etlets.any (fun p => p.2.reqs.any (fun q => !q.2.op.mf && inside q.2.gpa) || p.2.buf.any (fun q => inside q.gpa) ||
    p.2.posted.any (fun q => inside q.gpa && decide (q.done = 0)) || p.2.fagg.any (fun q => inside q.gpa) || p.2.benchW.any (fun b => b.parts.any (fun q => inside q.1)) ||
    p.2.kernels.any (fun k => k.2.ckpt.held.any (fun h => inside h.gpa)) || p.2.vq.any (fun o => o.touches r) ||
    p.2.copyq.any (fun c => decide (c.lk = r.launch) && c.running && [c.dst, c.src, c.idx].any inMidWindow))

/-- A switch request at its reply: the result, once it may be given (R330, R331); the second value is MFALLOC's status.
(DEDUCED, log 73) -/
def mfPerform (q : Req) (lk : Nat) (s : State) : Option (State × Word × Option (Nat × Nat)) :=
  let dom := s.myDom
  let d := kgetD s.domains dom {}
  match q.op with
  | .mfalloc n m b =>
    let (s, va, st) := mfAlloc dom lk q.key (if dieOf s.eid % 4 < 2 then 0 else 1) n m s
    some (s, va, some (b, st))
  | .mffree v =>
    match s.domains.findSome? (fun d => (d.2.regions.find? (fun r => decide (r.launch = lk ∧ r.unmapped ∧ r.va = v.toNat))).map (fun r => (d.1, r))) with
    | none => some (s, 1, none)
    | some (dom, r) =>
      let s := lostWaiters dom (r.copies ++ r.gone) r.granules s
      if s.regionBusy dom r then none
      else some (s.modDom dom (fun d => { d with
        regions := d.regions.filter (fun x => !(decide (x.launch = lk ∧ x.va = r.va) && x.unmapped)),
        quota := kmod d.quota r.key (0, 0) (fun p => (p.1, p.2 - r.charged)) }), 0, none)
  | .mfquota => let p := kgetD d.quota q.key (0, 0); some (s, wd (p.1 * 2 ^ 32 + p.2), none)
  | .mfstat v => some (s, wd (match s.midRegion lk v.toNat with | some r => r.2.state | none => 3), none)
  | _ => some (s, 0, none)

/-- SWITCH_LOSS_NOTICE (R214): each region with a copy on the switch becomes DEGRADED or LOST; its waiters take LOST where no
copy survives. The notice is a critical packet of the switch, source 128 * domain + switch, which every package of the domain
has then heard (R202). (DEDUCED, log 146) -/
def execSwitchLossNotice (dom sw : Nat) (s : State) : Res :=
  .next (
    let d := kgetD s.domains dom {}
    let hit := fun (r : Region) => r.copies.any (fun c => decide (c.1 = sw)) && decide (r.state ≠ 2)
    let on := fun (r : Region) => r.copies.filter (fun c => decide (c.1 = sw))
    let s := s.modDom dom (fun d => { d with
      switches := d.switches.filter (fun w => decide (w ≠ sw)),
      regions := d.regions.map (fun r => if hit r then
          (if r.copies.length = 1 then { r with state := 2 }
           else { r with state := 1, copies := r.copies.filter (fun c => decide (c.1 ≠ sw)), gone := r.gone ++ on r })
        else r) })
    let n := kgetD d.crit sw 0
    let s := s.modDom dom (fun d => { d with crit := kput d.crit sw ((n + 1) % 2 ^ 32) })
    let s := { s with pkgs := s.pkgs.map (fun p => if p.1 / 1024 = dom then (p.1, p.2.hear (dom * 128 + sw) n (some (.switch sw))) else p) }
    (d.regions.filter hit).foldl (fun s r =>
      if r.copies.length = 1 then lostWaiters dom (r.copies ++ r.gone) r.granules s else moveWaiters dom (on r) r.granules s) s)

/-! ### The network engine (R215, R216, R368, R369) -/

/-- The causes of WRQ in their order (R369). -/
def wrqCause (a : Nat) (s : State) : List (Option Cause) :=
  let r := fun i => s.rd (a + i)
  let op := bits (r 0) 3 0
  [handoffCause s,
   (if canonical (r 1) = false then some { code := cXlate, eval := r 1 } else none),
   (if 3 ≤ op ∨ bits (r 0) 63 5 ≠ 0 then some (illegalReg a) else none),
   (if (r 2).toNat = 0 ∨ 2 ^ 30 < (r 2).toNat then some (illegalReg (a + 2)) else none),
   (if op ≠ 2 ∧ 4095 < (r 3).toNat then some (illegalReg (a + 3)) else none),
   (if bits (r 5) 63 5 ≠ 0 then some (illegalReg (a + 5)) else none)]

/-- WRQ (R216, R368, R369). (DEDUCED, log 69) -/
def execWrq (d a : Nat) (s : State) : Res :=
  if s.dlogFull then .next { s with trap := none }
  else issue (.wrq d a) s (fun s => checked (wrqCause a s) s (fun s => afterVerdicts s (fun s =>
    let die := dieOf s.eid
    let x := s.myDie
    if 1024 ≤ x.ueSend.length then result d 0 s
    else release s (fun s =>
      let op := bits (s.rd a) 3 0
      let c := s.cmd (if op = 2 then .put else .get) (s.rd (a + 1)) (s.rd (a + 1)) (s.rd (a + 2)).toNat
      let (q, s) := logDispatch c.slot c.tid c.pc c.body s
      let w : Wrq := {
        id := x.ueNext, op := op, record := (s.rd a).getLsbD 4, cmd := { c with seq := q }, peer := (s.rd (a + 3)).toNat,
        rkey := bits (s.rd (a + 4)) 63 48, off := bits (s.rd (a + 4)) 47 0,
        sc := if (s.rd (a + 5)).getLsbD 4 then some (bits (s.rd (a + 5)) 3 0) else none, eid := s.eid,
        down := !s.readyBit (pkgOf s.eid) (56 + die % 4) }
      result d (wd x.ueNext) (s.modDie die (fun y => { y with
        ueNext := if 65535 ≤ y.ueNext then 1 else y.ueNext + 1,
        ueSend := if op = 2 then y.ueSend else y.ueSend ++ [w], ueRecv := if op = 2 then y.ueRecv ++ [w] else y.ueRecv }))))))

/-- WRCQ (R216, R368). -/
def execWrcq (d : Nat) (s : State) : Res :=
  issue (.wrcq d) s (fun s => noHandler s (fun s =>
    match kgetD s.myDie.ueRecs s.lkey [] with
    | [] => result d 0 s
    | r :: rest => result d r (s.modDie (dieOf s.eid) (fun x => { x with ueRecs := kput x.ueRecs s.lkey rest }))))

/-- What UESTAT reads (R216, R368): the port is UP only while its engine is ready and not under test. (DESIGN CHOICE, log 159) -/
def State.uestatVal (s : State) (b : Nat) : Word :=
  let x := s.myDie
  match b with
  | 0 => wd (x.ueSend.length + x.ueRecv.length)
  | 1 => wd (1024 - x.ueSend.length)
  | 2 => wd (min (2 ^ 64 - 1) x.ueResent)
  | _ =>
    let d := dieOf s.eid
    if s.readyBit (pkgOf s.eid) (56 + d % 4) && !s.tested (d / 4) (0x3C + d % 4) && Config.uePortUp d s.now then 1 else 0

/-- UESTAT (R216, R368). -/
def execUestat (d b : Nat) (s : State) : Res :=
  issue (.uestat d b) s (fun s => noHandler s (fun s => result d (s.seen (s.uestatVal b)) s))

/-- Ends a request: its counter advances and its record is queued; none ends while the kernel's record queue is full (R216). -/
def ueFinish (die : Nat) (w : Wrq) (status n : Nat) (s : State) : Option State :=
  if 4096 ≤ (kgetD (kgetD s.dies die {}).ueRecs w.cmd.lk []).length then none
  else
    let rec_ := wd (w.id * 2 ^ 48 + status * 2 ^ 40 + w.op * 2 ^ 36 + n % 2 ^ 31)
    let s := s.modDie die (fun x => { x with
      ueSend := x.ueSend.filter (fun y => decide (y.id ≠ w.id)), ueRecv := x.ueRecv.filter (fun y => decide (y.id ≠ w.id)),
      ueRecs := if w.record then kmod x.ueRecs w.cmd.lk [] (· ++ [rec_]) else x.ueRecs })
    some (reachWakes (match w.sc with
      | some k => scAdvance w.eid k 6 s
      | none => s))

/-- Runs `f` as the request's command on its etlet. -/
def Wrq.runAs (w : Wrq) {α : Type} (f : State → α × State) (s : State) : α × State :=
  let s0 := (s.focus w.eid 64)
  let (r, t) := f (w.cmd.view s0)
  (r, ({ t with thr := none, etl := { t.etl with kernels := kdel t.etl.kernels 8 } }).focus s.eid s.slot)

/-- Places bytes at a VA of the command in focus, up to the first fault (R176). -/
def placeBytes (c : CopyCmd) : Word → List Nat → State → Option (Nat × Word) × State
  | _, [], s => (none, s)
  | va, b :: bs, s =>
    match engineXlate s .wr va with
    | .inl x => (some (x, va), s)
    | .inr g => placeBytes c (va + 1) bs (s.homeWrite (if regionOf g = 2 then 0 else c.key) g 1 (b % 256))

/-- Whether the home of one of those bytes does not take a write now (R82, R349). -/
def placeBusy (c : CopyCmd) (va : Word) (n : Nat) (s : State) : Bool :=
  (List.range n).any (fun i => match engineXlate s .wr (va + wd i) with
    | .inr g => s.writeBusy c.key g
    | .inl _ => s.walkBusy s.kern s.user .wr (va + wd i))

/-- A request whose local buffer fails ends with LOCALFAULT and an ENGINE event (R369). -/
def ueLocalFault (die : Nat) (w : Wrq) (x : Nat × Word) (s : State) : State :=
  match ueFinish die w 5 0 s with
  | none => s
  | some s => within w.eid (if w.eid = s.eid then s.slot else 64) (engineFault w.cmd.lk w.cmd.seq w.cmd.tid x.1 w.cmd.rank x.2) s

/-- UE_PACKET_ARRIVAL (R215, R216): a packet's bytes, up to 4 KiB, are placed in the region of a WRITE, or in the RECV that a SEND fills.
(DESIGN CHOICE, log 71) -/
def execUePacketArrival (die kind key off : Nat) (bytes : List Nat) (s : State) : Res :=
  .next (
    let x := kgetD s.dies die {}
    if 4096 < bytes.length ∨ s.tested (die / 4) (0x3C + die % 4) then s
    else if kind < 2 then
      match kget x.ueRegions key with
      | none => s
      | some r =>
        if r.len < off + bytes.length ∨ (List.range bytes.length).any (fun i => s.writeBusy r.key (r.base + off + i)) = true then s
        else
          let s := (bytes.foldl (fun (p : State × Nat) b => (p.1.homeWrite r.key p.2 1 (b % 256), p.2 + 1)) (s, r.base + off)).1
          match r.sc with
          | some (e, k) => if kind = 1 then scAdvance e k 6 s else s
          | none => s
    else
      match (x.ueRecv.find? (fun w => decide (w.bound = some key))).orElse (fun _ => x.ueRecv.find? (fun w => decide (w.bound = none) && !w.down)) with
      | none => s
      | some w =>
        let fit := bytes.take (w.cmd.len - off)
        if (w.runAs (fun t => (placeBusy w.cmd (w.cmd.dst + wd off) fit.length t, t)) s).1 then s
        else
        let (fl, s) := w.runAs (placeBytes w.cmd (w.cmd.dst + wd off) fit) s
        match fl with
        | some f => ueLocalFault die w f s
        | none =>
          let w := { w with bound := some key, placed := max w.placed (off + bytes.length) }
          let s := s.modDie die (fun x => { x with ueRecv := x.ueRecv.map (fun y => if y.id = w.id then w else y) })
          if kind = 3 then (ueFinish die w (if w.cmd.len < w.placed then 3 else 0) (min w.cmd.len w.placed) s).getD s else s)

/-- The first page of a request's local buffer that cannot be read. -/
def Wrq.localFault (w : Wrq) (s : State) : Option (Nat × Word) :=
  ((w.runAs (fun t => (rangeFault .rd w.cmd.src w.cmd.len t, t)) s).1).map (fun c => (c.code, c.eval))

/-- WRQ_COMPLETE (R216, R368): a WRITE or SEND ends with a status; UNREACHABLE where the engine is not ready, and any request issued
while it was not: for such a one no packet is sent, nor resent. -/
def execWrqComplete (die id status : Nat) (s : State) : Res :=
  .next (
    let x := kgetD s.dies die {}
    match (x.ueSend ++ x.ueRecv.filter (·.down)).find? (fun w => decide (w.id = id)) with
    | none => s
    | some w =>
      let (k, s) := s.fresh
      let ready := s.readyBit (die / 4) (56 + die % 4)
      if w.down ∨ ready = false then (ueFinish die w 4 0 s).getD s
      else
      let s := s.modDie die (fun x => { x with ueResent := min (2 ^ 64 - 1) (x.ueResent + Config.uePackets k) })
      match w.localFault s with
        | some f => ueLocalFault die w f s
        | none => (ueFinish die w (status % 5) (if status % 5 = 0 then w.cmd.len else Config.uePlaced k) s).getD s)

/-- NORECV_TIMEOUT (R216): a SEND that found no RECV within 1 ms. -/
def execNorecvTimeout (die id : Nat) (s : State) : Res :=
  .next (
    match (kgetD s.dies die {}).ueSend.find? (fun w => decide (w.id = id ∧ w.op = 1) && !w.down) with
    | none => s
    | some w => (ueFinish die w 2 0 s).getD s)

end Sys2Proof.Machine
end

