-- ==== Sys2Proof/Machine/Sweeper.lean ====
section
/-! DEFINITION. The sweepers of a cluster and RESQ (R179 to R184, R345, R360). -/

namespace Sys2Proof.Machine

/-! ### Residency (R182) -/

/-- The line and the CACHED bit of a virtual address, walked under a key and a table root. -/
def State.lineOf (s : State) (key : Nat) (root : Word) (user : Bool) (va : Word) : Option (Nat × Bool) :=
  if canonical va = false ∨ inWindow va ∨ inMidWindow va then none
  else match s.walk key va root.toNat walkLevels with
    | none => none
    | some (l, leaf) =>
      let g := leafAddr leaf l va
      if leafAllows leaf user .rd g then some (g / 64, leaf.getLsbD 6) else none

/-- A page that a sweeper translates is walked once: each entry is read at its home L2 (R73, R90). -/
def State.lineTouch (s : State) (key : Nat) (root : Word) (vs : List Word) : State :=
  ((vs.map (fun v => v.toNat / 65536)).eraseDups).foldl (fun s p =>
    let va := wd (p * 65536)
    if canonical va = false ∨ inWindow va ∨ inMidWindow va then s else s.walkTouch key root.toNat va) s

/-- Whether a physical line is present in its home L2 or in die `die`'s RDC under the current stamp (R81, R182). -/
def State.present (s : State) (die key line : Nat) : Bool :=
  let d := kgetD s.dies die {}
  decide (regionOf (line * 64) ≤ 1) &&
  ((kgetD s.clusters (homeCluster (line * 64)) {}).l2.contains (line, key) || d.rdc.any (fun c => c.present key d.stamp line))

/-- The virtual lines that meet `n` bytes from `va`. -/
def vlines (va : Word) (n : Nat) : List Word :=
  if n = 0 then []
  else (List.range ((va.toNat % 64 + n - 1) / 64 + 1)).map (fun i => wd ((va.toNat / 64 + i) * 64))

/-- Whether a virtual line is resident. -/
def State.resident (s : State) (die key : Nat) (root : Word) (user : Bool) (va : Word) : Bool :=
  match s.lineOf key root user va with
  | some l => s.present die key l.1
  | none => false

/-- The number of RESQ's lines that are resident: `n` lines from `va` (R184). -/
def State.resqVal (s : State) (va : Word) (n : Nat) : Word :=
  wd ((vlines va n).filter (fun v => s.resident (dieOf s.eid) s.kern.key s.kern.root s.user v)).length

/-- RESQ (R184, R345). -/
def execResq (d a : Nat) (s : State) : Res :=
  issue (.resq d a) s (fun s => noHandler s (fun s =>
    let n := (s.rd (a + 1)).toNat
    if 65536 < n then takeTrap (illegalReg (a + 1)) s
    else
      result d (s.seen (s.resqVal (s.rd a) n)) s))

/-! ### SWB (R180, R181, R360) -/

/-- Whether bytes [o, o + n) of the own scratchpad meet a defined ring. -/
def State.meetsRing (s : State) (o n : Nat) : Bool :=
  decide (n ≠ 0) && s.etl.rings.any (fun p => overlap o n p.2.base (p.2.tiles * p.2.slotBytes))

/-- The causes of SWB in their order (R360). A count beyond its limit enters the sum of the first limit as it stands, unsigned. (DESIGN CHOICE,
log 161) -/
def swbCause (a : Nat) (s : State) : List (Option Cause) :=
  let first := s.rd a
  let count := s.rd (a + 1)
  let stride := s.rd (a + 3)
  let map := s.rd (a + 4)
  let n := (count.toNat + 63) / 64 * 8
  [handoffCause s, canonFault [s.rd (a + 2)], alignFault 8 [map],
   (if 2 ^ 63 ≤ first.toNat ∨ 2 ^ 63 < first.toNat + count.toNat then some (illegalReg a) else none),
   (if 65536 < count.toNat then some (illegalReg (a + 1)) else none),
   (if stride.toNat = 0 ∨ 65536 < stride.toNat then some (illegalReg (a + 3)) else none),
   (if (s.ownAddr map n).isNone ∨ s.meetsRing (bits map 17 0) n then some (illegalReg (a + 4)) else none)]

/-- The cluster's sweeper `i`. -/
def State.sweeper (s : State) (cl i : Nat) : Sweeper := kgetD (kgetD s.clusters cl {}).sweepers i {}

/-- Changes it. -/
def State.modSw (s : State) (cl i : Nat) (f : Sweeper → Sweeper) : State :=
  s.modCl cl (fun c => { c with sweepers := kmod c.sweepers i {} f })

/-- A generation after its next allocation: 255 wraps to 1 (Tables 9.2 and 9.8). -/
def nextGen (g : Nat) : Nat := if 255 ≤ g then 1 else g + 1

/-- SWB (R179 to R182, R360). -/
def execSwb (d a : Nat) (s : State) : Res :=
  issue (.swb d a) s (fun s => checked (swbCause a s) s (fun s =>
    let cl := clusterOf s.eid
    match lowest (fun i => (s.sweeper cl i).launch.isNone) 0 4 with
    | none => result d 0 s
    | some i =>
      let count := (s.rd (a + 1)).toNat
      let map := scratch s.eid + bits (s.rd (a + 4)) 17 0
      let g := nextGen (s.sweeper cl i).gen
      let w : Sweeper := {
        launch := some s.lkey, gen := g, first := (s.rd a).toNat, count := count, base := (s.rd (a + 2)).toNat,
        stride := (s.rd (a + 3)).toNat, map := map, eid := s.eid, key := s.kern.key, root := s.kern.root, user := s.user,
        pass := 1, passAt := s.now, todo := List.range count }
      let s := s.modSw cl i (fun _ => w)
      result d (wd (g * 256 + i)) (loop (fun j s => s.wrMem 0 (map + 8 * j) 8 0) 0 ((count + 63) / 64) s)))

/-! ### Handing out (R183) -/

/-- Points handed out or to come. -/
def Sweeper.left (w : Sweeper) : Bool := !(w.todo.isEmpty && w.pending.isEmpty && w.ready.isEmpty)

/-- Point `i` is handed out: its map bit is set, unless the bit's word falls in a ring slot that is now occupied.
(DEDUCED, log 68) -/
def handOut (cl sw i : Nat) (s : State) : State :=
  let w := s.sweeper cl sw
  let a := w.map + i / 64 * 8
  let s := s.modSw cl sw (fun w => { w with out := w.out + 1 })
  if s.hazardAt a 8 then s else s.wrMem 0 a 8 (s.rdMem 0 a 8 ||| 2 ^ (i % 64))

/-- Every waiter receives -1 once nothing is left. -/
def swDone (cl sw : Nat) (s : State) : State :=
  let w := s.sweeper cl sw
  if w.left then s
  else w.waiters.foldl (fun s t => wake t (some (BitVec.allOnes 64)) s) (s.modSw cl sw (fun w => { w with waiters := [] }))

/-- A point is released: to the first waiter, or to the ready list. -/
def releasePoint (cl sw i : Nat) (s : State) : State :=
  let w := s.sweeper cl sw
  match w.waiters with
  | [] => s.modSw cl sw (fun w => { w with ready := w.ready ++ [i] })
  | t :: rest =>
    let s := handOut cl sw i (s.modSw cl sw (fun w => { w with waiters := rest }))
    swDone cl sw (wake t (some (wd (w.first + i))) s)

/-- Runs `body` on the sweeper that a handle names, or raises PROT (R180). (DEDUCED, log 65) -/
def onSweeper (h : Word) (s : State) (body : Nat → Sweeper → State → State) : State :=
  noHandler s (fun s =>
    let i := bits h 1 0
    let w := s.sweeper (clusterOf s.eid) i
    if w.launch = some s.lkey ∧ w.gen = bits h 15 8 then body i w s else takeTrap { code := cProt, eval := h } s)

/-- SWN (R183, R360). -/
def execSwn (d a : Nat) (s : State) : Res :=
  issue (.swn d a) s (fun s => onSweeper (s.rd a) s (fun i w s =>
    let cl := clusterOf s.eid
    match w.ready with
    | p :: rest => result d (wd (w.first + p)) (handOut cl i p (s.modSw cl i (fun w => { w with ready := rest })))
    | [] =>
      if w.left then waitFor .sweep d (s.modSw cl i (fun w => { w with waiters := w.waiters ++ [s.th.tid] }))
      else result d (BitVec.allOnes 64) s))

/-- SWE (R184, R360). -/
def execSwe (d a : Nat) (s : State) : Res :=
  issue (.swe d a) s (fun s => onSweeper (s.rd a) s (fun i w s =>
    let cl := clusterOf s.eid
    let s := result d (wd (w.count - w.out)) s
    swDone cl i (s.modSw cl i (fun w => { w with launch := none, todo := [], pending := [], ready := [] }))))

/-- SWSTAT's result (R184). -/
def Sweeper.stat (w : Sweeper) : Word :=
  wd (min 255 w.pass * 2 ^ 56 + w.deferred % 2 ^ 18 * 2 ^ 38 + w.out % 2 ^ 17 * 2 ^ 21 + w.forced % 2 ^ 17 * 2 ^ 4)

/-- SWSTAT (R184, Table 9.3). -/
def execSwstat (d a : Nat) (s : State) : Res :=
  issue (.swstat d a) s (fun s => onSweeper (s.rd a) s (fun _ w s => result d (s.seen w.stat) s))

/-! ### The sweep (R182) -/

/-- The lines of point `i`. -/
def Sweeper.points (w : Sweeper) (i : Nat) : List Word := vlines (wd (w.base + i * w.stride)) w.stride

/-- Whether point `i` is resident. (DEDUCED, log 66) -/
def Sweeper.residentPt (w : Sweeper) (s : State) (i : Nat) : Bool :=
  (w.points i).all (fun v => s.resident (dieOf w.eid) w.key w.root w.user v)

/-- Prefetches a point's lines, faults discarded. -/
def Sweeper.prefetchPt (w : Sweeper) (i : Nat) (s : State) : State :=
  (w.points i).foldl (fun s v => match s.lineOf w.key w.root w.user v with
    | some l => if regionOf (l.1 * 64) ≤ 1 then prefetch w.eid w.key l s else s
    | none => s) s

/-- SWEEPER_EXAMINE (R182): sweeper `sw` of cluster `cl` examines its next point. One examined in the cycle of its limit counts as forced
(R193). (DEDUCED, log 67) -/
def execSweeperExamine (cl sw : Nat) (s : State) : Res :=
  .next (
    let w := s.sweeper cl sw
    match w.todo with
    | [] => s
    | i :: rest =>
      if w.launch.isNone ∨ 64 ≤ w.ready.length then s
      else
        let s := (s.modSw cl sw (fun w => { w with todo := rest })).lineTouch w.key w.root (w.points i)
        match w.pending.find? (fun p => decide (p.1 = i)) with
        | none =>
          if w.residentPt s i then releasePoint cl sw i s
          else w.prefetchPt i (s.modSw cl sw (fun w => { w with pending := w.pending ++ [(i, 1, s.now)], deferred := w.deferred + 1 }))
        | some (_, k, t0) =>
          let here := decide (s.now < t0 + 16384) && w.residentPt s i
          if here ∨ k = 3 ∨ t0 + 16384 ≤ s.now then
            releasePoint cl sw i (s.modSw cl sw (fun w => { w with
              pending := w.pending.filter (fun p => decide (p.1 ≠ i)), forced := if here then w.forced else w.forced + 1 }))
          else s.modSw cl sw (fun w => { w with
            pending := w.pending.map (fun p => if p.1 = i then (i, k + 1, p.2.2) else p), deferred := w.deferred + 1 }))

/-- SWEEPER_PASS_START (R182). -/
def execSweeperPassStart (cl sw : Nat) (s : State) : Res :=
  .next (
    let w := s.sweeper cl sw
    if w.launch.isSome ∧ w.todo = [] ∧ w.pending ≠ [] ∧ w.passAt + 512 ≤ s.now then
      s.modSw cl sw (fun w => { w with pass := w.pass + 1, passAt := s.now, todo := w.pending.map (·.1) })
    else s)

/-- SWEEPER_FORCE (R182): the points whose first deferral lies 16,384 cycles back are released, forced. -/
def execSweeperForce (cl sw : Nat) (s : State) : Res :=
  .next (
    let w := s.sweeper cl sw
    let due := (w.pending.filter (fun p => decide (p.2.2 + 16384 ≤ s.now))).map (·.1)
    if w.launch.isNone then s
    else due.foldl (fun s i => releasePoint cl sw i (s.modSw cl sw (fun w => { w with
      pending := w.pending.filter (fun p => decide (p.1 ≠ i)), todo := w.todo.filter (fun p => decide (p ≠ i)), forced := w.forced + 1 }))) s)

end Sys2Proof.Machine
end

