-- ==== Sys2Proof/Machine/Queues.lean ====
section
/-! DEFINITION. Slice queues and the task queue (R36, R101, R190 to R192, R340). -/

namespace Sys2Proof.Machine

/-- Queue `q` of cluster `cl`; queue 63 is the task queue, which every launch may use, with generation 1 (R36, R191). -/
def State.queue (s : State) (cl q : Nat) : Queue := kgetD (kgetD s.clusters cl {}).queues q (if q = 63 then { gen := 1 } else {})

/-- Changes it. -/
def State.modQ (s : State) (cl q : Nat) (f : Queue → Queue) : State :=
  s.modCl cl (fun c => { c with queues := kmod c.queues q (if q = 63 then { gen := 1 } else {}) f })

/-- QNEW (R191, R340). -/
def execQnew (d a : Nat) (s : State) : Res :=
  issue (.qnew d a) s (fun s => noHandler s (fun s =>
    let n := (s.rd a).toNat
    let cl := clusterOf s.eid
    if n = 0 ∨ 4096 < n then result d 1 s
    else match lowest (fun q => (s.queue cl q).launch.isNone) 0 63 with
      | none => result d 0 s
      | some q =>
        let g := nextGen (s.queue cl q).gen
        result d (wd (g * 256 + q)) (s.modQ cl q (fun _ => { launch := some s.lkey, gen := g, cap := n }))))

/-- Runs `body` on the queue that a handle names, or raises PROT (R191). -/
def onQueue (h : Word) (s : State) (body : Nat → Queue → State → State) : State :=
  noHandler s (fun s =>
    let q := bits h 5 0
    let x := s.queue (clusterOf s.eid) q
    if (x.launch = some s.lkey ∨ q = 63) ∧ x.gen = bits h 15 8 then body q x s else takeTrap { code := cProt, eval := h } s)

/-- The two pointers of a packet (R36): the format and the scale pointer, or the fault of reading them. -/
def packetPtrs (v : Word) (s : State) : (Nat × Word) ⊕ (Word × Word) :=
  match engineXlate s .rd v, engineXlate s .rd (v + 8) with
  | .inr g, .inr h => .inr (wd (s.rdMem s.kern.key g 8), wd (s.rdMem s.kern.key h 8))
  | .inl c, _ => .inl (c, v)
  | _, .inl c => .inl (c, v)

/-- The reads of a packet's pointers at their homes (R73, R90). -/
def packetTouch (v : Word) (s : State) : State :=
  [v, v + 8].foldl (fun s a =>
    let s := s.xlateTouch s.kern s.user .rd a
    match engineXlate s .rd a with
    | .inr g => s.l2Touch s.kern.key g
    | .inl _ => s) s

/-- Runs `ok` after a thread in focus took entry `v` of queue `q` (R36); a packet's fault traps with EVAL = its address, and
the entry stays dequeued. -/
def takeEntry (q : Nat) (v : Word) (ok : State → State) (s : State) : State :=
  if q = 63 then
    match packetPtrs v s with
    | .inl f => takeTrap { code := f.1, eval := f.2 } (packetTouch v s)
    | .inr p => (ok (packetTouch v s)).modT (fun t => { t with ftab := p.1, stab := p.2 })
  else ok s

/-- An entry handed to thread `t`, which waits in QDEQ (R43, R192, R340). -/
def handEntry (q t : Nat) (v : Word) (s : State) : State :=
  match s.whereTid t with
  | some (e, l) => aside (within e l (takeEntry q v (finish (some v)))) s
  | none => holdWake t (some v) s (decide (q = 63))

/-- QENQ (R192, R340): to the first QDEQ waiter, or appended, or a wait on the list. -/
def execQenq (a b : Nat) (s : State) : Res :=
  issue (.qenq a b) s (fun s => onQueue (s.rd a) s (fun q x s => afterVerdicts s (fun s =>
    let cl := clusterOf s.eid
    let v := s.rd b
    drained s (fun s => match x.deqs with
    | t :: rest => handEntry q t v (advance (s.modQ cl q (fun x => { x with deqs := rest })))
    | [] =>
      if x.items.length < x.cap then advance (s.modQ cl q (fun x => { x with items := x.items ++ [v] }))
      else waitFor .queue 112 (s.modQ cl q (fun x => { x with enqs := x.enqs ++ [(s.th.tid, v)] }))))))

/-- The head entry leaves; the first QENQ waiter's entry takes its place. -/
def popQueue (cl q : Nat) (s : State) : State :=
  let x := s.queue cl q
  match x.enqs with
  | [] => s.modQ cl q (fun x => { x with items := x.items.tail })
  | (t, v) :: rest => wake t none (s.modQ cl q (fun x => { x with items := x.items.tail ++ [v], enqs := rest }))

/-- QDEQ (R36, R192, R340). -/
def execQdeq (d a : Nat) (s : State) : Res :=
  issue (.qdeq d a) s (fun s => onQueue (s.rd a) s (fun q x s => afterVerdicts s (fun s =>
    let cl := clusterOf s.eid
    drained s (fun s => match x.items with
    | v :: _ => takeEntry q v (result d v) (popQueue cl q s)
    | [] => waitFor .queue d (s.modQ cl q (fun x => { x with deqs := x.deqs ++ [s.th.tid] }))))))

/-- QTRY (R36, R192, R340): the status is kept where d and b name one register. -/
def execQtry (d a b : Nat) (s : State) : Res :=
  issue (.qtry d a b) s (fun s => onQueue (s.rd a) s (fun q x s => afterVerdicts s (fun s =>
    let cl := clusterOf s.eid
    drained s (fun s => match x.items with
    | v :: _ =>
      if x.deqs = [] then takeEntry q v (fun s => result b 1 (s.wr d v)) (popQueue cl q s) else result b 0 s
    | [] => result b 0 s))))

/-- QFREE (R191, R340): PROT on queue 63; 1 while a thread waits. -/
def execQfree (d a : Nat) (s : State) : Res :=
  issue (.qfree d a) s (fun s => onQueue (s.rd a) s (fun q x s =>
    let h := s.rd a
    if q = 63 then takeTrap { code := cProt, eval := h } s
    else if x.deqs ≠ [] ∨ x.enqs ≠ [] then result d 1 s
    else result d 0 (s.modQ (clusterOf s.eid) q (fun x => { x with launch := none, items := [] }))))

end Sys2Proof.Machine
end

