-- ==== Sys2Proof/Machine/Launch.lean ====
section
/-! DEFINITION. Launches: the launch block, its checks, placement and LAUNCH (R24, R30 to R35, R89, R177, R205, R217, R240,
R243, R263, R319). -/

namespace Sys2Proof.Machine

/-! ### The block (Table 2.6) -/

/-- Field at offset `o` of `n` bytes of a block held as a number. -/
def blkField (b o n : Nat) : Nat := b / 256 ^ o % 256 ^ n

/-- The launch that a block describes; its lists are read later. -/
def parseBlock (b : Nat) : Launch :=
  { entry := wd (blkField b 0 8), args := wd (blkField b 8 8), doneAddr := blkField b 0x10 8, doneVal := wd (blkField b 0x18 8),
    slotmask := wd (blkField b 0x20 8), threads := blkField b 0x38 1, etlets := blkField b 0x39 1, clusters := blkField b 0x3A 1,
    dies := blkField b 0x3B 1, packages := blkField b 0x3C 2, domains := blkField b 0x3E 2, regs := blkField b 0x40 1,
    vregs := blkField b 0x41 1, pregs := blkField b 0x42 1, policy := blkField b 0x44 2, key := blkField b 0x46 2,
    modes := blkField b 0x48 4, stack := blkField b 0x4C 4 }

/-- MODES bit `i`. -/
def Launch.mode (l : Launch) (i : Nat) : Bool := (BitVec.ofNat 32 l.modes).getLsbD i

/-- Status 1, RESERVED (Table 2.7), of the block alone. -/
def Launch.reserved (l : Launch) (b : Nat) (host : Bool) : Bool :=
  decide (blkField b 0x43 1 ≠ 0 ∨ blkField b 0x50 48 ≠ 0 ∨ 4096 ≤ l.policy ∨ 4096 ≤ l.key ∨ 32 ≤ l.modes ∨
    l.entry.toNat % 8 ≠ 0 ∨ l.doneAddr % 8 ≠ 0) || (host && decide (6 ≤ regionOf l.doneAddr))

/-- Status 2, SHAPE. -/
def Launch.badShape (l : Launch) : Bool :=
  decide (l.threads = 0 ∨ (if l.mode 0 then 31 else 62) < l.threads ∨ l.etlets = 0 ∨ 16 < l.etlets ∨ l.clusters = 0 ∨
    64 < l.clusters ∨ l.dies = 0 ∨ 4 < l.dies ∨ l.packages = 0 ∨ 1024 < l.packages ∨ l.domains = 0 ∨ 128 < l.domains ∨
    l.regs < 8 ∨ 112 < l.regs ∨ l.regs % 8 ≠ 0 ∨ 32 < l.vregs ∨ l.vregs % 4 ≠ 0 ∨ 32 < l.pregs ∨ l.stack % 16 ≠ 0 ∨
    0x30000 < l.stack * l.threads ∨ l.slotmask = 0)

/-- Numbers of `w` bytes from a list of bytes. -/
def unpack (w : Nat) : Nat → Nat → List Nat
  | 0, _ => []
  | n + 1, b => b % 256 ^ w :: unpack w n (b / 256 ^ w)

/-- The entries of PLACE. -/
def Launch.placeLen (l : Launch) : Nat := l.dies * l.clusters * l.etlets

/-- The entries of PKGLIST. -/
def Launch.pkgLen (l : Launch) : Nat := l.domains * l.packages

/-! ### Status 3 to 7 (R32, R240, R243) -/

/-- Whether a launch right covers a launch from etlet `e` (R243); the host's right is full. -/
def Launch.covered (l : Launch) (right : Option Word) (e : Nat) : Bool :=
  match right with
  | none => true
  | some r =>
    let es := l.etletList
    decide (bits r 11 0 = l.key) && (r.getLsbD 63 || !l.mode 4) &&
    (match bits r 49 48 with
     | 0 => es.all (fun x => decide (clusterOf x = clusterOf e))
     | 1 => es.all (fun x => decide (dieOf x = dieOf e))
     | 2 => l.pkgs.all (fun p => decide (p = pkgOf e))
     | _ => l.pkgs.all (fun p => decide (p / 1024 = pkgOf e / 1024)))

/-- Whether an etlet is present, in the core map, on a ready cluster and die (Table 2.7, R240, Table 11.12). (DEDUCED, log 93) -/
def State.placeable (s : State) (x : Nat) : Bool :=
  let p := s.pkg (pkgOf x)
  (kget s.pkgs (pkgOf x)).isSome && p.isReady (64 + clusterOf x % 256) && p.isReady (320 + dieOf x % 4) &&
  !(kgetD s.clusters (clusterOf x) {}).out && !(s.etletAt x).out

/-- Status 4, PLACE. -/
def State.badPlace (s : State) (l : Launch) : Bool :=
  let es := l.etletList
  decide (es.eraseDups.length ≠ es.length) || l.pkgs.any (fun p => (kget s.pkgs p).isNone) ||
  es.any (fun x => !s.placeable x || (let t := s.etletAt x; decide (t.kernels ≠ [] ∧ t.detect ≠ l.mode 1)))

/-- Status 5, SLOTS. -/
def State.badSlots (s : State) (l : Launch) : Bool :=
  l.etletList.any (fun x => let t := s.etletAt x; decide (8 ≤ t.kernels.length) || t.slots.any (fun p => l.slotmask.getLsbD p.1))

/-! ### Placement on one etlet (R33, R34, R89, R177, R205) -/

/-- The indices of a virtual etlet: package of the launch, die, cluster, etlet. -/
structure Virt where
  pkg : Nat
  die : Nat
  cl : Nat
  et : Nat

/-- The virtual etlet with number `n` in PLACE order on virtual package `p`. -/
def Launch.virt (l : Launch) (p n : Nat) : Virt := ⟨p, n / (l.clusters * l.etlets), n / l.etlets % l.clusters, n % l.etlets⟩

/-- TEAMIX with THR 0 (Table 2.8). -/
def Launch.teamixOf (l : Launch) (v : Virt) : Nat :=
  v.pkg / l.packages * 2 ^ 28 + v.pkg % l.packages * 2 ^ 18 + v.die * 2 ^ 16 + v.cl * 2 ^ 10 + v.et * 2 ^ 6

/-- rank of thread `t` (R33). -/
def Launch.rankOf (l : Launch) (v : Virt) (t : Nat) : Nat :=
  (((v.pkg * l.dies + v.die) * l.clusters + v.cl) * l.etlets + v.et) * l.threads + t

/-- The supervisor vector of a key ID (Tables 11.4 and 12.1). (DEDUCED, log 95) -/
def State.superVec (s : State) (key : Nat) : Word :=
  let a := s.etl.svtab.toNat + 8 * key
  let v := if gpaBad a || s.abortsR a then Config.freeWord s.free else wd (s.rdMem key a 8)
  v &&& ~~~(7 : Word)

/-- Its read at its home (R90). -/
def State.superTouch (s : State) (key : Nat) : State :=
  let a := s.etl.svtab.toNat + 8 * key
  if gpaBad a || s.abortsR a then s else s.l2Touch key a

/-- A thread as a launch creates it (R34). -/
def Launch.newThread (l : Launch) (v : Virt) (kid t tid : Nat) (svec : Word) : Thread :=
  { tid := tid, kid := kid, pc := l.entry, limit := l.regs, vlimit := l.vregs, rank := wd (l.rankOf v t),
    teamix := wd (l.teamixOf v + t), shape := l.shapeWord, policy := wd l.policy, svec := svec,
    g := [(2, (0xFFF000000FFC0000 : Word) + wd (0x30000 - l.stack * t)), (3, l.args)] }

/-- Creates threads `t`, `t + 1`, … (`n` of them) in the lowest free slots with free windows (R33). -/
def createThreads (l : Launch) (v : Virt) (kid : Nat) (svec : Word) : Nat → Nat → State → Option State
  | _, 0, s => some s
  | t, n + 1, s =>
    let th := l.newThread v kid t s.nextTid svec
    if l.mode 0 then
      match lowest (fun i => (s.threadAt i).isNone && (s.threadAt (i + 31)).isNone) 0 31 with
      | none => none
      | some i =>
        match seatAt i { th with partner := some (s.nextTid + 1) } s with
        | none => none
        | some s1 =>
          match seatAt (i + 31) { th with tid := s.nextTid + 1, partner := some s.nextTid, trail := true } s1 with
          | none => none
          | some s2 => createThreads l v kid svec (t + 1) n { s2 with nextTid := s.nextTid + 2 }
    else match seat th s with
      | none => none
      | some (_, s1) => createThreads l v kid svec (t + 1) n { s1 with nextTid := s.nextTid + 1 }

/-- Whether a placement clears the scratchpad of an etlet (R89). -/
def Etlet.clears (e : Etlet) (key : Nat) : Bool := decide (e.kernels = []) && e.lastKey.any (fun k => decide (k ≠ key))

/-- Engine commands of the etlet itself still to complete (R177). -/
def Etlet.engineBusy (e : Etlet) : Bool := !(e.cmds.isEmpty && e.mmas.isEmpty && e.vq.isEmpty && e.vrb.isNone && e.solver.isEmpty)

/-- What a placement on the etlet in focus, if it holds no kernel, resets first (R30, R89, R177, R205). -/
def prepareEtlet (l : Launch) (s : State) : State :=
  let c := s.etl.clears l.key
  let s := if c then
      { s with mem := s.mem.filter (fun (b : Host.Cell) => !inScratch s.eid b.1), fe := s.fe.filter (fun w => !inScratch s.eid (w * 8)),
               etl := { s.etl with rings := [], acc0 := {}, acc1 := {}, dlog := [], tags := 0, tagNew := 0, tagScope := [] } }
    else s
  if s.etl.kernels = [] then s.modE (fun e => { e with detect := l.mode 1, sc := [], scScope := [], scWait := [] }) else s

/-- Places the launch on the etlet in focus: kernel ID, slot table, LEND bit, windows and threads; none where they do not
fit (R33). (DESIGN CHOICE, log 94) -/
def placeHere (lk : Nat) (l : Launch) (v : Virt) (s : State) : Option State :=
  match lowest (fun k => (kget s.etl.kernels k).isNone) 0 8, firstFit 32 l.pregs (s.etl.kernels.map (fun k => (k.2.pbase, k.2.pregs))) with
  | some kid, some pb =>
    let s := prepareEtlet l s
    let k : Kernel := { launch := lk, key := l.key, vix := l.teamixOf v / 64, right := wd l.key, pregs := l.pregs, pbase := pb,
                        battery := l.mode 0, ckpt := { on := l.mode 2 } }
    let s := s.modE (fun e => { e with
      kernels := kput e.kernels kid k,
      slots := (List.range 64).foldl (fun m c => if l.slotmask.getLsbD c then kput m c kid else m) e.slots,
      lend := if l.mode 3 then e.lend ||| 2 ^ kid else e.lend &&& (255 - 2 ^ kid) })
    createThreads l v kid (s.superVec l.key) 0 l.threads (s.superTouch l.key)
  | _, _ => none

/-! ### A launch (R32, R33, R35, R263) -/

/-- The virtual etlets of a launch with their physical etlets. -/
def Launch.sites (l : Launch) : List (Virt × Nat) :=
  (List.range l.pkgLen).flatMap (fun p => (List.range l.placeLen).filterMap (fun n =>
    let v := l.virt p n
    (l.etletOf p v.die (v.cl * 16 + v.et)).map (fun e => (v, e))))

/-- A free slot number to focus on while an etlet's slots change: none of the 64. -/
def inEtlet (e : Nat) (f : State → State) (s : State) : State := within e (if e = s.eid then s.slot else 64) f s

/-- Status 6, WINDOW: a placed etlet lacks slots or windows. -/
def State.badWindow (s : State) (lk : Nat) (l : Launch) : Bool :=
  l.sites.any (fun x => (placeHere lk l x.1 (if x.2 = s.eid then s else s.focus x.2 64)).isNone)

/-- The packages on which a launch from package `p` takes its index. -/
def Launch.onPkgs (l : Launch) (p : Nat) : List Nat := if l.pkgs.contains p then l.pkgs else p :: l.pkgs

/-- Whether index `i` is free on the packages `ps`: no resident launch there has it (R32). (DEDUCED, log 98) -/
def State.indexFree (s : State) (ps : List Nat) (i : Nat) : Bool :=
  s.launches.all (fun q => decide (q.1 % 64 ≠ i) || q.2.done || !(q.2.onPkgs (q.1 / 64)).any ps.contains)

/-- Checks 3 to 7 of Table 2.7, for a launch received by package `p` from etlet `e`: the first that fails, or the index. -/
def State.launchCheck (s : State) (l : Launch) (right : Option Word) (p e : Nat) : Nat ⊕ Nat :=
  if l.place.any (fun x => decide (4096 ≤ x)) then .inl 1
  else if !l.covered right e then .inl 3
  else if s.badPlace l then .inl 4
  else if s.badSlots l then .inl 5
  else if s.badWindow 0 l then .inl 6
  else match lowest (s.indexFree (l.onPkgs p)) 0 64 with
    | none => .inl 7
    | some i => .inr i

/-- Places a launch that passed every check, with index `i`, from package `p` (R33, R263): what an earlier launch of the
same index left is gone. -/
def placeLaunch (l : Launch) (i p : Nat) (s : State) : State :=
  let lk := 64 * p + i
  let ps := l.onPkgs p
  let s := { s with
    launches := kput (s.launches.filter (fun q => !(decide (q.1 % 64 = i) && (q.2.onPkgs (q.1 / 64)).any ps.contains))) lk
      { l with live := l.sites.map (·.2) },
    images := kmap s.images (fun l => l.filter (fun t => decide (t.lk ≠ lk))), spent := kmap s.spent (fun l => l.filter (fun t => decide (t.lk ≠ lk))),
    stations := kmap s.stations (fun st => { st with legit := kdel st.legit lk, bad := kdel st.bad lk }) }
  l.sites.foldl (fun s x => inEtlet x.2 (fun s => (placeHere lk l x.1 s).getD s) s) s

/-- Whether a placement under key ID `key` on etlet `x` must wait: it clears the scratchpad, and engine commands of earlier
kernels are still to complete, among them work requests and other etlets' multicast commands onto it (R160, R177, R216).
(DEDUCED, log 92) -/
def State.clearHeld (s : State) (key x : Nat) : Bool :=
  let t := s.etletAt x
  t.clears key && (t.engineBusy ||
    s.dies.any (fun d => (d.2.ueSend ++ d.2.ueRecv).any (fun w => decide (w.eid = x))) ||
    s.save.etlets.any (fun p => decide (clusterOf p.1 = clusterOf x) && p.2.cmds.any (fun c => c.mc && (kgetD s.launches c.lk {}).etletList.contains x)))

/-- Whether a placement must wait for engine commands of earlier kernels (R177), or for the test of the home that holds the supervisor vector
(R349). -/
def State.launchHeld (s : State) (l : Launch) : Bool :=
  l.etletList.any (fun x => s.clearHeld l.key x || s.homeTested ((s.etletAt x).svtab.toNat + 8 * l.key))

/-- Runs a launch: its result (R32), or nothing while it must wait (R177). -/
def launchRun (l : Launch) (right : Option Word) (p e : Nat) (s : State) : Option (Nat × State) :=
  match s.launchCheck l right p e with
  | .inl st => some (st, s)
  | .inr i => if s.launchHeld l then none else some (i * 256, placeLaunch l i p s)

/-! ### LAUNCH (R319) -/

/-- Reads `n` 8-byte words from a VA as loads of the thread in focus: the number they form, or the first fault. -/
def readWords : Nat → Word → State → Cause ⊕ Nat
  | 0, _, _ => .inr 0
  | n + 1, va, s =>
    match s.xlateNow s.kern s.user .rd va with
    | .ok g ca =>
      if s.abortsR g then .inl { code := cDabort, eval := va }
      else if s.lost g then .inl { code := cLost, eval := va }
      else
        let v := (readVia g 8 ca s).1
        match readWords n (va + 8) s with
        | .inl c => .inl c
        | .inr r => .inr (v + 2 ^ 64 * r)
    | .bad c => .inl { code := c, eval := va }
    | .miss => .inl { code := cXlate, eval := va }

/-- What those loads do to caches, translations and page heat (R73, R79, R90). -/
def touchWords : Nat → Word → State → State
  | 0, _, s => s
  | n + 1, va, s =>
    let t := s.xlateTouch s.kern s.user .rd va
    touchWords n (va + 8) (match s.xlateNow s.kern s.user .rd va with
      | .ok g ca => (readVia g 8 ca t).2
      | _ => t)

/-- Whether one of those loads waits for the test of its home, or of a home that its walk reads (R349). -/
def wordsWait : Nat → Word → State → Bool
  | 0, _, _ => false
  | n + 1, va, s =>
    s.walkBusy s.kern s.user .rd va ||
      (match s.xlateNow s.kern s.user .rd va with
      | .ok g _ => s.homeTested g || (!s.abortsR g && !s.lost g && wordsWait n (va + 8) s)
      | _ => false)

/-- Reads `n` items of `w` bytes from a VA of any alignment, word by word. -/
def readList (w n : Nat) (va : Word) (s : State) : Cause ⊕ List Nat :=
  let off := va.toNat % 8
  match readWords ((off + w * n + 7) / 8) (va &&& ~~~(7 : Word)) s with
  | .inl c => .inl c
  | .inr v => .inr (unpack w n (v / 256 ^ off))

/-- What reading them does. -/
def touchList (w n : Nat) (va : Word) (s : State) : State := touchWords ((va.toNat % 8 + w * n + 7) / 8) (va &&& ~~~(7 : Word)) s

/-- Whether reading them waits for a test. -/
def listWait (w n : Nat) (va : Word) (s : State) : Bool := wordsWait ((va.toNat % 8 + w * n + 7) / 8) (va &&& ~~~(7 : Word)) s

/-- DONEADDR of LAUNCH, as a store of the thread in focus (R35). (DEDUCED, log 91) -/
def doneAddr (va : Nat) (s : State) : Cause ⊕ Nat :=
  if va = 0 then .inr 0
  else match s.xlateNow s.kern s.user .wr (wd va) with
    | .ok g _ => .inr g
    | .bad c => .inl { code := c, eval := wd va }
    | .miss => .inl { code := cXlate, eval := wd va }

/-- A launch by the thread in focus after its fence: the value for d, or a trap; nothing while it must wait. (DEDUCED, log 90) -/
def launchThread (va : Word) (s : State) : Option (Cause ⊕ (Nat × State)) :=
  if va.toNat % 64 ≠ 0 then some (.inr (1, s))
  else if wordsWait 16 va s then none
  else match readWords 16 va s with
    | .inl c => some (.inl c)
    | .inr b =>
      let l := parseBlock b
      let s := touchWords 16 va s
      if l.reserved b false then some (.inr (1, s))
      else if l.badShape then some (.inr (2, s))
      else if listWait 4 l.pkgLen (wd (blkField b 0x28 8)) s || listWait 2 l.placeLen (wd (blkField b 0x30 8)) s then none
      else match readList 4 l.pkgLen (wd (blkField b 0x28 8)) s with
        | .inl c => some (.inl c)
        | .inr pk =>
          match readList 2 l.placeLen (wd (blkField b 0x30 8)) s with
          | .inl c => some (.inl c)
          | .inr pl =>
            match doneAddr l.doneAddr s with
            | .inl c => some (.inl c)
            | .inr g =>
              let s := touchList 2 l.placeLen (wd (blkField b 0x30 8)) (touchList 4 l.pkgLen (wd (blkField b 0x28 8)) s)
              (launchRun { l with pkgs := pk, place := pl, doneAddr := g } (some s.kern.right) (pkgOf s.eid) s.eid s).map .inr

/-- LAUNCH (R319): a full fence at system scope first; it waits until the engine commands that R177 names, and the tests of the homes
that it reads (R349), have completed. -/
def execLaunch (d a : Nat) (s : State) : Res :=
  issue (.launch d a) s (fun s => noHandler s (fun s => fullFence 6 s (fun s =>
    match launchThread (s.rd a) s with
    | none => waitFor .reach 112 s
    | some (.inl c) => takeTrap c s
    | some (.inr (v, s)) => result d (wd v) s)))

end Sys2Proof.Machine
end

