-- ==== Sys2Proof/Machine/Sys.lean ====
section
/-! DEFINITION. The supervisor's instructions BENCHO, BENCHI, MAPSET, XINV and KEYSET, and forwarding after MAPSET (R43,
R47, R88, R103, R225, R226, R283, R318, R328, R383). -/

namespace Sys2Proof.Machine

/-! ### Benching (R225, R226, Table 11.7) -/

/-- Whether a wait whose bundle issues again stays registered for a benched thread: a wait on a loop port, a sync object or a tag
(Table 11.7). -/
def Wait.stays : Wait → Bool
  | .lport | .credit _ | .rollback _ | .verdict | .ckptOff | .sfree _ => true
  | .tagBusy x => decide (x < 64)
  | _ => false

/-- What a benched thread's wait is saved as (Table 11.7): READY where its bundle issues again and nothing is registered.
(DEDUCED, log 101) -/
def TState.saved : TState → TState
  | .waiting (.gang _) => .ready
  | .waiting (.benchSelf _) => .ready
  | .waiting w => if w.again && !w.stays then .ready else .waiting w
  | .ready => .ready

/-- Whether BENCHO waits for the thread in focus (Table 11.7): its reply, engine, arithmetic or sequence completes first, and the MMAs that
it waits for. -/
def State.benchWaits (s : State) : Bool :=
  (match s.th.st with
   | .waiting w => decide (w = .mem ∨ w = .mma ∨ w = .solver ∨ w = .alu ∨ w = .vrwait ∨ w = .exitDrain ∨ w = .mmaDrain) ||
       (match w with | .walk _ => true | _ => false)
   | .ready => false) || s.vectorOut

/-- One part of a bench image, `n` bytes at `g`, is written as ordinary stores of the thread that executed BENCHO, under the launch's key ID
(R225, R283). -/
def writePart (e : Nat) (b : BenchW) (g n : Nat) (s : State) : State :=
  let g := s.survivor g
  let fail := fun (c : Nat) => raiseEvent b.lk b.tid e b.rank { code := c, eval := b.va + wd b.off } s
  if s.aborts g then fail cDabort
  else if s.lost g then fail cLost
  else loop (fun i (s : State) =>
    let v := loop (fun j (x : Nat) => x + (Config.benchByte b.no (b.off + 8 * i + j)).toNat * 256 ^ j) 0 8 0
    (s.patchCopies s.eid b.key (g + 8 * i) 8 v).homeWrite b.key (g + 8 * i) 8 v) 0 (n / 8) s

/-- Whether the next part of an image write, `n` bytes at `g`, must wait: for stores that its thread issued before, buffered, or under way to
the same words or before a FENCE.SS; or for its home (R82, R98, R103, R349). -/
def State.imageWaits (s : State) (b : BenchW) (g n : Nat) : Bool :=
  s.etl.buf.any (fun x => decide (x.tid = b.tid ∧ x.born ≤ b.no)) ||
  s.etl.posted.any (fun x => decide (x.tid = b.tid ∧ x.done = 0 ∧ x.born ≤ b.no) && (overlap g n x.gpa x.width || decide (x.ssn < b.ssn))) ||
  (List.range (n / 64)).any (fun i => s.writeBusy b.key (s.survivor g + 64 * i))

/-- The next part of the oldest image write. -/
def writeNext (s : State) : State :=
  match s.etl.benchW with
  | [] => s
  | b :: rest =>
    match b.parts with
    | [] => s.modE (fun e => { e with benchW := rest })
    | (g, n) :: ps =>
      if s.imageWaits b g n then s
      else readyWhere storeWaits (writePart s.eid b g n (s.modE (fun e => { e with
        benchW := if ps = [] then rest else e.benchW.map (fun x => if x = b then { b with parts := ps, off := b.off + n } else x) })))

/-- The bench keeps the 32 newest contexts; older ones stand in their images only, once those have been written. -/
def trimBench : Nat → State → State
  | 0, s => s
  | n + 1, s =>
    match s.etl.bench with
    | t :: rest =>
      if rest.length < 32 ∨ s.etl.benchW.any (fun b => decide (b.no = t.imgNo)) then s
      else trimBench n { s.modE (fun e => { e with bench := e.bench.drop 1, benchOut := e.benchOut ++ [(t.tid, t.imgNo)] }) with
          images := kmod s.images t.imgNo [] (· ++ [t]) }
    | [] => s

/-- The thread in focus leaves its slot for the bench, in image `no` at address `gpa`; a capture goes, and its place before the
accumulators. A waiting member withdraws its GANG, which issues again, with the partner of its pair; any other thread's gang cannot form
(R314). (DEDUCED, log 143) -/
def benchOne (no gpa : Nat) (s : State) : State :=
  let s := dropCapture s
  let t := s.th
  if s.thr.isNone then s
  else
    let waits := (match t.st with | .waiting (.gang _) => true | _ => false)
    let t := if waits then { t with deferred := none, kill := none, pops := [] } else t
    let c := { t with st := t.st.saved, lk := s.lkey, img := gpa, imgNo := no, lastSlot := s.slot, yieldAt := none, votes := [] }
    let s := { s.modE (fun e => { e with bench := e.bench ++ [c] }) with thr := none }
    trimBench 2 (if waits then s else breakGangs s.slot (fun _ => true) s)

/-- The causes of a range access of the supervisor, ALIGN first. -/
def imageCause (kind : Acc1) (va : Word) (n : Nat) (s : State) : Option Cause :=
  if va.toNat % 4096 ≠ 0 then some { code := cAlign, eval := va } else rangeFault kind va n s

/-- Whether its translation waits for a test (R349). -/
def imageWait (kind : Acc1) (va : Word) (n : Nat) (s : State) : Bool := decide (va.toNat % 4096 = 0) && rangeWait kind va n s

/-- Whether a home of `q.2` bytes at `q.1` is under test (R349). -/
def State.partTested (s : State) (q : Nat × Nat) : Bool := (List.range (q.2 / 64)).any (fun i => s.homeTested (q.1 + 64 * i))

/-- The physical address of a VA that translates. -/
def State.gpaOf (s : State) (kind : Acc1) (va : Word) : Nat :=
  match s.xlateNow s.kern s.user kind va with
  | .ok g _ => g
  | _ => 0

/-- The bytes of an image area, page by page. -/
def imageParts (kind : Acc1) (va : Word) (n : Nat) (s : State) : List (Nat × Nat) :=
  (List.range (n / 4096)).map (fun i => (s.gpaOf kind (va + wd (4096 * i)), 4096))

/-- The bytes of an image: 16 KiB, or 32 KiB of a battery pair (R225). -/
def imageBytes (pair : Bool) : Nat := if pair then 32768 else 16384

/-- Benches slot `l` of the etlet in focus, both slots of a battery pair; the write of the image at `va` is under way. -/
def benchSlot (l : Nat) (va : Word) (s : State) : State :=
  let w := s.th
  let lk := s.lkey
  let s := within s.eid l disbandAll s
  let t := (s.threadAt l).getD {}
  let ps := imageParts .wr va (imageBytes t.partner.isSome) { s with thr := some w }
  let g := (ps.headD (0, 0)).1
  let key := (kgetD s.etl.kernels t.kid {}).key
  let p := if l = s.slot then s.partnerSlot else (s.focus s.eid l).partnerSlot
  let (no, s) := s.fresh
  let s := s.modE (fun e => { e with benchW := e.benchW ++ [{ no := no, key := key, tid := w.tid, lk := lk, rank := w.rank, va := va, ssn := w.ssn, parts := ps }] })
  let s := within s.eid l (benchOne no g) s
  match p with | some q => within s.eid q (benchOne no g) s | none => s

/-- BENCHO (R225, R226, R283): the thread's earlier stores to the image area come first, and the tests that its translation waits for (R349).
(DEDUCED, log 99) -/
def execBencho (d a b : Nat) (s : State) : Res :=
  issue (.bencho d a b) s (fun s =>
    let l := bits (s.rd a) 5 0
    let va := s.rd b
    let t := if 62 ≤ l then none else s.threadAt l
    let n := imageBytes ((t.map (fun t => t.partner.isSome)).getD false)
    if imageWait .wr va n s then waitFor .reach 112 s
    else match imageCause .wr va n s with
    | some c => takeTrap c s
    | none =>
      if 62 ≤ l then result d 2 s
      else if t.isNone then result d 1 s
      else afterThose (fun x => (imageParts .wr va n s).any (fun q => overlap x.gpa x.width q.1 q.2)) s (fun s =>
        if l = s.slot then
          (if s.vectorOut then waitFor .bench 112 s
           else if s.ph = 1 then { result d 0 s with lateBench := some va.toNat }
           else benchSlot l va (popPorts [.src a, .src b] (result d 0 s)))
        else if (s.focus s.eid l).benchWaits then waitFor .bench 112 s
        else benchSlot l va (result d 0 s)))

/-- The end of a bundle in which BENCHO names its own slot: a vector instruction of the pair writes back first. -/
def benchLate (va : Nat) (s : State) : State :=
  if s.vectorOut then s.modT (fun t => { t with st := .waiting (.benchSelf va) }) else benchSlot s.slot (wd va) s

/-- The threads of the etlet in focus that wait to bench themselves do so. -/
def lateBenches (s : State) : State :=
  eachSlot (fun t => match t.st with | .waiting (.benchSelf _) => true | _ => false) (fun s =>
    match s.th.st with
    | .waiting (.benchSelf va) => benchLate va (s.modT (fun t => { t with st := .ready }))
    | _ => s) s

/-- Takes context `tid` out of every bench and image; its image is spent, but still holds it. -/
def unbench (tid : Nat) (s : State) : State :=
  let g := fun (l : List Thread) => l.filter (fun t => decide (t.tid ≠ tid))
  let h := fun (x : Etlet) => { x with bench := g x.bench, benchOut := x.benchOut.filter (fun p => decide (p.1 ≠ tid)) }
  let s := match s.allBenched.find? (fun t => decide (t.tid = tid)) with
    | some t => { s with spent := kmod s.spent t.imgNo [] (· ++ [t]) }
    | none => s
  { s with etl := h s.etl, etlets := kmap s.etlets h, images := (kmap s.images g).filter (fun p => decide (p.2 ≠ [])) }

/-- What a wake held for the thread in focus does when it is restored: a wait whose bundle issues again just ends (R43, R192). The acquire of a
sync operation, of tags or of a counter is made on the die where the thread now stands (R108). -/
def deliverWake (h : HeldWake) (s : State) : State :=
  let s := if 4 ≤ h.scope then s.acquire (dieOf s.eid) else s
  match s.th.st with
  | .ready => s
  | .waiting w =>
    if w.again then s.modT (fun t => { t with st := .ready, wokenAt := some s.now })
    else match h.task, h.val with
      | true, some v => aside (takeEntry 63 v (finish (some v))) s
      | _, v => finish v s

/-- The thread in focus, just restored, receives the words and wakes that dugouts held for it, in arrival order (R43). -/
def deliverHeld (s : State) : State :=
  let tid := s.th.tid
  let ws := s.save.etlets.flatMap (fun p => p.2.held.filter (fun h => decide (h.tid = tid)))
  let lps := s.save.etlets.flatMap (fun p => p.2.heldLp.filter (fun h => decide (h.1 = tid)))
  let drop := fun (e : Etlet) => { e with held := e.held.filter (fun h => decide (h.tid ≠ tid)), heldLp := e.heldLp.filter (fun h => decide (h.1 ≠ tid)) }
  let s : State := { s with etl := drop s.etl, etlets := kmap s.etlets drop }
  let s : State := lps.foldl (fun (s : State) (w : Nat × LpWord) => s.modT (fun t => { t with inq := kput t.inq w.2.port (kgetD t.inq w.2.port [] ++ [w.2]) })) s
  let s := if !lps.isEmpty && decide (s.th.st = .waiting .lport) then s.modT (fun t => { t with st := .ready, wokenAt := some s.now }) else s
  reachWakes (ws.foldl (fun (s : State) (h : HeldWake) => deliverWake h s) s)

/-- Seats a context from a bench or an image, and its battery partner, in the etlet in focus: the slot (R225, R226). -/
def restore (t : Thread) (p : Option Thread) (kid : Nat) (s : State) : Option (Nat × State) :=
  let put := fun (i : Nat) (t : Thread) (s : State) => seatAt i { t with kid := kid, lastSlot := i } s
  match p with
  | none =>
    match s.freeThreadSlot with
    | none => none
    | some i => (put i t s).map (fun s => (i, within s.eid i deliverHeld (unbench t.tid s)))
  | some q =>
    match lowest (fun i => (s.threadAt i).isNone && (s.threadAt (i + 31)).isNone) 0 31 with
    | none => none
    | some i =>
      match put i t s with
      | none => none
      | some s1 => (put (i + 31) q s1).map (fun s => (i, within s.eid (i + 31) deliverHeld (within s.eid i deliverHeld (unbench q.tid (unbench t.tid s)))))

/-- The newest context that the bench of the etlet in focus keeps of an image at `gpa`, leading its pair. -/
def State.benchAt (s : State) (gpa : Nat) : Option Thread := (s.etl.bench.filter (fun t => decide (t.img = gpa) && !t.trail)).getLast?

/-- What reading an image does at its home L2s and to page heat: lines that no cache holds are loaded (R79, R90). -/
def touchImage (key : Nat) (ps : List (Nat × Nat)) (s : State) : State :=
  ps.foldl (fun s q => loop (fun i s =>
    let g := q.1 + 64 * i
    if (s.cached s.eid key g 64 s.etl.l1).isSome ∨ (s.cached s.eid key g 64 s.myDie.rdc).isSome then s else s.l2Touch key g) 0 (q.2 / 64) s) s

/-- The number that a line of memory forms, as `key` reads it through the caches of the etlet in focus. -/
def State.lineAt (s : State) (key g : Nat) : Nat :=
  ((s.cached s.eid key g 64 s.etl.l1).orElse (fun _ => s.cached s.eid key g 64 s.myDie.rdc)).getD (s.rdMem key g 64)

/-- Whether the bytes of an area are those of image `no` (R225). -/
def State.imageHere (s : State) (no key : Nat) (ps : List (Nat × Nat)) : Bool :=
  (List.range (ps.length * 64)).all (fun i =>
    decide (s.lineAt key ((ps.getD (i / 64) (0, 0)).1 + i % 64 * 64) =
      loop (fun j (x : Nat) => x + (Config.benchByte no (i * 64 + j)).toNat * 256 ^ j) 0 64 0))

/-- The contexts of image `no`: those benched, else those restored from it before, which are then threads of their own. -/
def State.imageOf (s : State) (no : Nat) : List Thread × Bool :=
  match s.allBenched.filter (fun t => decide (t.imgNo = no)) with
  | [] => (kgetD s.spent no [], true)
  | l => (l, false)

/-- The newest image whose bytes stand in memory at `va` and hold a context of a launch on the etlet in focus (R225). -/
def State.imageAt (s : State) (va : Word) : Option Nat :=
  let nos := (s.allBenched.map (·.imgNo) ++ s.spent.map (·.1)).eraseDups
  (nos.filter (fun no =>
    let l := (s.imageOf no).1
    match (l.head?).bind (fun t => s.kernelOf t.lk) with
    | some (_, k) => s.imageHere no k.key (imageParts .rd va (imageBytes (decide (1 < l.length))) s)
    | none => false)).foldl (fun (m : Option Nat) no => some (max no (m.getD no))) none

/-- Whether a store of thread `tid` is still under way from another etlet. -/
def State.storesElsewhere (s : State) (tid : Nat) : Bool :=
  s.etlets.any (fun p => decide (p.1 ≠ s.eid) && (p.2.buf ++ p.2.posted).any (fun x => decide (x.tid = tid ∧ x.done = 0)))

/-- BENCHI puts contexts back: the value for d (R225). A context restored from its image a second time is a thread of its own. A thread's
stores under way from another etlet take effect first. (DEDUCED, log 102) -/
def benchIn (d : Nat) (l : List Thread) (again : Bool) (s : State) : State :=
  match l.find? (fun t => !t.trail) with
  | none => result d 65 s
  | some t =>
    match s.kernelOf t.lk with
    | none => result d 65 s
    | some (kid, _) =>
      let p := t.partner.bind (fun p => l.find? (fun x => decide (x.tid = p)))
      if s.storesElsewhere t.tid then waitFor .reach 112 s
      else
        let n := s.nextTid
        let (t, p) := if again then ({ t with tid := n, partner := p.map (fun _ => n + 1) }, p.map (fun q => { q with tid := n + 1, partner := some n })) else (t, p)
        match restore t p kid (if again then { s with nextTid := n + 2 } else s) with
        | none => result d 64 s
        | some (i, s) => result d (wd i) s

/-- BENCHI (R225, R226, R283): from the bench without reading memory, else from the image, once no home of it is under test (R349). -/
def execBenchi (d a b : Nat) (s : State) : Res :=
  issue (.benchi d a b) s (fun s =>
    let va := s.rd a
    let c := s.benchAt (s.gpaOf .rd va)
    if imageWait .rd va (if c.isSome then 1 else 16384) s then waitFor .reach 112 s
    else match imageCause .rd va (if c.isSome then 1 else 16384) s with
    | some x => takeTrap x s
    | none =>
      if s.rd b ≠ 0 then result d 65 s
      else match c with
        | some t => benchIn d (s.allBenched.filter (fun x => decide (x.imgNo = t.imgNo))) false s
        | none =>
          let ps := imageParts .rd va 16384 s
          if ps.any s.partTested then waitFor .reach 112 s
          else if ps.any (fun q => s.readWaits q.1 q.2 || s.otherSlotMatch q.1 q.2) then waitFor (.sbuf 0) 112 s
          else afterThose (fun x => ps.any (fun q => overlap x.gpa x.width q.1 q.2)) s (fun s =>
            match ps.find? (fun q => s.abortsR q.1), s.imageAt va with
            | some _, _ => takeTrap { code := cDabort, eval := va } s
            | none, none => result d 65 s
            | none, some no =>
              let l := s.imageOf no
              match imageCause .rd va (imageBytes (decide (1 < l.1.length))) s with
              | some x => takeTrap x s
              | none => benchIn d l.1 l.2 (touchImage s.kern.key (imageParts .rd va (imageBytes (decide (1 < l.1.length))) s) s)))

/-! ### MAPSET (R47, R328) -/

/-- What MAPSET names: the launch key, its launch, the virtual package and the index in PLACE. (DEDUCED, log 105) -/
def State.mapped (s : State) : Option (Nat × Launch × Nat × Nat) :=
  let p := pkgOf s.eid
  let ix := s.etl.cmapix % 65536
  match s.launchOn p (s.etl.cmapix / 65536) with
  | none => none
  | some (lk, l) =>
    match l.pkgs.findIdx? (fun x => decide (x = p)) with
    | some v => if l.done = false ∧ ix < l.placeLen then some (lk, l, v, ix) else none
    | none => none

/-- An object after etlet `e0` of its launch has become `e1` (R47, R119): its core node keeps what it holds, and so does every other; its
parent numbers its children anew (R120). -/
def SyncObj.moved (e0 e1 : Nat) (o : SyncObj) : SyncObj :=
  match kget o.nodes e0 with
  | none => o
  | some x =>
    let ren := fun (n : Nat) => if n = e0 then e1 else n
    let o' := { o with
      home := ren o.home,
      nodes := kput (kdel o.nodes e0) e1 { x with root := ren x.root, pub := { x.pub with root := ren x.pub.root } } }
    match o.par e0 with
    | none => o'
    | some p =>
      let arr := (o.kids p).foldl (fun a c =>
        if (BitVec.ofNat 64 (o.node p).arr).getLsbD (o.childIx p c) then a ||| 2 ^ o'.childIx p (ren c) else a) 0
      { o' with nodes := kmod o'.nodes p {} (fun y => { y with arr := arr }) }

/-- A sync message with etlet `e0` renamed to `e1`. -/
def SyncMsg.moved (ren : Nat → Nat) : SyncMsg → SyncMsg
  | .report k c p => .report k (ren c) p
  | .phase k n p d => .phase k (ren n) p d
  | .verdict t k c d ok => .verdict t k c d ok

/-- The sync objects of launch `lk` follow its etlet from `e0` to `e1`, with the legitimacy of its own scope. -/
def moveObjs (lk e0 e1 : Nat) (s : State) : State :=
  let ren := fun (n : Nat) => if n = e0 then e1 else n
  let st := kgetD s.stations (e0 * 8 + 1) {}
  let mine := fun (k : Nat) => (kgetD s.objs k {launch := lk + 1, gen := 0, kind := 0, scope := 0, t := 0, home := 0, nodes := []}).launch = lk
  { s with
    objs := kmap s.objs (fun o => if o.launch = lk then o.moved e0 e1 else o),
    smsgs := s.smsgs.map (fun m => match m with
      | .report k _ _ => if mine k then m.moved ren else m
      | .phase k _ _ _ => if mine k then m.moved ren else m
      | .verdict _ _ _ _ _ => m),
    stations := kmod (kput s.stations (e0 * 8 + 1) { st with legit := kdel st.legit lk, bad := kdel st.bad lk }) (e1 * 8 + 1) {} (fun y => { y with
      legit := kset y.legit lk (kget st.legit lk), bad := kset y.bad lk (kget st.bad lk) }) }

/-- The kernel of launch `lk` moves from etlet `e0` to `e1`; what was on its way is forwarded, in arrival order on each channel (R47). Its
common and permutation registers start at zero there, at permutation base 0 where no window is free. (DESIGN CHOICE, log 144) -/
def moveKernel (lk e0 e1 : Nat) (l : Launch) (s : State) : State :=
  let x := s.etletAt e0
  match x.kernels.find? (fun k => decide (k.2.launch = lk)) with
  | none => s
  | some (kid, k) =>
    let out := s.allBenched.filter (fun t => decide (t.lk = lk ∧ t.teamix.toNat / 64 = k.vix))
    let tids := out.map (·.tid)
    let fwd := ((x.inbox ++ x.msgs).filter (fun m => decide (m.launch = lk))).map Fwd.msg ++
      (x.goIn.filter (fun t => decide (t.lk = lk))).map Fwd.go ++ (x.lpIn.filter (fun w => decide (w.lk = lk))).map Fwd.word
    let s := s.modEt e0 (fun x => { x with
      kernels := kdel x.kernels kid, slots := x.slots.filter (fun p => decide (p.2 ≠ kid)), lend := x.lend &&& (255 - 2 ^ kid),
      lastKey := some k.key, trigs := x.trigs.filter (fun t => decide (t.2.kid ≠ kid)),
      msgs := x.msgs.filter (fun m => decide (m.launch ≠ lk)), inbox := x.inbox.filter (fun m => decide (m.launch ≠ lk)),
      lpIn := x.lpIn.filter (fun w => decide (w.lk ≠ lk)), goIn := x.goIn.filter (fun t => decide (t.lk ≠ lk)),
      held := x.held.filter (fun w => !tids.contains w.tid), heldLp := x.heldLp.filter (fun w => !tids.contains w.1),
      absent := x.absent.filter (fun a => decide (a.lk ≠ lk)) })
    let s := s.etletIds.foldl (fun s e => s.modEt e (fun x => { x with
      fwd := x.fwd.map (fun p => if p.1 = e0 ∧ p.2.launch = lk then (e1, p.2) else p) })) s
    let s := s.modEt e0 (fun x => { x with fwd := x.fwd ++ fwd.map (fun m => (e1, m)) })
    inEtlet e1 (fun s =>
      let s := prepareEtlet l s
      let kid' := (lowest (fun i => (kget s.etl.kernels i).isNone) 0 8).getD 0
      let pb := (firstFit 32 k.pregs (s.etl.kernels.map (fun q => (q.2.pbase, q.2.pregs)))).getD 0
      s.modE (fun e => { e with
        kernels := kput e.kernels kid' { k with cm := [], pm := [], pmAt := [], pbase := pb, rr := 63 },
        slots := (List.range 64).foldl (fun m c => if l.slotmask.getLsbD c then kput m c kid' else m) e.slots,
        lend := if l.mode 3 then e.lend ||| 2 ^ kid' else e.lend &&& (255 - 2 ^ kid'),
        trigs := (x.trigs.filter (fun t => decide (t.2.kid = kid))).foldl (fun m t => if (kget m t.1).isNone then kput m t.1 { t.2 with kid := kid' } else m) e.trigs,
        held := e.held ++ x.held.filter (fun w => tids.contains w.tid), heldLp := e.heldLp ++ x.heldLp.filter (fun w => tids.contains w.1),
        absent := e.absent ++ x.absent.filter (fun a => decide (a.lk = lk)) })) s

/-- Whether the dugout of the cluster of etlet `e` holds no more than its 4,096 places in state `t`, or no more than now (R13). -/
def State.dugoutFits (s t : State) (e : Nat) : Bool := decide (t.dugout (clusterOf e) ≤ max 4096 (s.dugout (clusterOf e)))

/-- MAPSET (R47, R328): a full fence at package scope; a placement that clears the new etlet's scratchpad waits as R177 says, and a rewrite
waits while the dugouts have no room for what is to be forwarded (R13). (DEDUCED, log 103) (DEDUCED, log 104) -/
def execMapset (d a : Nat) (s : State) : Res :=
  issue (.mapset d a) s (fun s =>
    let v := s.rd a
    match s.mapped with
    | none => result d 3 s
    | some (lk, l, vp, ix) =>
      if bits v 63 12 ≠ 0 then result d 3 s
      else
        let p := pkgOf s.eid
        let pl := kgetD l.cmap (vp * 65536 + ix) (l.place.getD ix 0)
        let e0 := etletEid (4 * p + pl / 1024) (pl % 1024)
        let e1 := etletEid (4 * p + bits v 11 10) (bits v 9 0)
        fullFence 4 s (fun s =>
        let x := s.etletAt e0
        let y := s.etletAt e1
        let ks := (x.kernels.filter (fun k => decide (k.2.launch = lk))).map (·.1)
        if x.threads.any (fun t => ks.contains t.2.kid) ∨ x.parked.any (fun t => decide (t.lk = lk)) then result d 1 s
        else if s.placeable e1 = false ∨ 8 ≤ y.kernels.length ∨ y.slots.any (fun q => l.slotmask.getLsbD q.1) ∨
            y.detect ≠ l.mode 1 then result d 2 s
        else if s.clearHeld l.key e1 then waitFor .reach 112 s
        else
          let l' := { l with cmap := kput l.cmap (vp * 65536 + ix) v.toNat, live := l.live.map (fun e => if e = e0 then e1 else e) }
          let t := moveKernel lk e0 e1 l' { s with launches := kput s.launches lk l' }
          if s.dugoutFits t e0 && s.dugoutFits t e1 then result d 0 (moveObjs lk e0 e1 t) else waitFor .reach 112 s))

/-- MAPSET_FORWARD (R47): the dugout of etlet `e` forwards its oldest item, which arrives at the new etlet once that has room for it.
(DEDUCED, log 89) -/
def execMapsetForward (e : Nat) (s : State) : Res :=
  .next (match (s.etletAt e).fwd with
    | [] => s
    | (t, x) :: rest => reachWakes (inEtlet t (fun u =>
        let go := u.modEt e (fun y => { y with fwd := rest })
        match x with
        | .msg m => if u.msgRoom then msgArrive m go else u
        | .go g => if u.goRoom g then goArrive g go else u
        | .word w => if u.wordRoom w then lpArrive w go else u) s))

/-! ### XINV (R383) -/

/-- The level whose pages have the size that SIZE names (Table 23.7). -/
def sizeLevel (n : Nat) : Nat := 3 - n

/-- Whether a translation-cache entry is one that a control word invalidates. -/
def xinvHits (va c : Word) (t : TEntry) : Bool :=
  let n := pageBytes (sizeLevel (bits c 1 0))
  decide (t.key = bits c 27 16) &&
  (c.getLsbD 2 || overlap (va.toNat / n * n) n (t.vpage * pageBytes t.level) (pageBytes t.level))

/-- XINV (R383): a full fence at the scope of its reach, the translations go, and the thread waits until every access that used one has been
performed. -/
def execXinv (d a b : Nat) (s : State) : Res :=
  issue (.xinv d a b) s (fun s =>
    let va := s.rd a
    let c := s.rd b
    let r := bits c 29 28
    if canonical va = false ∧ c.getLsbD 2 = false then takeTrap { code := cXlate, eval := va } s
    else if bits c 63 30 ≠ 0 ∨ bits c 15 3 ≠ 0 ∨ bits c 1 0 = 3 then takeTrap (illegalReg b) s
    else fullFence (3 + r) s (fun s =>
      let s := dropEntries r (dieOf s.eid) (xinvHits va c) s
      if s.accessOut r (dieOf s.eid) (fun _ v k => xinvHits va c ⟨v.toNat / pageBytes 3, 3, 0, k⟩) then waitFor .reach 112 s
      else result d 0 s))

/-! ### KEYSET (R88, R318) -/

/-- Every cached line of a package that carries a key ID is dropped (R318). -/
def dropKey (p key : Nat) (s : State) : State :=
  let f := fun (l : List CLine) => l.filter (fun c => decide (c.key ≠ key))
  let g := fun (e : Nat) (x : Etlet) => if pkgOf e = p then { x with l1 := f x.l1 } else x
  { s with
    etl := g s.eid s.etl, etlets := s.etlets.map (fun x => (x.1, g x.1 x.2)),
    clusters := s.clusters.map (fun x => if x.1 / 256 = p then (x.1, { x.2 with l2 := x.2.l2.filter (fun l => decide (l.2 ≠ key)) }) else x),
    dies := s.dies.map (fun x => if x.1 / 4 = p then (x.1, { x.2 with rdc := f x.2.rdc }) else x) }

/-- Whether a key ID is in use on a package: by a resident launch, or by a midfield region charged to it. -/
def State.keyInUse (s : State) (p key : Nat) : Bool :=
  s.launches.any (fun q => decide (q.2.key = key) && !q.2.done && (q.2.onPkgs (q.1 / 64)).contains p) ||
  (kgetD s.domains (p / 1024) {}).regions.any (fun r => decide (r.key = key))

/-- KEYSET (R318): the new material reaches the package's memory controllers and the domain's switches; its loads wait for the tests of their
homes (R349). -/
def execKeyset (d a : Nat) (s : State) : Res :=
  issue (.keyset d a) s (fun s =>
    let va := s.rd a
    if va.toNat % 64 ≠ 0 then takeTrap { code := cAlign, eval := va } s
    else fullFence 6 s (fun s =>
      if wordsWait 8 va s then waitFor .reach 112 s
      else match readWords 8 va s with
      | .inl c => takeTrap c s
      | .inr m =>
        let s := touchWords 8 va s
        let p := pkgOf s.eid
        let key := s.etl.keyslot
        if s.keyInUse p key then result d 1 s
        else
          let s := (dropKey p key s).modPkg p (fun k => { k with keys := kput k.keys key m })
          result d 0 (s.modDom (p / 1024) (fun x => { x with keys := kput x.keys key m }))))

end Sys2Proof.Machine
end

