-- ==== Sys2Proof/Machine/HostPort.lean ====
section
/-! DEFINITION. The host's command and response queues, the host commands and register writes (R6, R235 to R239, R246). -/

namespace Sys2Proof.Machine

/-- The global physical address of host bus address `a` on package `p` (region 4, Table 4.4). -/
def hostAddr (p a : Nat) : Nat := p * 2 ^ 47 + 4 * 2 ^ 44 + a % 2 ^ 44

/-- One response written to the ring; DSEQISS advances after it (R236, R237). -/
def writeResponse (p : Nat) (r : Word × Nat × Word) (s : State) : State :=
  let k := s.pkg p
  let d := k.dseqiss + 1
  let n := d.toNat + r.1.toNat * 2 ^ 64 + r.2.1 % 2 ^ 16 * 2 ^ 128 + r.2.2.toNat * 2 ^ 192
  (s.wrMem 0 (hostAddr p (k.rqrun.toNat + 32 * ((d.toNat - 1) % 4096))) 32 n).modPkg p (fun k => { k with dseqiss := d })

/-- Whether the response ring has no room (R236). -/
def Pkg.ringFull (k : Pkg) : Bool := decide (4096 ≤ (k.dseqiss - k.rhead).toNat)

/-- Posts a response, or holds it while the ring is full. -/
def postResponse (p : Nat) (r : Word × Nat × Word) (s : State) : State :=
  if (s.pkg p).ringFull ∨ (s.pkg p).backlog ≠ [] then s.modPkg p (fun k => { k with backlog := k.backlog ++ [r] })
  else writeResponse p r s

/-- Posts held responses while there is room. -/
def postBacklog (p : Nat) : Nat → State → State
  | 0, s => s
  | n + 1, s =>
    match (s.pkg p).backlog with
    | [] => s
    | r :: rest =>
      if (s.pkg p).ringFull then s
      else postBacklog p n (writeResponse p r (s.modPkg p (fun k => { k with backlog := rest })))

/-- Starts or restarts both queues at the bases that CQBASE and RQBASE hold now (R238 step 2). -/
def restartQueues (p : Nat) (s : State) : State :=
  s.modPkg p (fun k => { k with
    cqrun := k.cqbase, rqrun := k.rqbase, hseqacc := 0, dseqiss := 0, rhead := 0, cdoor := 0, running := true, restart := false, cmd := none, stopped := false, backlog := [] })

/-- The command in progress of opcode `op`: its HSEQ and bytes. -/
def State.command (s : State) (p op : Nat) : Option (Word × List Nat) :=
  match (s.pkg p).cmd with
  | some (h, bs) => if (bs.getD 8 0).toNat = op then some (h, bs.map (·.toNat)) else none
  | none => none

/-- The restart that QSTART asked for comes once the command in progress has finished and its response stands in the ring (R236, R238).
(DEDUCED, log 112) -/
def restartDue (p : Nat) (s : State) : State :=
  let k := s.pkg p
  if k.restart && k.cmd.isNone && k.backlog.isEmpty then restartQueues p s else s

/-- Ends the command in progress with a response. -/
def endCommand (p : Nat) (h : Word) (status : Nat) (v : Word) (s : State) : State :=
  restartDue p ((postResponse p (h, status, v) s).modPkg p (fun k => { k with cmd := none }))

/-- STATE as the status page shows it (Table 12.2): halted on error once BADSEQ has stopped the queue (R236). (DESIGN CHOICE, log 163) -/
def Pkg.stateCode (k : Pkg) : Nat := if k.stopped then 3 else k.state

/-- What the host reads in the 8 bytes at offset `off` of BAR0 (Tables 12.2, 12.5): zero where an offset is not listed or write-only. -/
def Pkg.bar0 (k : Pkg) (off : Nat) : Word :=
  match off with
  | 0x0000 => wd (k.stateCode % 256)
  | 0x0008 => k.rhead
  | 0x0010 => k.dseqiss
  | 0x0018 => k.hseqacc
  | 0x2000 => k.cqbase
  | 0x2008 => k.rqbase
  | _ => 0

/-- What the host reads in `n` bytes at offset `off` of BAR2, which is region 5 up to 0x3F_FFFF_FFFF (R234); none for an abort. -/
def State.bar2 (s : State) (p off n : Nat) : Option Nat := if off + n ≤ 2 ^ 38 then s.rdDev p off n else none

/-- CDOOR (R238). (DEDUCED, log 112) -/
def execCdoor (pkg v : Nat) (s : State) : Res :=
  .next (s.modPkg pkg (fun k =>
    if v ≤ k.hseqacc.toNat ∨ k.hseqacc.toNat + 4096 < v then k else { k with cdoor := wd (max k.cdoor.toNat v) }))

/-- QSTART (R238): the command in progress finishes first, and a response that the full ring holds back. -/
def execQstart (pkg v : Nat) (s : State) : Res :=
  .next (
    if v % 2 = 0 then s
    else if (s.pkg pkg).cmd.isSome ∨ (s.pkg pkg).backlog ≠ [] then s.modPkg pkg (fun k => { k with restart := true })
    else restartQueues pkg s)

/-- COMMAND_FETCH (R236, R237, R239): the next command in ring order, up to CDOOR. -/
def execCommandFetch (pkg : Nat) (s : State) : Res :=
  .next (
    let k := s.pkg pkg
    if k.running = false ∨ k.stopped ∨ k.cmd.isSome ∨ k.restart ∨ k.cdoor.toNat ≤ k.hseqacc.toNat then s
    else
      let a := hostAddr pkg (k.cqrun.toNat + 64 * (k.hseqacc.toNat % 4096))
      let bs := (List.range 64).map (fun i => s.byte 0 (a + i))
      let h := wd (s.rdMem 0 a 8)
      if h ≠ k.hseqacc + 1 then postResponse pkg (h, Config.hostCode 1, 0) (s.modPkg pkg (fun k => { k with stopped := true }))
      else
        let s := s.modPkg pkg (fun k => { k with hseqacc := h, cmd := some (h, bs) })
        let op := (bs.getD 8 0).toNat
        if op = 0 ∨ 6 < op then endCommand pkg h (Config.hostCode 2) 0 s else s)

/-- INIT (R239): once the old ring has room, the response in it, then the new bases, then the restart. -/
def execInit (pkg : Nat) (s : State) : Res :=
  .next (match s.command pkg 1 with
    | none => s
    | some (h, bs) =>
      if (s.pkg pkg).ringFull ∨ (s.pkg pkg).backlog ≠ [] then s
      else
      let base := fun (i : Nat) => wd (Config.operand 1 i bs) &&& ~~~(0xFFF : Word)
      restartQueues pkg ((postResponse pkg (h, Config.hostCode 0, 0) s).modPkg pkg (fun k => { k with cqbase := base 0, rqbase := base 1 })))

/-- Bytes at a global physical address for the host; none where the home aborts. (DEDUCED, log 96) -/
def hostRead (a n : Nat) (s : State) : Option Nat :=
  if (List.range ((a % 8 + n + 7) / 8)).any (fun i => s.abortsR (a / 8 * 8 + 8 * i)) then none else some (s.rdMem 0 a n)

/-- Whether the host's read of them waits for the test of their home (R349). -/
def hostWait (a n : Nat) (s : State) : Bool := (List.range ((a % 64 + n + 63) / 64)).any (fun i => s.homeTested (a / 64 * 64 + 64 * i))

/-- The host's launch: the value of R32; none while it must wait (R177, R349); the last case is a block or list that the home
aborts. -/
def hostLaunchRun (pkg a : Nat) (s : State) : Option ((Nat × State) ⊕ Unit) :=
  if a % 64 ≠ 0 then some (.inl (1, s))
  else if hostWait a 128 s then none
  else match hostRead a 128 s with
    | none => some (.inr ())
    | some b =>
      let l := parseBlock b
      if l.reserved b true then some (.inl (1, s))
      else if l.badShape then some (.inl (2, s))
      else if hostWait (blkField b 0x28 8) (4 * l.pkgLen) s || hostWait (blkField b 0x30 8) (2 * l.placeLen) s then none
      else match hostRead (blkField b 0x28 8) (4 * l.pkgLen) s, hostRead (blkField b 0x30 8) (2 * l.placeLen) s with
        | some pk, some pl =>
          (launchRun { l with pkgs := unpack 4 l.pkgLen pk, place := unpack 2 l.placeLen pl } none pkg s.eid s).map .inl
        | _, _ => some (.inr ())

/-- LAUNCH, the host's command (R35, R239). -/
def execHostLaunch (pkg : Nat) (s : State) : Res :=
  .next (match s.command pkg 2 with
    | none => s
    | some (h, bs) =>
      match hostLaunchRun pkg (Config.operand 2 0 bs) s with
      | none => s
      | some (.inl (v, s)) => endCommand pkg h (Config.hostCode 0) (wd v) s
      | some (.inr _) => endCommand pkg h (Config.hostCode 6) 0 s)

/-- RSTAT (R239): the launch's state, and its fault record copied to host memory. An index of 64 or more is an absent launch with an empty
record. (DEDUCED, log 115) (DESIGN CHOICE, log 164) -/
def execRstat (pkg : Nat) (s : State) : Res :=
  .next (match s.command pkg 3 with
    | none => s
    | some (h, bs) =>
      let l := Config.operand 3 0 bs
      let a := hostAddr pkg (Config.operand 3 1 bs)
      let st := match s.launchOn pkg l with
        | none => Config.hostCode 3
        | some (_, x) => if x.done then Config.hostCode 5 else Config.hostCode 4
      let v := if l < 64 then (s.rdDev pkg (0x1000000 + 0x2000 * l) 0x1004).getD 0 else 0
      endCommand pkg h (Config.hostCode 0) (wd st) (s.wrMem 0 a 0x1004 v))

/-- FRESET (R239, R241). -/
def execFreset (pkg : Nat) (s : State) : Res :=
  .next (match s.command pkg 4 with
    | none => s
    | some (h, bs) => endCommand pkg h (Config.hostCode 0) 0 (resetFunction pkg (Config.operand 4 0 bs) s))

/-- The measurement registers of a package's dies. -/
def State.measurements (s : State) (p : Nat) : List Nat := (List.range 4).flatMap (fun d => (kgetD s.dies (4 * p + d) {}).meas)

/-- The bytes of an attestation report: the nonce, the measurement registers, the security versions, the enclosure identifier and the serial
number (R246), in that order. (DEDUCED, log 110) -/
def State.report (s : State) (p : Nat) (nonce : List Nat) : List Nat :=
  nonce.map (· % 256) ++ (s.measurements p).flatMap (beBytes 32) ++ (List.range 4).flatMap (fun d => beBytes 8 (Config.securityVersion (4 * p + d))) ++
    beBytes 16 (Config.enclosure p) ++ beBytes 16 (Config.serialNumber p)

/-- ATTEST (R239, R246): a signed report for a 32-byte nonce, in host memory. (DEDUCED, log 110) -/
def execAttest (pkg : Nat) (s : State) : Res :=
  .next (match s.command pkg 5 with
    | none => s
    | some (h, bs) =>
      let nonce := (List.range 32).map (fun i => Config.operand 5 (i + 1) bs)
      let a := hostAddr pkg (Config.operand 5 0 bs)
      let r := s.report pkg nonce
      let n := r.length + Config.signatureLen pkg
      let byte := fun (i : Nat) => BitVec.ofNat 8 (if i < r.length then r.getD i 0 else Config.signatureByte pkg r (i - r.length))
      endCommand pkg h (Config.hostCode 0) (wd n) (loop (fun i s => s.wrByte 0 (a + i) (byte i)) 0 n s))

/-- FWLOAD (R239): the image is in configuration flash from now on, and is read at the next power-up (R244). (DEDUCED, log 111) -/
def execFwload (pkg : Nat) (s : State) : Res :=
  .next (match s.command pkg 6 with
    | none => s
    | some (h, bs) =>
      let a := hostAddr pkg (Config.operand 6 0 bs)
      let n := Config.operand 6 1 bs
      let img := s.rdMem 0 a n
      endCommand pkg h (Config.hostCode 0) 0 (s.modPkg pkg (fun k => { k with flash := kput k.flash 0 img })))

/-- REGISTER_WRITE (R6, R234, R235, R238): BAR0 below 0x1_0000 writes its bases, 4,096-aligned; above, region 5 as far as BAR2 maps it.
(DEDUCED, log 114) -/
def execRegisterWrite (pkg off v : Nat) (s : State) : Res :=
  .next (
    let b := wd v &&& ~~~(0xFFF : Word)
    if off = 0x2000 then s.modPkg pkg (fun k => { k with cqbase := b })
    else if off = 0x2008 then s.modPkg pkg (fun k => { k with rqbase := b })
    else if off < 0x10000 ∨ 2 ^ 38 ≤ off then s
    else (rmwDo s 0 (pkg * 2 ^ 47 + 5 * 2 ^ 44 + off) (.store 8 (wd v))).1)

/-- RHEAD_ADVANCE (R236): responses held while the ring was full are posted. (DEDUCED, log 113) -/
def execRheadAdvance (pkg v : Nat) (s : State) : Res :=
  .next (
    let s := s.modPkg pkg (fun k => { k with rhead := wd v })
    restartDue pkg (postBacklog pkg (s.pkg pkg).backlog.length s))

end Sys2Proof.Machine
end

