-- ==== Sys2Proof/Machine/Events.lean ====
section
/-! DEFINITION. The part's steps that complete what instructions began: traps of a bundle, walks, replies, stores, arithmetic,
event delivery, EXIT and completion, bench images, FAGG groups, requests between packages, fabric ports and flows (R25, R26,
R35, R54, R74, R75, R82, R99, R110, R194, R195, R200 to R204, R223, R225, R266, R301, R305, R386). -/

namespace Sys2Proof.Machine

/-! ### Traps of a bundle before it executes (R54, R223) -/

/-- ILLEGAL_ENCODING (R54 step 2, R266). -/
def execIllegalEncoding (w : Nat) (s : State) : Res := .next (takeTrap { code := cIllegal, eval := wd w } s)

/-- FETCH_FAULT (R54 step 1). -/
def execFetchFault (cause : Nat) (s : State) : Res := .next (takeTrap { code := cause, eval := s.th.pc } s)

/-- Takes the oldest event of the thread in focus as a trap (R223). -/
def deliverEvent (s : State) : State :=
  match s.th.events with
  | [] => s
  | c :: rest => takeTrap c (s.modT (fun t => { t with events := rest }))

/-- Whether a thread can take an event now: READY between two bundles, past annulled ones (R223, R292), and not at a bundle that already
holds a place before an accumulator (R172). -/
def State.betweenBundles (s : State) : Bool :=
  decide (s.th.st = .ready ∧ s.th.skip = 0 ∧ s.th.votes = []) && s.th.deferred.isNone &&
  !s.etl.mmas.any (fun m => decide (m.tid = s.th.tid) && m.aux.isSome)

/-- EVENT_DELIVERY (R223, R232): before the next bundle issues; a battery pair takes it together. -/
def execEventDelivery (e slot : Nat) (s : State) : Res :=
  at_ e slot s (fun s =>
    match s.th.events with
    | [] => s
    | c :: _ =>
      if s.betweenBundles = false then s
      else
        let p := s.partnerSlot
        let s := deliverEvent s
        match p with
        | some l => within s.eid l (aside (takeTrap c)) s
        | none => s)

/-- YIELD_EXPIRY (R386). -/
def execYieldExpiry (e slot : Nat) (s : State) : Res :=
  at_ e slot s (fun s => s.modT (fun t => match t.yieldAt with
    | some (c, _) => if c + 64 ≤ s.now then { t with yieldAt := none } else t
    | none => t))

/-! ### Walks (R74, R75) -/

/-- The walk of the thread in focus for a VA: the cluster's cache answers, or the tables do. -/
def walkResult (va : Word) (s : State) : Option TEntry :=
  let k := s.kern
  match (kgetD s.clusters (clusterOf s.eid) {}).tcache.find? (fun t => t.hits k.key va) with
  | some t => some t
  | none => (s.walk k.key va k.root.toNat walkLevels).map (fun r => ⟨va.toNat / pageBytes r.1, r.1, r.2, k.key⟩)

/-- Whether a walk reads an entry whose data failed its check (R231). -/
def State.walkAborts (s : State) (key : Nat) (va : Word) : Nat → List (Nat × Nat × Nat) → Bool
  | _, [] => false
  | table, (_, h, lo) :: rest =>
    let a := table + 8 * bits va h lo
    if gpaBad table || decide (1 < regionOf table) then false
    else if s.abortsR a then s.failing a || s.badLine a
    else
      let e := wd (s.rdMem key a 8)
      if e.getLsbD 0 = false ∨ bits e 11 7 ≠ 0 ∨ e.getLsbD 1 = true then false
      else s.walkAborts key va (e.toNat / 4096 * 4096) rest

/-- TRANSLATION_WALK_COMPLETE (R73 to R75): the caches are filled and the bundle issues again, or XLATE; a walk of the tables reads their
home L2s, and waits for one under test (R349). One that reads data which failed its check raises a DABORT event too (R231). (DEDUCED, log 165) -/
def execTranslationWalkComplete (e slot : Nat) (s : State) : Res :=
  at_ e slot s (fun s =>
    match s.th.st with
    | .waiting (.walk va) =>
      let near := (kgetD s.clusters (clusterOf s.eid) {}).tcache.any (fun t => t.hits s.kern.key (wd va))
      if near = false ∧ (s.walkReads s.kern.key (wd va) s.kern.root.toNat walkLevels).any s.homeTested = true then s
      else
      let s := readyWhere (fun w => decide (w = .bench)) s
      let r := walkResult (wd va) s
      let bad := !near && s.walkAborts s.kern.key (wd va) s.kern.root.toNat walkLevels
      let lk := s.lkey
      let t := s.th
      let s := if near then s else s.walkTouch s.kern.key s.kern.root.toNat (wd va)
      (match r with
       | none =>
         let s := takeTrap { code := cXlate, eval := wd va } s
         if bad then raiseEvent lk t.tid s.eid t.rank { code := cDabort, eval := wd va } s else s
       | some t =>
         let s := s.modCl (clusterOf s.eid) (fun c => { c with tcache := tcAdd s.free 2048 t c.tcache })
         (s.modE (fun x => { x with tcache := tcAdd s.free 32 t x.tcache })).modT (fun t => { t with st := .ready, wokenAt := some s.now }))
    | _ => s)

/-! ### Requests at their homes (R26, R42, R87, R194, R204, R214) -/

/-- An atomic of etlet `e`, whose die then drops its own copies of the line (R277). -/
def serveRmw (e : Nat) (q : Req) (g : Nat) (s : State) : State × Reply :=
  let r := rmwDo s q.key g q.op
  (r.1.dropCopies (dieOf e) g, r.2)

/-- A load at its home: from the copy of the issuing die's plane (R213), past a slice whose miss registers are all in use (R82), with the
bytes of the thread's own stores that are still in the buffer or the hold queue (R99, R109). -/
def serveLoad (e tid kid : Nat) (q : Req) (g width : Nat) (sg : Bool) (s : State) : State × Reply :=
  let a := s.planeAddr (dieOf e) g
  let v := overlayFor (s.etletAt e) kid tid g width (s.homeRead q.key a width)
  (if s.missFull q.key g q.sent then s.heatUp g else s.l2Touch q.key g, .val (extend width sg v))

/-- A load of separate bytes at their homes, each as `serveLoad` reads it (R338). -/
def serveRead (e tid kid : Nat) (q : Req) (l : List Nat) (s : State) : State × Reply :=
  let byte := fun (b : Nat) =>
    overlayFor (s.etletAt e) kid tid b 1 (s.homeRead q.key (s.planeAddr (dieOf e) (s.survivor b)) 1)
  (((l.map (fun b => s.survivor b / 64)).eraseDups).foldl (fun s x => s.l2Touch q.key (x * 64)) s, .bytes (l.map byte))

/-- The addresses that a request names. -/
def Req.places (q : Req) : List Nat := match q.op with | .read _ l => l | _ => [q.gpa]

/-- Whether a request only writes: it needs nothing of a line that did not read back (Table 11.12). -/
def MemOp.blind : MemOp → Bool
  | .store _ _ | .bytes _ | .stf _ | .ste _ | .sete | .setf => true
  | _ => false

/-- What a home answers to a request that etlet `e` sent for thread `tid` (R77, R85 to R87, R167, R214, R277). -/
def serve (e tid kid : Nat) (q : Req) (s : State) : State × Reply :=
  let g := s.survivor q.gpa
  let plain : Bool := match q.op with | .load _ _ => true | .store _ _ => true | .bytes _ => true | .read _ _ => true | _ => false
  if q.places.any (fun a => if q.op.blind then s.aborts (s.survivor a) else s.abortsR (s.survivor a)) ∨ (plain = false ∧ 4 ≤ regionOf g) then (s, .abort)
  else if q.places.any (fun a => s.lost (s.survivor a)) then (s, .lost)
  else if q.op.writes ∧ q.op ≠ .ldfe ∧ s.hazardAt g q.op.width then (s, .hazard)
  else
    match q.op with
    | .load w sg => serveLoad e tid kid q g w sg s
    | .read _ l => serveRead e tid kid q l s
    | .store _ _ => rmwDo (logWord s e kid g) q.key g q.op
    | .bytes _ => rmwDo (logWord s e kid g) q.key g q.op
    | .amo _ _ _ => serveRmw e q g (logWord s e kid g)
    | .cas _ _ _ => serveRmw e q g (logWord s e kid g)
    | .fagg _ _ => serveRmw e q g (logWord s e kid g)
    | op =>
      match feAccess ⟨tid, op, q.va, q.key, q.scope⟩ g s with
      | (s, some v) => (s.dropCopies (dieOf e) g, .val v)
      | (s, none) => (s, .joined)

/-- Whether a home is on the package of etlet `e`, or in its domain's midfield memory (R194). -/
def onPkg (e gpa : Nat) : Bool :=
  if regionOf gpa = 3 then decide (gpaPkg gpa / 1024 = pkgOf e / 1024) else decide (gpaPkg gpa = pkgOf e)

/-- Whether request number `a` of an etlet came before number `b` (R194). -/
def seqBefore (a b : Nat) : Bool := let d := (b + 2 ^ 24 - a) % 2 ^ 24; decide (0 < d ∧ d < 2 ^ 23)

/-- Whether a request or store that etlet `e` sent to the same endpoint of its package before number `seq` has still to be served: packets of
one channel arrive in the order in which they were sent (R15). -/
def State.queuedBehind (s : State) (e seq gpa : Nat) : Bool :=
  let x := s.etletAt e
  onPkg e gpa &&
  (x.reqs.any (fun r => decide (homeEid r.2.gpa = homeEid gpa ∧ r.2.reply = none) && !r.2.op.mf && seqBefore r.2.seq seq) ||
   x.posted.any (fun p => decide (homeEid p.gpa = homeEid gpa ∧ p.done = 0) && seqBefore p.seq seq))

/-- Whether a request to another etlet's scratchpad finds no hand-off slot for its handler: both are busy, or a message that was sent before
it waits for one (R39, R42). (DEDUCED, log 131) -/
def State.handlerBusy (s : State) (e : Nat) (q : Req) : Bool :=
  let t := scratchOwner q.gpa
  let x := s.etletAt t
  decide (regionOf q.gpa = 2 ∧ t ≠ e) &&
  (((kget x.threads 62).isSome && (kget x.threads 63).isSome) || x.inbox.any (fun m => decide (m.sent ≤ q.sent)))

/-- Whether the home may not answer a request of etlet `e` yet: it is under test, a store of the etlet to the word or an earlier request to
the home is still under way, no hand-off slot is free, the slice holds it back, or its pending-write filter is full (R15, R42, R82, R99,
R231). -/
def State.requestHeld (s : State) (e : Nat) (q : Req) : Bool :=
  q.places.any (fun a => s.homeTested a) ||
  q.places.any (fun a => (s.etletAt e).posted.any (fun x =>
    (decide (64 ≤ q.slot) || seqBefore x.seq q.seq) && x.meets a (if q.places.length = 1 then q.op.width else 1))) || s.sliceHolds q ||
  (q.op.writes && !s.filterRoom q.gpa) || (decide (q.slot < 64) && s.queuedBehind e q.seq q.gpa) || s.handlerBusy e q

/-- The request of the thread in focus is gone. -/
def dropReq (s : State) : State := s.modE (fun x => { x with reqs := kdel x.reqs s.slot })

/-- The address that a failed request names: of a load of separate bytes the lowest that failed (R338). -/
def State.failedAt (s : State) (q : Req) : Word :=
  match q.op with
  | .read _ l => q.va + wd ((lowest (fun i => let g := s.survivor (l.getD i 0); s.abortsR g || s.lost g) 0 l.length).getD 0)
  | _ => q.va

/-- A load fills its caches (R79, R81). -/
def loadFills (q : Req) (s : State) : State :=
  match q.op with
  | .load _ _ => if q.ca then s.fill s.eid q.key q.gpa q.stamp else s
  | .read _ l => if q.ca then ((l.map (· / 64)).eraseDups).foldl (fun s x => s.fill s.eid q.key (x * 64) q.stamp) s else s
  | _ => s

/-- A reply reaches the thread in focus: its register, the solver's request of a PLOAD, or a precise trap (R26, R188, R214, R223). A store to
another etlet's scratchpad that fails is done, with a DABORT event (R356). -/
def deliverReply (q : Req) (r : Reply) (s : State) : State :=
  let s := readyWhere (fun w => decide (w = .bench)) (dropReq s)
  let va := s.failedAt q
  match r with
  | .val v => finish (some v) (loadFills q s)
  | .bytes l =>
    match q.op, permBad l.length l with
    | .read d _, none => solveLate d l (popPending (loadFills q s))
    | _, some i => replyTrap { code := cPerm, eval := wd i } (loadFills q s)
    | _, none => finish none s
  | .abort =>
    match q.op with
    | .store _ _ => let lk := s.lkey; raiseEvent lk q.tid s.eid s.th.rank { code := cDabort, eval := va } (finish none s)
    | .bytes _ => let lk := s.lkey; raiseEvent lk q.tid s.eid s.th.rank { code := cDabort, eval := va } (finish none s)
    | _ => replyTrap { code := cDabort, eval := va } s
  | .lost => replyTrap { code := cLost, eval := va } s
  | .hazard => replyTrap { code := cRinghaz, eval := va } s
  | .joined => s.modT (fun t => { t with st := .waiting (.fe (q.gpa / 8)) })

/-- MEMORY_REPLY (R26, R211, R330, R331); a reply from another package returns on VC2. -/
def execMemoryReply (e slot : Nat) (s : State) : Res :=
  at_ e slot s (fun s =>
    match kget s.etl.reqs s.slot, s.th.st with
    | some q, .waiting .mem =>
      if q.tid ≠ s.th.tid then s
      else
        (match q.op, q.reply with
         | .mfalloc _ _ _, none | .mffree _, none | .mfquota, none | .mfstat _, none =>
           (match mfPerform q s.lkey s with
            | none => s
            | some (s, v, b) =>
              let s := dropReq s
              (match b with
               | some (r, st) => (finish (some v) s).wr r (wd st)
               | none => finish (some v) s))
         | _, some r => (match (if q.went then usePort 2 (homeEid q.gpa) (pkgOf e) s else some s) with
            | none => s
            | some s => reachWakes (deliverReply q r s))
         | _, none =>
           if onPkg e q.gpa = false ∨ s.requestHeld e q then s
           else let r := serve e s.th.tid s.th.kid q s; reachWakes (deliverReply q r.2 r.1))
    | _, _ => s)

/-! ### Requests to other packages (R194, R195, R204) -/

/-- The dedup entry of a request at its target die. -/
def State.dedupOf (s : State) (die e seq : Nat) : Option Reply :=
  ((kgetD s.dies die {}).dedup.find? (fun d => decide (d.src = e ∧ d.seq = seq))).map (·.reply)

/-- Whether the target die has room for another entry. -/
def State.dedupRoom (s : State) (die : Nat) : Bool := decide ((kgetD s.dies die {}).dedup.length < Config.dedupEntries die)

/-- Records an executed writing request. -/
def dedupPut (die e seq : Nat) (r : Reply) (s : State) : State :=
  s.modDie die (fun d => { d with dedup := d.dedup ++ [⟨e, seq, r, s.now⟩] })

/-- Whether a target records a request (R204). -/
def MemOp.recorded (o : MemOp) : Bool := o.writes || decide (o = .ldf)

/-- A request of etlet `e` executes at its target, or is answered from the dedup table; one that joins a wait list has its entry too. One
that the target must hold waits there. -/
def arriveReq (e : Nat) (q : Req) (s : State) : State :=
  let die := homeDie q.gpa
  let put := fun (f : Req → Req) (s : State) => s.modE (fun x => { x with reqs := kmod x.reqs q.slot q f })
  let answer := fun (r : Reply) (s : State) => put (fun y => { y with reply := some r, come := false }) s
  match s.dedupOf die e q.seq with
  | some .joined => s
  | some r => answer r s
  | none =>
    if (q.op.recorded ∧ s.dedupRoom die = false) ∨ s.requestHeld e q then put (fun y => { y with come := true }) s
    else
      let r := serve e q.tid ((s.threadAt q.slot).getD {}).kid q s
      let s := if q.op.recorded then dedupPut die e q.seq r.2 r.1 else r.1
      if r.2 = .joined then within e q.slot (deliverReply q .joined) s else answer r.2 s

/-- What the end of a store that was under way lets go on (R102, R103, R130, R383). -/
def storeDone (s : State) : State := reachWakes (soundWakes (readyWhere storeWaits s))

/-- Marks the copies of posted store `seq`. -/
def modPosted (seq : Nat) (f : SEntry → SEntry) (s : State) : State :=
  s.modE (fun x => { x with posted := x.posted.map (fun y => if y.seq = seq then f y else y) })

/-- Whether a home takes no store now (R82, R349). -/
def State.storeHeld (s : State) (x : SEntry) : Bool := s.homeTested x.gpa || !s.filterRoom x.gpa || s.missFull x.key x.gpa s.now

/-- A posted store executes at its target, or waits there. -/
def arriveStore (e : Nat) (p : SEntry) (s : State) : State :=
  let die := homeDie p.gpa
  if (s.dedupOf die e p.seq).isSome then s
  else if s.dedupRoom die = false ∨ s.storeHeld p then modPosted p.seq (fun y => { y with come := true }) s
  else
    let t := storeEffect p (s.modE (fun x => { x with posted := x.posted.filter (fun y => decide (y.seq ≠ p.seq ∨ y.done ≠ 0)) }))
    let failed := t.etl.posted.any (fun y => decide (y.seq = p.seq ∧ 2 ≤ y.done))
    storeDone (dedupPut die e p.seq (if failed then .abort else .val 0)
      (if failed then t else t.modE (fun x => { x with posted := x.posted ++ [{ p with done := 1, come := false }] })))

/-- The request that a FAGG group makes (R305). -/
def FaggGroup.req (g : FaggGroup) (now : Nat) : Req :=
  { seq := g.seq, slot := 64, tid := 0, op := .fagg g.width (wd (g.members.foldl (fun n m => n + m.y.toNat) 0 % 256 ^ g.width)), gpa := g.gpa,
    va := g.va, key := g.key, scope := 3, ca := false, sent := g.sent.getD now }

/-- Changes one FAGG group of the etlet in focus. -/
def modFagg (g : FaggGroup) (f : FaggGroup → FaggGroup) (s : State) : State :=
  s.modE (fun x => { x with fagg := x.fagg.map (fun y => if y = g then f y else y) })

/-- A FAGG group of etlet `e` executes at its target, or is answered from the dedup table, or waits there. -/
def arriveFagg (e : Nat) (g : FaggGroup) (s : State) : State :=
  let die := homeDie g.gpa
  let q := g.req s.now
  let answer := fun (r : Reply) (s : State) => modFagg g (fun y => { y with reply := some r, come := false }) s
  match s.dedupOf die e g.seq with
  | some r => answer r s
  | none =>
    if s.dedupRoom die = false ∨ s.requestHeld e q then modFagg g (fun y => { y with come := true }) s
    else let r := serve e 0 g.kid q s; answer r.2 (dedupPut die e g.seq r.2 r.1)

/-- Cycles of 20, 50, 64 and 100 microseconds at 1.1 GHz. -/
def us20 : Nat := 22000
def us50 : Nat := 55000
def us64 : Nat := 70400
def us100 : Nat := 110000

/-- A copy that etlet `e` sent to package `p` comes: one that its target holds is there already; else a copy not older than 50 microseconds
goes through its flow's port (R195, R204). -/
def State.copyComes (s : State) (e p sent : Nat) (come : Bool) : Option State :=
  if come then some s else if sent + us50 < s.now then none else usePort 0 e p s

/-- REQUEST_ARRIVAL (R204): a copy of request, posted store or FAGG group `seq` of etlet `e`. -/
def execRequestArrival (e seq : Nat) (s : State) : Res :=
  atE e s (fun s =>
    match s.etl.reqs.find? (fun r => decide (r.2.seq = seq) && !r.2.op.mf && !onPkg e r.2.gpa) with
    | some (l, q) =>
      let q := { q with went := true }
      ((s.copyComes e (gpaPkg q.gpa) q.sent q.come).map (fun s => arriveReq e q (s.modE (fun x => { x with reqs := kput x.reqs l q })))).getD s
    | none =>
      match s.etl.posted.find? (fun p => decide (p.seq = seq) && !onPkg e p.gpa) with
      | some p =>
        if (s.etl.posted.takeWhile (fun y => decide (y ≠ p))).any (fun y => y.meets p.gpa p.width) then s
        else
          let q := { p with went := true }
          ((s.copyComes e (gpaPkg p.gpa) p.sent p.come).map (fun s => arriveStore e q (modPosted seq (fun _ => q) s))).getD s
      | none =>
        match s.etl.fagg.find? (fun g => decide (g.seq = seq) && g.sent.isSome) with
        | some g =>
          let q := { g with went := true }
          ((s.copyComes e (gpaPkg g.gpa) (g.sent.getD 0) g.come).map (fun s => arriveFagg e q (modFagg g (fun _ => q) s))).getD s
        | none => s)

/-- REQUEST_RESEND (R204): at 20 and 40 microseconds after the first send, of what has had no reply by then; a reply on its way may be lost. -/
def execRequestResend (e seq : Nat) (s : State) : Res :=
  let due := fun (q sends sent : Nat) => decide (q = seq ∧ sends < 3 ∧ sent + us20 * sends ≤ s.now)
  atE e s (fun s => s.modE (fun x => { x with
    reqs := kmap x.reqs (fun q => if due q.seq q.sends q.sent && !q.op.mf && !onPkg e q.gpa then { q with sends := q.sends + 1 } else q),
    posted := x.posted.map (fun p => if due p.seq p.sends p.sent && !onPkg e p.gpa then { p with sends := p.sends + 1 } else p),
    fagg := x.fagg.map (fun g => if g.sent.any (due g.seq g.sends) then { g with sends := g.sends + 1 } else g) }))

/-- Every member of a FAGG group takes a precise trap, at its own address (R278). -/
def faggTrap (code : Nat) (g : FaggGroup) (s : State) : State := g.members.foldl (fun s m => trapTid m.tid { code := code, eval := m.va } s) s

/-- REQUEST_TIMEOUT (R204): no reply within 100 microseconds is a precise DABORT, or the event of a posted store. -/
def execRequestTimeout (e seq : Nat) (s : State) : Res :=
  atE e s (fun s =>
    match s.etl.reqs.find? (fun r => decide (r.2.seq = seq ∧ r.2.sent + us100 ≤ s.now) && !r.2.op.mf && !onPkg e r.2.gpa) with
    | some (l, q) => reachWakes (within e l (fun s => if s.th.tid = q.tid ∧ s.th.st = .waiting .mem then deliverReply q .abort s else s) s)
    | none =>
      match s.etl.posted.find? (fun p => decide (p.seq = seq ∧ p.sent + us100 ≤ s.now) && !onPkg e p.gpa) with
      | some p =>
        storeDone (raiseEvent p.launch p.tid e p.rank { code := cDabort, eval := p.va }
          (s.modE (fun x => { x with posted := x.posted.erase p })))
      | none =>
        match s.etl.fagg.find? (fun g => decide (g.seq = seq) && g.sent.any (fun c => decide (c + us100 ≤ s.now))) with
        | some g => faggTrap cDabort g (s.modE (fun x => { x with fagg := x.fagg.erase g }))
        | none => s)

/-- DEDUP_EXPIRY (R204): entries of 64 microseconds or more go. -/
def execDedupExpiry (die : Nat) (s : State) : Res :=
  .next (s.modDie die (fun d => { d with dedup := d.dedup.filter (fun x => decide (s.now < x.at_ + us64)) }))

/-! ### Stores (R82, R99, R194) -/

/-- The head entry is a full/empty store: it acts at its home on the die, or leaves as its thread's request (R87, R99, R194).
One whose thread has ended is dropped. -/
def sfEffect (op : MemOp) (x : SEntry) (s : State) : State :=
  let e := s.eid
  match s.whereTid x.tid with
  | none => popHead s
  | some _ =>
    if s.onDie x.gpa then
      match serve e x.tid 0 { seq := 0, slot := x.slot, tid := x.tid, op := op, gpa := x.gpa, va := x.va, key := x.key, scope := x.scope, ca := x.ca, sent := s.now } s with
      | (s, .val _) => wake x.tid none (popHead s)
      | (s, .bytes _) => wake x.tid none (popHead s)
      | (s, .joined) => modTid x.tid (fun t => { t with st := .waiting (.fe (x.gpa / 8)) }) (popHead s)
      | (s, .abort) => trapTid x.tid { code := cDabort, eval := x.va } (popHead s)
      | (s, .lost) => trapTid x.tid { code := cLost, eval := x.va } (popHead s)
      | (s, .hazard) => trapTid x.tid { code := cRinghaz, eval := x.va } (popHead s)
    else (popHead s).modE (fun y => { y with
      reqs := kput y.reqs x.slot {
        seq := y.reqSeq, slot := x.slot, tid := x.tid, op := op, gpa := x.gpa, va := x.va, key := x.key, scope := x.scope, ca := x.ca, sent := s.now,
        stamp := s.myDie.stamp, reply := if s.cutOff e x.gpa then some .abort else none },
      reqSeq := (y.reqSeq + 1) % 2 ^ 24 })

/-- STORE_TAKES_EFFECT (R99): the head entry takes effect at its home on the die, once the slice takes it (R82), or is sent. One after a
FENCE.SS, or to host memory or a device register, waits for the earlier stores of its thread (R103, R107), and any for the image that its
thread's BENCHO writes (R98). -/
def execStoreTakesEffect (e : Nat) (s : State) : Res :=
  atE e s (fun s =>
    match s.etl.sbuf with
    | [] => soundWakes s
    | x :: _ =>
      if x.behind s.etl.posted ∨ x.afterImage s.etl.benchW ∨ (s.onDie x.gpa ∧ s.storeHeld x) then s
      else match x.sf with
      | some op => storeDone (sfEffect op x s)
      | none =>
        if s.onDie x.gpa then storeDone (storeEffect x (popHead s)) else storeDone (sendStore x (popHead s)))

/-- The reply of posted store `p` reaches its etlet. -/
def storeReplied (p : SEntry) (s : State) : State :=
  let s := storeDone (s.modE (fun x => { x with posted := x.posted.erase p }))
  if p.done = 2 then raiseEvent p.launch p.tid s.eid p.rank { code := cDabort, eval := p.va } s
  else if p.done = 3 then raiseEvent p.launch p.tid s.eid p.rank { code := cLost, eval := p.va } s
  else s

/-- STORE_REPLY (R194): the oldest reply, from another package on VC2 (R195); a store on the package takes effect first, in the order in which
the etlet sent to its home (R15). (DEDUCED, log 49) -/
def execStoreReply (e : Nat) (s : State) : Res :=
  atE e s (fun s =>
    match s.etl.posted.find? (fun p => decide (p.done ≠ 0)) with
    | some p =>
      if onPkg e p.gpa || !p.went then storeReplied p s else ((usePort 2 (homeEid p.gpa) (pkgOf e) s).map (storeReplied p)).getD s
    | none =>
      match s.etl.posted.find? (fun p => onPkg e p.gpa) with
      | some p =>
        if s.storeHeld p || s.queuedBehind e p.seq p.gpa then s
        else storeDone (storeEffect p (s.modE (fun x => { x with posted := x.posted.erase p })))
      | none => s)

/-- MEMORY_WRITE_COMPLETE (R82). -/
def execMemoryWriteComplete (cl line : Nat) (s : State) : Res :=
  .next (s.modCl cl (fun c => { c with writes := c.writes.filter (fun l => decide (l ≠ line)) }))

/-! ### Arithmetic (R25) -/

/-- What the bundle in focus left to do once its arithmetic has written back (R51, R54, R221, R226, R301). -/
def lateAct (l : Late) (s : State) : State :=
  match l with
  | .trap c => takeTrap c s
  | .go e => goLeave e s
  | .bench va => benchLate va s
  | .exit => s.modT (fun t => { t with st := .waiting .exitDrain })

/-- LONG_LATENCY_WRITEBACK (R25, R139): the result and its flags; then what the pair has left to do. -/
def execLongLatencyWriteback (e slot : Nat) (s : State) : Res :=
  at_ e slot s (fun s =>
    if s.th.st = .waiting .alu ∧ s.th.resAt ≤ s.now then
      let l := s.th.after
      let s := ({ s with ph := 0 }.wr s.th.waitD s.th.res).raise s.th.flags
      let s := readyWhere (fun w => decide (w = .bench)) (s.modT (fun t => { t with st := .ready, wokenAt := some s.now, after := none }))
      match l with
      | some l => aside (lateAct l) s
      | none => s
    else s)

/-! ### EXIT and completion (R35, R110, R301) -/

/-- The thread in focus leaves for good; the verdicts it has not had go on without it (R124). -/
def leave (s : State) : State :=
  let t := s.th
  freeSlot (leaveAll s.eid t.tid (bits t.teamix 5 0) s.lkey (leaveVerdicts t s.eid s))

/-- The etlets and slots of the threads that EXIT of the thread in focus ends: its gang's and its battery partner's (R35, R301). -/
def State.exits (s : State) : List (Nat × Nat) :=
  (if s.th.gangN = 0 then [(s.eid, s.slot)] else (List.range s.th.gangN).map (fun i => (s.th.gangLead + 8 * i, s.slot))) ++
    (s.partnerSlot.map (fun l => (s.eid, l))).toList

/-- EXIT_COMPLETE (R35, R301): held stores drain once the verdicts are in; when the drains of every thread that ends have ended, all of them
go; a handler frees its hand-off slot. -/
def execExitComplete (e slot : Nat) (s : State) : Res :=
  at_ e slot s (fun s =>
    if s.th.st ≠ .waiting .exitDrain then s
    else
      let l := s.exits
      let s := l.foldl (fun s x => within x.1 x.2 (fun s => if s.pending then s else drainMine s) s) s
      if l.all (fun x => (s.focus x.1 x.2).exitReady) then
        if s.th.handler ≠ 0 then freeSlot s
        else l.foldl (fun s x => within x.1 x.2 (fun s => if s.thr.isSome then leave s else s) s) s
      else s)

/-- Whether every store and engine operation of launch `lk` has taken effect (R35, R110). -/
def State.drained (s : State) (lk : Nat) : Bool :=
  s.save.etlets.all (fun p =>
    (p.2.buf ++ p.2.posted).all (fun x => decide (x.launch ≠ lk ∨ x.done = 1)) && p.2.benchW.all (fun b => decide (b.lk ≠ lk)) &&
    p.2.cmds.all (fun c => decide (c.lk ≠ lk)) && p.2.mmas.all (fun m => decide (m.lk ≠ lk)) && p.2.solver.all (fun q => decide (q.lk ≠ lk)) &&
    p.2.fagg.all (fun g => decide (g.lk ≠ lk)) && p.2.kernels.all (fun k => decide (k.2.launch ≠ lk))) &&
  s.dies.all (fun p => (p.2.ueSend ++ p.2.ueRecv).all (fun w => decide (w.cmd.lk ≠ lk)))

/-- LAUNCH_COMPLETION_WRITE (R35, R110): DONEVAL to DONEADDR, once, from the launching package; an abort is a DABORT entry of
level 6. The launch gives back its sweepers, queues, regions and sync objects. -/
def execLaunchCompletionWrite (pkg l : Nat) (s : State) : Res :=
  .next (
    let lk := 64 * pkg + l
    match kget s.launches lk with
    | none => s
    | some x =>
      if x.ended = false ∨ x.done ∨ s.drained lk = false then s
      else
        let s := { s with launches := kput s.launches lk { x with done := true } }
        closeLaunch lk (
          if x.doneAddr = 0 then s
          else if s.aborts x.doneAddr then
            record lk { eval := wd x.doneAddr, rank := BitVec.allOnes 64, code := cDabort, level := 6, only := true } s
          else s.homeWrite x.key x.doneAddr 8 x.doneVal.toNat))

/-- BENCH_IMAGE_WRITE (R225): the next part of the oldest image is written; a thread that benches itself after its vector
instruction does so. (DESIGN CHOICE, log 100) -/
def execBenchImageWrite (e : Nat) (s : State) : Res := atE e s (fun s => reachWakes (trimBench 2 (writeNext (lateBenches s))))

/-! ### FAGG (R305) -/

/-- Member `k` receives the old word plus the addends before it, modulo 2^n. -/
def faggShares (n : Nat) : Nat → List FaggMember → List (Nat × Word)
  | _, [] => []
  | x, m :: l => (m.tid, wd (x % 256 ^ n)) :: faggShares n (x + m.y.toNat) l

/-- What a FAGG group's members get (R305). -/
def faggDeliver (g : FaggGroup) (r : Reply) (s : State) : State :=
  match r with
  | .val x => (faggShares g.width x.toNat g.members).foldl (fun s m => wake m.1 (some (extend g.width true m.2.toNat)) s) s
  | .lost => faggTrap cLost g s
  | .hazard => faggTrap cRinghaz g s
  | _ => faggTrap cDabort g s

/-- Whether a group is closed: after 8 cycles, or with 16 members (R305). -/
def FaggGroup.closed (g : FaggGroup) (now : Nat) : Bool := decide (g.opened + 8 ≤ now ∨ 16 ≤ g.members.length)

/-- FAGG_GROUP_CLOSE (R305): a group that has its answer delivers it; else the oldest closed group acts at its home as one add,
or is sent to another package as one request (R194, R204); one that no READY function carries is answered with an abort (R240).
(DEDUCED, log 48) -/
def execFaggGroupClose (e : Nat) (s : State) : Res :=
  atE e s (fun s =>
    match s.etl.fagg.find? (fun g => g.reply.isSome) with
    | some g => ((usePort 2 (homeEid g.gpa) (pkgOf e) s).map (fun s => reachWakes (faggDeliver g (g.reply.getD .abort) (s.modE (fun x => { x with fagg := x.fagg.erase g }))))).getD s
    | none =>
      match s.etl.fagg.find? (fun g => g.closed s.now && g.sent.isNone) with
      | none => s
      | some g =>
        if onPkg e g.gpa then
          if s.requestHeld e (g.req s.now) then s
          else let r := serve e 0 g.kid (g.req s.now) (s.modE (fun x => { x with fagg := x.fagg.erase g })); reachWakes (faggDeliver g r.2 r.1)
        else if s.cutOff e g.gpa then reachWakes (faggDeliver g .abort (s.modE (fun x => { x with fagg := x.fagg.erase g })))
        else s.modE (fun x => { x with
          fagg := x.fagg.map (fun y => if y = g then { y with seq := x.reqSeq, sent := some s.now } else y), reqSeq := (x.reqSeq + 1) % 2 ^ 24 }))

/-! ### The fabric (R195, R199 to R203) -/

/-- FLIT_RECEIVE (R199, R201): a good flit in sequence is accepted; else it is dropped, and the receiver asks for the first that it lacks;
three authentication failures in a row take the port out. -/
def execFlitReceive (pkg port seq : Nat) (good authOk : Bool) (s : State) : Res :=
  .next (changePort pkg port (fun p =>
    if p.state ≠ 1 then p
    else if !authOk then { p with auth := p.auth + 1, state := if 3 ≤ p.auth + 1 then 3 else p.state, lacks := some p.rxNext }
    else
      let p := { p with auth := 0 }
      if good ∧ seq = p.rxNext then { p with rxNext := (p.rxNext + 1) % 2 ^ 32, lacks := none }
      else if good then p else { p with lacks := some p.rxNext }) s)

/-- REPLAY_REQUEST (R201): the sender resends from flit `seq` on, in order. -/
def execReplayRequest (pkg port seq : Nat) (s : State) : Res :=
  .next (s.modPort pkg port (fun p => { p with resend := p.unacked.filter (fun x => decide ((x + 2 ^ 32 - seq % 2 ^ 32) % 2 ^ 32 < 2 ^ 31)) }))

/-- CRITICAL_PACKET_RECEIVE (R202): one copy of critical packet `seq` of source `src` reaches a package, with what package `src` has sent
under that number. -/
def execCriticalPacketReceive (pkg src seq : Nat) (s : State) : Res :=
  let n := seq % 2 ^ 32
  .next (s.modPkg pkg (Pkg.hear src n (((s.pkg src).critSent.find? (fun c => decide (c.no = n))).map (·.what))))

/-- A mismatch (Table 10.3): the third since the last UP takes the port out; else it trains at the lower speed, one step
down if that one has just failed, over the common lanes. (DEDUCED, log 120) -/
def Port.mismatch (p : Port) (speed lanes : Nat) : Port :=
  let n := p.fails + 1
  let lower := min p.speed speed
  let both := p.lanes &&& lanes
  if 3 ≤ n ∨ both = 0 ∧ 3 ≤ n + 1 then { p with state := 3, fails := n }
  else { p with state := 2, fails := if both = 0 then n + 1 else n, lanes := if both = 0 then p.lanes else both,
                speed := if lower = p.speed then max 1 (lower - 1) else lower }

/-- A port's link-state record: sequence number, lane speed, lane map and CRC-32 (R203). -/
def Port.record (p : Port) : Nat × Nat × Nat × Nat := (p.recSeq, p.speed, p.lanes, Config.recordCrc p.recSeq p.speed p.lanes)

/-- PORT_TRAINING_END (R203): the ends exchange their records, the other end's naming `speed` and `lanes`; one with a bad CRC or tag is a
disagreement. A port in MISMATCH goes on to TRAINING, one under test stays there (R349). Bring-up chooses each channel's protection (R199).
(DEDUCED, log 121) -/
def execPortTrainingEnd (pkg port speed lanes : Nat) (recOk : Bool) (s : State) : Res :=
  .next (changePort pkg port (fun p =>
    if s.tested pkg (0x10 + port) then p
    else if p.state = 2 then { p with state := 0 }
    else if p.state = 0 then
      let p := { p with recSeq := (p.recSeq + 1) % 2 ^ 32 }
      if recOk = true ∧ (speed, lanes) = (p.speed, p.lanes) ∧ p.lanes ≠ 0 then
        { p with state := 1, fails := 0, auth := 0, lacks := none, plain := if Config.sameEnclosure pkg port then Config.plainChannels pkg port % 256 else 0 }
      else if recOk then p.mismatch speed lanes else p.mismatch p.speed p.lanes
    else p) s)

/-- TRAINING_TIMEOUT (R203): training that does not end within 1 ms counts as a mismatch. -/
def execTrainingTimeout (pkg port : Nat) (s : State) : Res :=
  .next (changePort pkg port (fun p => if p.state = 0 ∧ s.tested pkg (0x10 + port) = false then p.mismatch p.speed p.lanes else p) s)

/-- PORT_COMMAND (R203): the only way out of OUT. -/
def execPortCommand (pkg port : Nat) (s : State) : Res := .next (changePort pkg port (fun p => { p with state := 0, fails := 0 }) s)

/-- FLOW_MOVE (R195): the flows of a port that has left service are pinned to another live port, and stall. -/
def execFlowMove (pkg port : Nat) (s : State) : Res :=
  .next (s.modPkg pkg (fun k =>
    if (kgetD k.ports port {}).state ≠ 3 then k
    else { k with flows := k.flows.map (fun f => if f.2.port = port then (f.1, { f.2 with port := (k.pin f.1).getD port, stalled := true }) else f) }))

/-- Whether a packet that a flow sent is still to be answered (R195): of VC0 the requests, stores and FAGG groups, of VC5 the PUTs. -/
def State.unanswered (s : State) (flow : Nat) : Bool :=
  let e := flow / 2 ^ 17 % 2 ^ 32
  let p := flow % 2 ^ 17
  let x := s.etletAt e
  match flow / 2 ^ 49 with
  | 0 => x.reqs.any (fun q => decide (gpaPkg q.2.gpa = p ∧ q.2.reply = none) && q.2.went) ||
      x.posted.any (fun q => decide (gpaPkg q.gpa = p ∧ q.done = 0) && q.went) ||
      x.fagg.any (fun g => decide (gpaPkg g.gpa = p ∧ g.reply = none) && g.went)
  | 5 => x.copyq.any (fun c => decide (c.kind = .put ∧ (c.far (s.focus e 64)).1 = p) && c.running && (c.arrived || !c.moved.isEmpty))
  | _ => false

/-- FLOW_STALL_END (R195): every packet of the flow is answered, or 50 microseconds have passed since the last was sent. -/
def execFlowStallEnd (pkg flow : Nat) (s : State) : Res :=
  .next (s.modPkg pkg (fun k => match kget k.flows flow with
    | some f => if s.unanswered flow ∧ s.now < f.last + us50 then k else { k with flows := kput k.flows flow { f with stalled := false } }
    | none => k))

end Sys2Proof.Machine
end

