-- ==== Sys2Proof/Machine/Hold.lean ====
section
/-! DEFINITION. What holds a bundle back (R24, R26, R104, R139, R173, R175), and YIELD, which waits for the threads that could issue
(R386). -/

namespace Sys2Proof.Machine

/-! ### The bundle at pc (R54 step 1) -/

/-- Where the bundle at pc stands, or the cause with which its fetch fails; a miss also where its home is under test (R349).
(DEDUCED, log 24) -/
def State.fetch (s : State) : Xl :=
  match s.xlate s.user .fetch s.th.pc with
  | .ok g ca => if s.abortsR g then .bad cDabort else if s.homeTested g then .miss else .ok g ca
  | x => x

/-- What a fetch that misses waits for: a walk, or the end of the test of its home (R73, R349). -/
def State.fetchWait (s : State) : Wait :=
  match s.xlate s.user .fetch s.th.pc with
  | .ok _ _ => .reach
  | _ => .walk s.th.pc.toNat

/-- The eight bytes there, read under the kernel's key ID. -/
def State.bundleWord (s : State) (gpa : Nat) : Nat := s.rdMem s.kern.key gpa 8

/-- The bundle the thread in focus would issue now, if it can be fetched and decoded; one under VOTE that has issued is not fetched again. -/
def State.peek (s : State) : Option Bundle :=
  if s.th.votes ≠ [] then decodeBundle s.th.voteW
  else match s.fetch with
  | .ok g _ => decodeBundle (s.bundleWord g)
  | _ => none

/-- The instructions of a bundle. -/
def instrsOf (b : Bundle) : List Instr :=
  match b.slots with
  | .lone i => [i]
  | .pair c a => [c, a]

/-! ### What holds a bundle back (R24, R26) -/

/-- The primary opcode of an instruction (R50). -/
def primary (i : Instr) : Nat := encodeBody i / 2 ^ 24 % 64

/-- Whether an instruction is a scalar load, store, atomic or fence of Table 5.1 (R104), an engine command, a sync, network, queue or
permutation instruction, which later stores must not pass and which wait for earlier ones (R106, R108, R112), or writes a loop port.
(DEDUCED, log 23) -/
def scalarAccess (i : Instr) : Bool :=
  let p := primary i
  decide (6 ≤ p ∧ p ≤ 0x12) || [0x14, 0x15, 0x17, 0x18, 0x19, 0x1A, 0x1B, 0x1E, 0x20, 0x24, 0x3E].contains p ||
  i.fields.any (fun f => f.lpWrite.isSome)

/-- Whether an instruction receives a dispatch-log entry at its issue (R175). -/
def dispatches (i : Instr) : Bool :=
  primary i = 0x12 || primary i = 0x14 || (match i with | .put _ => true | .get _ => true | .wrq _ _ => true | _ => false)

/-- Whether an instruction reads FCSR as a CSR (R139). -/
def readsFcsr : Instr → Bool
  | .csrr _ c => decide (c = 6)
  | .csrx _ _ c => decide (c = 6)
  | _ => false

/-- Whether an instruction keeps its bundle from being eligible: the scoreboard, the order of VLD and VST, a full dispatch
queue, a dispatch log of unread faults, an FCSR read (R104, R139, R173, R175). (DEDUCED, log 15) -/
def State.holdsBack (s : State) (i : Instr) : Bool :=
  marked s.etl.vq s.th.tid i || (scalarAccess i && s.vmemPending) || (readsFcsr i && s.fcsrHeld) ||
  (s.th.events.isEmpty && ((i.vector && !s.capturing && s.vheld) || (dispatches i && s.dlogFull)))

/-- Whether the dispatch queue has too little room for the vector instructions of a bundle (R173). -/
def State.noVroom (s : State) (is : List Instr) : Bool :=
  let n := (is.filter (·.vector)).length
  s.th.events.isEmpty && decide (0 < n) && !s.capturing && decide (32 < s.etl.vq.length + n)

/-- Whether the bundle of the thread in focus is held back. -/
def State.held (s : State) : Bool :=
  match s.th.deferred with
  | some (a, _) => s.holdsBack a
  | none => decide (s.th.skip = 0) && (match s.peek with | some b => (instrsOf b).any s.holdsBack || s.noVroom (instrsOf b) | none => false)

/-- Whether a YIELD of the thread still counts (R386). -/
def Thread.yields (t : Thread) (now : Nat) : Bool :=
  match t.yieldAt with
  | some (c, l) => !l.isEmpty && decide (now < c + 64)
  | none => false

/-- Whether the thread in focus could issue by itself in this cycle. (DEDUCED, log 22) -/
def State.canIssue (s : State) : Bool :=
  s.thr.isSome && s.th.eligible s.now && !s.th.yields s.now && !s.th.trail && !s.held

/-- The identities of the other threads of the kernel in focus that could issue now. -/
def State.rivals (s : State) : List Nat :=
  s.slotList.filterMap (fun l =>
    match s.threadAt l with
    | some t => if l ≠ s.slot ∧ t.kid = s.th.kid ∧ (s.focus s.eid l).canIssue = true then some t.tid else none
    | none => none)

/-- YIELD (R386): not eligible until the kernel's other eligible threads have issued or 64 cycles have passed. (DEDUCED, log 20) -/
def execYield (s : State) : Res :=
  issue .yield s (fun s =>
    if s.handoff then advance s
    else
      let l := s.rivals
      (advance s).modT (fun t => { t with yieldAt := some (s.now, l) }))

end Sys2Proof.Machine
end

