-- ==== Sys2Proof/Machine/Matrix.lean ====
section
/-! DEFINITION. Rings, the matrix engine and the accumulators (R151 to R154, R163 to R172, R270, R273, R332, R344). -/

namespace Sys2Proof.Machine

/-! ### Rings (R163 to R167, R344) -/

/-- Whether a descriptor and base are well formed (Table 8.6, R164). -/
def descOk (base desc : Word) : Bool :=
  let lines := bits desc 47 38
  let k := bits desc 37 28
  let fmt := bits desc 27 24
  let sp := bits desc 23 22
  let tiles := bits desc 4 0
  decide (bits desc 63 48 = 0 ∧ bits desc 21 5 = 0 ∧ base.toNat % 256 = 0) && [16, 32, 64, 128].contains lines &&
  decide (k % 32 = 0 ∧ 32 ≤ k ∧ k ≤ 512 ∧ (sp = 0 ∨ k % 64 = 0) ∧ fmt ≤ 8 ∧ sp ≤ 2 ∧ (sp = 0 ∨ fmt < 6) ∧ 2 ≤ tiles ∧ tiles ≤ 16)

/-- The ring that a descriptor gives, empty. -/
def ringOf (lk : Nat) (base desc : Word) : Ring :=
  { kid := lk, base := base.toNat, lines := bits desc 47 38, k := bits desc 37 28, fmt := bits desc 27 24, sp := bits desc 23 22,
    tiles := bits desc 4 0 }

/-- Whether a CPYR is pending on ring `b` of the etlet in focus, a multicast one of another etlet of its cluster team among them (R160). -/
def State.cpyrPending (s : State) (b : Nat) : Bool :=
  s.etl.cmds.any (fun c => decide (c.kind = .cpyr ∧ c.ring = b)) ||
  s.etlets.any (fun p => p.2.cmds.any (fun c => decide (c.kind = .cpyr ∧ c.ring = b) && c.mc && (c.members (c.view s)).contains s.eid)) ||
  (match kget s.etl.rings b with | some r => r.q.any (fun t => !t.complete) | none => false)

/-- Bytes of a ring's slots. -/
def Ring.bytes (r : Ring) : Nat := r.tiles * r.slotBytes

/-- RDEF's status (R164). -/
def rdefStatus (s : State) (b : Nat) (base desc : Word) : Nat :=
  let r := ringOf s.lkey base desc
  if !descOk base desc then 1
  else if (match kget s.etl.rings b with
      | some o => decide (o.kid ≠ s.lkey) || !o.q.isEmpty || s.cpyrPending b
      | none => false) then 2
  else if 0x30000 < r.base + r.bytes ∨
      s.etl.rings.any (fun p => decide (p.1 ≠ b) && overlap r.base r.bytes p.2.base p.2.bytes) then 3
  else 0

/-- RDEF (R164, R344). -/
def execRdef (d a b : Nat) (s : State) : Res :=
  issue (.rdef d a b) s (fun s => noHandler s (fun s =>
    let st := rdefStatus s b (s.rd a) (s.rd (a + 1))
    let r := ringOf s.lkey (s.rd a) (s.rd (a + 1))
    result d (wd st) (if st = 0 then s.modE (fun e => { e with rings := kput e.rings b r }) else s)))

/-- Runs `body` on ring `b` if the issuing kernel defined it, else check 4 fails (R344). (DEDUCED, log 57) -/
def myRing (b : Nat) (s : State) (body : Ring → State → State) : State :=
  noHandler s (fun s => match kget s.etl.rings b with
    | some r => if r.kid = s.lkey then body r s else takeTrap (illegalReg (768 + b)) s
    | none => takeTrap (illegalReg (768 + b)) s)

/-- RQRY's result (Table 8.7). -/
def Ring.query (r : Ring) : Nat :=
  2 ^ 24 + (r.q.filter (·.claimed)).length * 2 ^ 20 + r.tail * 2 ^ 16 + r.head * 2 ^ 8 +
    (if (r.q.head?.map (·.faulted)).getD false then 32 else 0) + r.q.length

/-- RQRY (R344). -/
def execRqry (d b : Nat) (s : State) : Res :=
  issue (.rqry d b) s (fun s => myRing b s (fun r s => result d (s.seen (wd r.query)) s))

/-- A ring whose head tile is popped (R166). -/
def Ring.pop (r : Ring) : Ring := { r with q := r.q.tail, head := (r.head + 1) % r.tiles }

/-- RDROP (R344): pops the head tile when it is complete and unclaimed. -/
def execRdrop (d b : Nat) (s : State) : Res :=
  issue (.rdrop d b) s (fun s => myRing b s (fun r s =>
    match r.q.head? with
    | some t => if t.complete && !t.claimed then result d 0 (modRing b Ring.pop s) else result d 1 s
    | none => result d 1 s))

/-- Whether an MMA waits on ring `b` (R332, R344). -/
def State.mmaWaits (s : State) (b : Nat) : Bool := s.etl.mmas.any (fun m => m.aux.isNone && decide (m.ra = b ∨ m.rb = b))

/-- RRESET (R344): waits until the ring is unused, then undefines it. -/
def execRreset (b : Nat) (s : State) : Res :=
  issue (.rreset b) s (fun s => myRing b s (fun r s =>
    if r.q.any (·.claimed) || s.mmaWaits b || s.cpyrPending b then waitFor (.ring b) 112 s
    else advance (s.modE (fun e => { e with rings := kdel e.rings b }))))

/-! ### MMA at issue (R168, R169, R332) -/

/-- The accumulator type of a format code (Table 8.10): 0 AF48, 1 INT48, 2 FP64. -/
def mmaType (fm : Nat) : Nat := match fm with | 6 => 1 | 8 => 2 | _ => 0

/-- Whether an A ring and a B ring format suit a format code (Table 8.10). -/
def mmaFmt (fm : Nat) : List Nat × List Nat :=
  match fm with
  | 0 => ([0], [0])
  | 1 => ([1], [1])
  | 2 => ([2, 8], [2, 8])
  | 3 => ([3], [3])
  | 4 => ([2, 8], [3])
  | 5 => ([4], [4])
  | 6 => ([5], [5])
  | 7 => ([6], [6])
  | _ => ([7], [7])

/-- The ring `b` of the issuing kernel, if it is defined. -/
def State.kring (s : State) (b : Nat) : Option Ring :=
  match kget s.etl.rings b with
  | some r => if r.kid = s.lkey then some r else none
  | none => none

/-- R169's ring checks: the first failing ring. -/
def mmaRings (s : State) (ra rb fm sp : Nat) : Option Cause :=
  let aok := match s.kring ra with
    | some r => (mmaFmt fm).1.contains r.fmt && [32, 64, 128].contains r.lines && decide (r.sp = sp)
    | none => false
  let bok := match s.kring rb with
    | some r => (mmaFmt fm).2.contains r.fmt && [16, 32, 64].contains r.lines && decide (r.sp = 0)
    | none => false
  let same := match s.kring ra, s.kring rb with
    | some r, some q => decide (r.k = q.k)
    | _, _ => false
  if ra = rb ∨ !aok then some (illegalReg (768 + ra))
  else if !bok then some (illegalReg (768 + rb))
  else if !same then some (illegalReg (768 + ra))
  else none

/-- The type an accumulator will hold once every MMA, ACLR and ALD issued before the instruction in focus has completed; an instruction
that waits keeps its place among them (R172). -/
def State.accType (s : State) (ac : Nat) : Nat :=
  (s.etl.mmas.takeWhile (fun m => !(decide (m.tid = s.th.tid) && m.aux.isSome))).foldl (fun t m => if m.ac = ac then (match m.aux with | none => mmaType m.fm | some y => if y < 3 then y else t) else t) (if ac = 0 then s.etl.acc0.ty else s.etl.acc1.ty)

/-- MMA (R168 to R170, R332): queued; the thread waits until it completes. -/
def execMma (r s_ c f p z q m : Nat) (s : State) : Res :=
  if s.dlogFull then .next { s with trap := none }
  else issue (.mma r s_ c f p z q m) s (fun s => noHandler s (fun s =>
    checked [mmaRings s r s_ f p,
      (if z = 0 ∧ s.accType c ≠ mmaType f then some (illegalReg (1024 + c)) else none),
      (if q = 1 ∧ ((s.kring r).map (·.lines)) ≠ some (s.perm m).length then some (permFault m) else none)] s (fun s =>
    afterVerdicts s (fun s => release s (fun s =>
      let (n, s) := logDispatch s.slot s.th.tid s.pcNow s.body s
      let cmd : MmaCmd := { tid := s.th.tid, lk := s.lkey, ra := r, rb := s_, ac := c, fm := f, sp := p, z := decide (z = 1),
                            perm := if q = 1 then some (s.perm m) else none, seq := n }
      waitFor .mma 112 (s.modE (fun e => { e with mmas := e.mmas ++ [cmd] })))))))

/-! ### MMA_START -/

/-- The index of a ring's head tile that an MMA may claim: the first not claimed, complete and not faulted (R166). -/
def Ring.claimable (r : Ring) : Option Nat :=
  match r.q.findIdx? (fun t => !t.claimed) with
  | some i => if (r.q[i]?.map (fun t => t.complete && !t.faulted)).getD false then some i else none
  | none => none

/-- Claims it. -/
def Ring.claim (r : Ring) : Ring :=
  match r.claimable with
  | some i => { r with q := r.q.modify i (fun t => { t with claimed := true }) }
  | none => r

/-- MMA_START (R170): the oldest waiting MMA claims its tiles; a second may be under way behind one whose array cycles
have ended; one issued after an ACLR, ASTO or ALD that waits starts after it (R172). -/
def execMmaStart (e : Nat) (s : State) : Res :=
  atE e s (fun s =>
    if 2 ≤ (s.etl.mmas.filter (·.started.isSome)).length then s
    else match s.etl.mmas.find? (fun m => m.started.isNone) with
      | none => s
      | some m =>
        if m.aux.isSome then s else
        let ok := fun b => ((kget s.etl.rings b).bind Ring.claimable).isSome
        if ok m.ra && ok m.rb then
          (modRing m.rb Ring.claim (modRing m.ra Ring.claim s)).modE (fun e =>
            { e with mmas := mapFirst (fun x => decide (x = m)) (fun x => { x with started := some s.now }) e.mmas })
        else s)

/-! ### Tiles as values (R145, R150, R153, R165) -/

/-- A signed byte. -/
def int8 (b : Nat) : Val := if 128 ≤ b then .fin true (256 - b) 0 else .fin false b 0

/-- Bits of one element of a ring format. -/
def elBits (fmt : Nat) : Nat := match fmt with | 7 => 64 | 6 => 32 | 0 => 16 | 1 => 16 | 4 => 4 | _ => 8

/-- The element at index `i` of a run of elements at address `a`, unscaled. -/
def elemCode (s : State) (fmt a i : Nat) : Nat :=
  if fmt = 4 then s.scr (a + i / 2) 1 / (if i % 2 = 0 then 1 else 16) % 16 else s.scr (a + i * (elBits fmt / 8)) (elBits fmt / 8)

/-- An element's value under a scale code (127 where the format has none). -/
def elemVal (fmt scale code : Nat) : Val :=
  match fmt with
  | 0 => Val.of bf16 code
  | 1 => Val.of fp16 code
  | 2 => mxVal e4m3 scale code
  | 3 => mxVal e5m2 scale code
  | 4 => mxVal e2m1 scale code
  | 5 => int8 code
  | 6 => Val.of fp32 code
  | _ => Val.of fp64 code

/-- The scale code of dense group `g` of line `l`: a byte of the array after the elements. -/
def scaleCode (s : State) (r : Ring) (a l g : Nat) : Nat :=
  if r.fmt = 2 ∨ r.fmt = 3 ∨ r.fmt = 4 then
    s.scr (a + (tileBytes r.lines r.k r.fmt r.sp - r.lines * r.k / 32) + l * (r.k / 32) + g) 1
  else 127

/-- A dense line (R165). -/
def denseLine (s : State) (r : Ring) (a l : Nat) : List Val :=
  (List.range r.k).map (fun i => elemVal r.fmt (scaleCode s r a l (i / 32)) (elemCode s r.fmt (a + l * r.k * elBits r.fmt / 8) i))

/-- Index `j` of a group's index field at `a` (R153). -/
def sparseIx (s : State) (a j : Nat) : Nat := s.scr (a + 6 * j / 8) 2 / 2 ^ (6 * j % 8) % 64

/-- Whether a list rises strictly. -/
def rising : List Nat → Bool
  | a :: b :: l => decide (a < b) && rising (b :: l)
  | _ => true

/-- A kept value of a group whose indices do not rise: NaN, and for INT8, which has none, a free value (R153 states no
result there). -/
def badKept (fmt n : Nat) : Val := if fmt = 5 then int8 ((Config.freeWord n).toNat % 256) else .nan false

/-- Group `g` of 64 dense positions of a sparse line, and whether its indices fail to rise (R153). A position that keeps no value is +0, but
NaN under a NaN scale (R152). -/
def sparseGroup (s : State) (r : Ring) (a l g : Nat) : List Val × Bool :=
  let keep := if r.sp = 1 then 32 else 16
  let vb := keep * elBits r.fmt / 8
  let gb := vb + keep * 6 / 8
  let ga := a + (l * (r.k / 64) + g) * gb
  let ix := (List.range keep).map (sparseIx s (ga + vb))
  let bad := !rising ix
  let at_ := fun (p : Nat) => (ix.findIdx? (fun x => decide (x = p))).map (fun j =>
    if bad then badKept r.fmt (s.free + (l * r.k + g * 64 + p)) else elemVal r.fmt (scaleCode s r a l (g * 2 + p / 32)) (elemCode s r.fmt ga j))
  ((List.range 64).map (fun p => (at_ p).getD (if scaleCode s r a l (g * 2 + p / 32) = 0xFF then .nan false else .fin false 0 0)), bad)

/-- A CF8 tile: its blocks in order from offset `o` of `n` bytes at `a`, and whether one was malformed (R150). -/
def cf8Blocks (s : State) (a n : Nat) : Nat → Nat → Bool → List (List Val) × Bool
  | 0, _, _ => ([], false)
  | k + 1, o, cut =>
    let nan := List.replicate 32 (Val.nan false)
    if cut then (let (l, _) := cf8Blocks s a n k o true; (nan :: l, true))
    else
      let bs := (List.range (min 48 (n - o))).map (fun i => s.scr (a + o + i) 1)
      let (v, len, fits) := cf8Decode bs
      let (l, b) := cf8Blocks s a n k (o + len) (!fits)
      match v with
      | some (sc, es) => (es.map (fun c => mxVal e4m3 sc c) :: l, b)
      | none => (nan :: l, true)

/-- Joins blocks into lines of `g` blocks. -/
def joinLines (g : Nat) : Nat → List (List Val) → List (List Val)
  | 0, _ => []
  | n + 1, bs => (bs.take g).flatten :: joinLines g n (bs.drop g)

/-- The lines of a tile at `a` holding `n` written bytes, and whether it raises NV. -/
def tileLines (s : State) (r : Ring) (a n : Nat) : List (List Val) × Bool :=
  if r.fmt = 8 then
    let (bs, bad) := cf8Blocks s a n (r.lines * (r.k / 32)) 0 false
    (joinLines (r.k / 32) r.lines bs, bad)
  else if r.sp = 0 then ((List.range r.lines).map (denseLine s r a), false)
  else
    let gs := (List.range r.lines).map (fun l => (List.range (r.k / 64)).map (sparseGroup s r a l))
    (gs.map (fun l => (l.map (·.1)).flatten), gs.any (fun l => l.any (·.2)))

/-! ### Sums (R151, R152) -/

/-- The exact sum of a group's products, with NV where R152 raises it. -/
def groupSum (ps : List Val) (allNegZero : Bool) : Val :=
  let g := ps.foldl (fun (g : Int) v => match v with | .fin _ _ e => min g e | _ => g) 0
  let t := ps.foldl (fun (t : Int) v => match v with | .fin n m e => t + Val.over n m e g | _ => t) 0
  if t = 0 then .fin allNegZero 0 0 else .fin (decide (t < 0)) t.natAbs g

/-- The sum of the products of two runs of elements, with its flags: NV of a signalling element (R141), of a product of an
infinity and zero, and of infinite products of both signs (R152). -/
def dot (xs ys : List Val) : Val × Nat :=
  let ins := xs.zip ys
  let nan := ins.any (fun p => p.1.isNan || p.2.isNan)
  let ps := (ins.filter (fun p => !p.1.isNan && !p.2.isNan)).map (fun p => (Val.mul p.1 p.2).1)
  let pos := ps.contains (.inf false)
  let neg := ps.contains (.inf true)
  let bad := ps.any Val.isNan || (pos && neg)
  let fl := sigFlag (ins.flatMap (fun p => [p.1, p.2])) ||| (if bad then fNV else 0)
  if nan || bad then (.nan false, fl)
  else if pos then (.inf false, fl)
  else if neg then (.inf true, fl)
  else (groupSum ps (ps.all (fun v => match v with | .fin n m _ => n && decide (m = 0) | _ => false)), fl)

/-- One element of an MMA's result: K-groups of `g` in ascending order (R151). -/
def mmaCell (fm g : Nat) : Nat → List Val → List Val → Nat → Nat → Nat × Nat
  | 0, _, _, acc, fl => (acc, fl)
  | f + 1, xs, ys, acc, fl =>
    if fm = 8 then
      let (p, a) := Val.mul (xs.headD (.fin false 0 0)) (ys.headD (.fin false 0 0))
      let r := fp64.out 0 (let q := Val.add 0 (Val.of fp64 acc) p; (q.1, q.2 ||| a))
      mmaCell fm g f xs.tail ys.tail r.1 (fl ||| r.2)
    else
      let (v, a) := dot (xs.take g) (ys.take g)
      let r := if fm = 6 then
          (match v with
           | .fin n m _ => ((if n then acc + 2 ^ 48 - m % 2 ^ 48 else acc + m) % 2 ^ 48, 0)
           | _ => (acc, 0))
        else
          let t := af48.put 0 false v
          let q := af48.out 0 (Val.add 0 (Val.of af48 acc) (Val.of af48 t.1))
          (q.1, q.2 ||| t.2 ||| a)
      mmaCell fm g f (xs.drop g) (ys.drop g) r.1 (fl ||| r.2)

/-- Accumulator `ac` of an etlet. -/
def Etlet.acc (e : Etlet) (ac : Nat) : Acc := if ac = 0 then e.acc0 else e.acc1

/-- Changes it. -/
def Etlet.setAcc (e : Etlet) (ac : Nat) (a : Acc) : Etlet := if ac = 0 then { e with acc0 := a } else { e with acc1 := a }

/-- A cell (R171). -/
def Acc.cell (a : Acc) (i j : Nat) : Word := kgetD a.cells (i * 64 + j) 0

/-- Puts a cell; +0 is not listed. -/
def Acc.put (a : Acc) (i j : Nat) (v : Word) : Acc := { a with cells := kset a.cells (i * 64 + j) (if v = 0 then none else some v) }

/-- What an MMA leaves in its accumulator, with its flags (R170). -/
def mmaRun (m : MmaCmd) (k : Nat) (as bs : List (List Val)) (acc : Acc) : Acc × Nat :=
  let acc := if m.z then { ty := mmaType m.fm, cells := [] } else acc
  let g := if m.fm = 7 then 8 else if m.fm = 8 then 1 else 32
  loop (fun i (r : Acc × Nat) =>
    let xs := as.getD (match m.perm with | some p => p.getD i 0 | none => i) []
    loop (fun j (r : Acc × Nat) =>
      let c := mmaCell m.fm g (k / g) xs (bs.getD j []) (r.1.cell i j).toNat r.2
      (r.1.put i j (wd c.1), c.2)) 0 bs.length r) 0 as.length (acc, 0)

/-- The claimed head tile of a ring: its address and bytes. -/
def headTile (s : State) (b : Nat) : Option (Ring × Nat × Nat) :=
  match kget s.etl.rings b with
  | some r => r.q.head?.map (fun t => (r, scratch s.eid + r.base + t.slot * r.slotBytes, t.bytes))
  | none => none

/-- MMA_COMPLETE (R170): the oldest started MMA forms its result, raises its flags, pops both tiles, and its thread is READY.
(DEDUCED, log 59) -/
def execMmaComplete (e : Nat) (s : State) : Res :=
  atE e s (fun s =>
    match s.etl.mmas.find? (fun m => m.started.isSome) with
    | none => s
    | some m =>
      match headTile s m.ra, headTile s m.rb with
      | some (ra, aa, an), some (rb, ba, bn) =>
        let (as, anv) := tileLines s ra aa an
        let (bs, bnv) := tileLines s rb ba bn
        let (acc, fl) := mmaRun m ra.k as bs (s.etl.acc m.ac)
        let fl := if anv || bnv then fl ||| fNV else fl
        let s := { s with free := s.free + 65536 }
        let s := modRing m.rb Ring.pop (modRing m.ra Ring.pop s)
        let s := s.modE (fun e => { (e.setAcc m.ac acc) with mmas := e.mmas.erase m })
        let s := onTid m.tid (fun s => s.raise fl) s
        readyWhere (fun w => match w with | .ring _ => true | .mmaDrain => true | .bench => true | _ => false) (reachWakes (wake m.tid none s))
      | _, _ => s)

/-! ### ACLR, ASTO, ALD (R172, R273) -/

/-- Waits until every MMA, ACLR, ASTO and ALD issued earlier on the etlet has completed (R172): until it can act, the instruction keeps its place
among them; `ty` is the type that it gives accumulator `ac`, 3 for none. -/
def afterMmas (ac ty : Nat) (s : State) (body : State → State) : State :=
  let mine := fun (m : MmaCmd) => decide (m.tid = s.th.tid) && m.aux.isSome
  let m : MmaCmd := { tid := s.th.tid, lk := s.lkey, ra := 16, rb := 16, ac := ac, fm := 0, sp := 0, z := false, perm := none, seq := 65536, aux := some ty }
  let all := if s.etl.mmas.any mine then s.etl.mmas else s.etl.mmas ++ [m]
  if all.head?.any mine then
    let t := body (s.modE (fun e => { e with mmas := all.tail }))
    if t.trap.isNone && t.unissued then t.modE (fun e => { e with mmas := all }) else readyWhere (fun w => decide (w = .mmaDrain ∨ w = .bench)) t
  else if s.handoff then takeTrap { code := cHandler } s
  else waitFor .mmaDrain 112 (s.modE (fun e => { e with mmas := all }))

/-- ACLR (R273). (DEDUCED, log 61) -/
def execAclr (a b : Nat) (s : State) : Res :=
  issue (.aclr a b) s (fun s => afterMmas b a s (fun s => advance (s.modE (fun e => e.setAcc b { ty := a, cells := [] }))))

/-- Bytes of one stored row of `n` columns (Table 8.12). -/
def rowBytes (fmt n : Nat) : Nat :=
  match fmt with
  | 0 => 4 * n
  | 1 => 2 * n
  | 2 => n
  | 3 => n
  | 4 => n / 2
  | 5 => 4 * n
  | _ => 8 * n

/-- The fields of Table 8.12. -/
def ctlPitch (c : Word) : Nat := bits c 63 32
def ctlFmt (c : Word) : Nat := bits c 23 21
def ctlSat (c : Word) : Bool := decide (bits c 20 20 = 1)
def ctlRows (c : Word) : Nat := bits c 19 13 + 1
def ctlCols (c : Word) : Nat := bits c 12 7 + 1

/-- Whether a control word gives an MX format. -/
def ctlMx (c : Word) : Bool := decide (2 ≤ ctlFmt c ∧ ctlFmt c ≤ 4)

/-- Check 3 on the control word (R172). -/
def ctlBad (ald : Bool) (c : Word) : Bool :=
  decide (bits c 31 24 ≠ 0 ∨ bits c 6 0 ≠ 0 ∨ ctlPitch c % 8 ≠ 0 ∨ ctlPitch c < rowBytes (ctlFmt c) (ctlCols c)) ||
  (ctlMx c && (decide (ctlCols c % 32 ≠ 0) || ald))

/-- Check 5: whether an accumulator of type `ty` suits FMT (R172). -/
def ctlType (ald : Bool) (fmt ty : Nat) : Bool :=
  match fmt with
  | 5 => decide (ty = 1)
  | 7 => true
  | 6 => decide (ty = 2) || (!ald && decide (ty = 0))
  | _ => decide (ty = 0) || (!ald && decide (ty = 2))

/-- Bytes from the first to the last that a region covers. -/
def ctlSpan (c : Word) : Nat := (ctlRows c - 1) * ctlPitch c + rowBytes (ctlFmt c) (ctlCols c)

/-- Scale bytes of an MX region. -/
def ctlScales (c : Word) : Nat := ctlRows c * (ctlCols c / 32)

/-- The checks of ASTO and ALD (R273). -/
def accCause (ald : Bool) (a b : Nat) (s : State) : List (Option Cause) :=
  let c := s.rd (a + 1)
  let mx := !ald && ctlMx c
  let va := if mx then [s.rd a, s.rd (a + 2)] else [s.rd a]
  [(if mx then (if 112 ≤ a + 2 then some (illegalReg (a + 2)) else if s.th.limit ≤ a + 2 then some { code := cWindow, eval := wd (a + 2) } else none) else none),
   canonFault va, alignFault 8 va,
   (if ctlBad ald c then some (illegalReg (a + 1)) else none),
   (if ctlType ald (ctlFmt c) (s.accType b) then none else some (illegalReg (1024 + b))),
   ownFault s ((s.rd a, ctlSpan c) :: (if mx then [(s.rd (a + 2), ctlScales c)] else []))]

/-- The lower of two causes' addresses. -/
def lowerCause (x y : Option Cause) : Option Cause :=
  match x, y with
  | some c, some d => if d.eval.toNat < c.eval.toNat then some d else some c
  | some c, none => some c
  | none, d => d

/-- The ring hazard of an ASTO: the lowest byte of its rows and its scales (R167). -/
def astoHazard (a : Nat) (s : State) : Option Cause :=
  let c := s.rd (a + 1)
  lowerCause ((List.range (ctlRows c)).findSome? (fun i => ringFault s (s.rd a + wd (i * ctlPitch c)) (rowBytes (ctlFmt c) (ctlCols c))))
    (if ctlMx c then ringFault s (s.rd (a + 2)) (ctlScales c) else none)

/-- A cell's value by its accumulator's type. -/
def cellVal (ty : Nat) (w : Word) : Val := if ty = 2 then Val.of fp64 w.toNat else Val.of af48 w.toNat

/-- One stored row: its bytes, its scale bytes, its flags (R154). -/
def astoRow (c : Word) (acc : Acc) (i : Nat) : List Nat × List Nat × Nat :=
  let ws := (List.range (ctlCols c)).map (acc.cell i)
  let conv := fun (f : Fmt) (n : Nat) (sat : Bool) =>
    let rs := ws.map (fun w => let v := cellVal acc.ty w; let r := f.put 0 sat v; (r.1, r.2 ||| sigFlag [v]))
    (rs.flatMap (fun r => leBytes n r.1), ([] : List Nat), rs.foldl (fun f r => f ||| r.2) 0)
  match ctlFmt c with
  | 0 => conv fp32 4 (ctlSat c)
  | 1 => conv bf16 2 (ctlSat c)
  | 5 => (ws.flatMap (fun w => leBytes 4 w.toNat), [], 0)
  | 6 => conv fp64 8 false
  | 7 => (ws.flatMap (fun w => leBytes 8 w.toNat), [], 0)
  | k =>
    let qs := (List.range (ctlCols c / 32)).map (fun g => quantise (mxFmt (k - 2)) (((ws.drop (32 * g)).take 32).map (cellVal acc.ty)))
    (qs.flatMap (fun q => elemBytes (k - 2) q.2.1), qs.map (·.1), qs.foldl (fun f q => f ||| q.2.2) 0)

/-- ASTO (R154, R172, R273). -/
def execAsto (a b : Nat) (s : State) : Res :=
  issue (.asto a b) s (fun s => checked (accCause false a b s ++ [astoHazard a s]) s (fun s => afterMmas b 3 s (fun s => afterBuffer [] s (fun s =>
    let c := s.rd (a + 1)
    let da := scratch s.eid + bits (s.rd a) 17 0
    let sa := scratch s.eid + bits (s.rd (a + 2)) 17 0
    let kid := s.th.kid
    advance (loop (fun i s =>
      let (row, sc, fl) := astoRow c (s.etl.acc b) i
      (scrWrite kid (sa + i * (ctlCols c / 32)) sc (scrWrite kid (da + i * ctlPitch c) row s)).raise fl) 0 (ctlRows c) s)))))

/-- A cell loaded from an element, with flags (R172). -/
def aldCell (fmt v : Nat) : Nat × Nat :=
  match fmt with
  | 0 => cvtFF fp32 af48 0 v
  | 1 => cvtFF bf16 af48 0 v
  | 5 => ((sext v 32).toNat % 2 ^ 48, 0)
  | _ => (v, 0)

/-- ALD (R172, R273). -/
def execAld (a b : Nat) (s : State) : Res :=
  issue (.ald a b) s (fun s => checked (accCause true a b s) s (fun s =>
    let c := s.rd (a + 1)
    let da := scratch s.eid + bits (s.rd a) 17 0
    let w := rowBytes (ctlFmt c) 1
    afterMmas b 3 s (fun s => afterBuffer [(da, ctlSpan c)] s (fun s =>
    let (acc, fl) := loop (fun i r => loop (fun j (r : Acc × Nat) =>
      let x := aldCell (ctlFmt c) (s.scr (da + i * ctlPitch c + j * w) w)
      (r.1.put i j (wd x.1), r.2 ||| x.2)) 0 (ctlCols c) r) 0 (ctlRows c) (s.etl.acc b, 0)
    advance ((s.modE (fun e => e.setAcc b acc)).raise fl)))))

end Sys2Proof.Machine
end

