-- ==== Sys2Proof/Machine/Dispatch.lean ====
section
/-! DEFINITION. One arm per constructor of Instr. -/

namespace Sys2Proof.Machine

def exec (i : Instr) (s : State) : Host.Outcome State Fault Refusal :=
  match i with
  | .trap a im => Sys2Proof.Machine.execTrap a im s
  | .br o => Sys2Proof.Machine.execBr o s
  | .brl o => Sys2Proof.Machine.execBrl o s
  | .jmpl d a => Sys2Proof.Machine.execJmpl d a s
  | .lsetupImm p c e => Sys2Proof.Machine.execLsetupImm p c e s
  | .lsetupReg p r e => Sys2Proof.Machine.execLsetupReg p r e s
  | .ld d a w n o => Sys2Proof.Machine.execLd d a w n o s
  | .st d a w o => Sys2Proof.Machine.execSt d a w o s
  | .lda d a w n c o => Sys2Proof.Machine.execLda d a w n c o s
  | .stl d a w c o => Sys2Proof.Machine.execStl d a w c o s
  | .ldf d a n c o => Sys2Proof.Machine.execLdf d a n c o s
  | .ldfe d a n c o => Sys2Proof.Machine.execLdfe d a n c o s
  | .stf d a c o => Sys2Proof.Machine.execStf d a c o s
  | .ste d a c o => Sys2Proof.Machine.execSte d a c o s
  | .sete a c o => Sys2Proof.Machine.execSete a c o s
  | .setf a c o => Sys2Proof.Machine.execSetf a c o s
  | .amoWAdd d a b => Sys2Proof.Machine.execAmoWAdd d a b s
  | .amoWSwap d a b => Sys2Proof.Machine.execAmoWSwap d a b s
  | .amoWAnd d a b => Sys2Proof.Machine.execAmoWAnd d a b s
  | .amoWOr d a b => Sys2Proof.Machine.execAmoWOr d a b s
  | .amoWSmin d a b => Sys2Proof.Machine.execAmoWSmin d a b s
  | .amoWSmax d a b => Sys2Proof.Machine.execAmoWSmax d a b s
  | .amoWUmin d a b => Sys2Proof.Machine.execAmoWUmin d a b s
  | .amoWUmax d a b => Sys2Proof.Machine.execAmoWUmax d a b s
  | .amoDAdd d a b => Sys2Proof.Machine.execAmoDAdd d a b s
  | .amoDSwap d a b => Sys2Proof.Machine.execAmoDSwap d a b s
  | .amoDAnd d a b => Sys2Proof.Machine.execAmoDAnd d a b s
  | .amoDOr d a b => Sys2Proof.Machine.execAmoDOr d a b s
  | .amoDSmin d a b => Sys2Proof.Machine.execAmoDSmin d a b s
  | .amoDSmax d a b => Sys2Proof.Machine.execAmoDSmax d a b s
  | .amoDUmin d a b => Sys2Proof.Machine.execAmoDUmin d a b s
  | .amoDUmax d a b => Sys2Proof.Machine.execAmoDUmax d a b s
  | .casW d a b => Sys2Proof.Machine.execCasW d a b s
  | .casD d a b => Sys2Proof.Machine.execCasD d a b s
  | .faggW d a b => Sys2Proof.Machine.execFaggW d a b s
  | .faggD d a b => Sys2Proof.Machine.execFaggD d a b s
  | .fence n => Sys2Proof.Machine.execFence n s
  | .fenceSs n => Sys2Proof.Machine.execFenceSs n s
  | .fenceLa n => Sys2Proof.Machine.execFenceLa n s
  | .cmoClean d a b => Sys2Proof.Machine.execCmoClean d a b s
  | .cmoInval d a b => Sys2Proof.Machine.execCmoInval d a b s
  | .cmoClinv d a b => Sys2Proof.Machine.execCmoClinv d a b s
  | .cmoPref d a b => Sys2Proof.Machine.execCmoPref d a b s
  | .cmoZero d a b => Sys2Proof.Machine.execCmoZero d a b s
  | .cpy a x m => Sys2Proof.Machine.execCpy a x m s
  | .cpyf a x m => Sys2Proof.Machine.execCpyf a x m s
  | .cpyg a x m => Sys2Proof.Machine.execCpyg a x m s
  | .cpyp a x m p => Sys2Proof.Machine.execCpyp a x m p s
  | .cpyr a x m r => Sys2Proof.Machine.execCpyr a x m r s
  | .cpys a x m => Sys2Proof.Machine.execCpys a x m s
  | .twall d a => Sys2Proof.Machine.execTwall d a s
  | .twany d a => Sys2Proof.Machine.execTwany d a s
  | .tffr d a => Sys2Proof.Machine.execTffr d a s
  | .tclr a => Sys2Proof.Machine.execTclr a s
  | .mma r n c f p z q m => Sys2Proof.Machine.execMma r n c f p z q m s
  | .aclr a b => Sys2Proof.Machine.execAclr a b s
  | .asto a b => Sys2Proof.Machine.execAsto a b s
  | .ald a b => Sys2Proof.Machine.execAld a b s
  | .rdef d a b => Sys2Proof.Machine.execRdef d a b s
  | .rqry d b => Sys2Proof.Machine.execRqry d b s
  | .rdrop d b => Sys2Proof.Machine.execRdrop d b s
  | .rreset b => Sys2Proof.Machine.execRreset b s
  | .snew d a b => Sys2Proof.Machine.execSnew d a b s
  | .sfree d a b => Sys2Proof.Machine.execSfree d a b s
  | .spoke d a b => Sys2Proof.Machine.execSpoke d a b s
  | .legq d b => Sys2Proof.Machine.execLegq d b s
  | .foulc a => Sys2Proof.Machine.execFoulc a s
  | .ckpt d a => Sys2Proof.Machine.execCkpt d a s
  | .bar d a b => Sys2Proof.Machine.execBar d a b s
  | .bara d a b => Sys2Proof.Machine.execBara d a b s
  | .barw d a b => Sys2Proof.Machine.execBarw d a b s
  | .toka d a b => Sys2Proof.Machine.execToka d a b s
  | .tokr d a b => Sys2Proof.Machine.execTokr d a b s
  | .step d a b => Sys2Proof.Machine.execStep d a b s
  | .stepr d a b => Sys2Proof.Machine.execStepr d a b s
  | .sound d b => Sys2Proof.Machine.execSound d b s
  | .send a b => Sys2Proof.Machine.execSend a b s
  | .go a => Sys2Proof.Machine.execGo a s
  | .put a => Sys2Proof.Machine.execPut a s
  | .get a => Sys2Proof.Machine.execGet a s
  | .tsend d a b => Sys2Proof.Machine.execTsend d a b s
  | .tcancel d a => Sys2Proof.Machine.execTcancel d a s
  | .scset d a b => Sys2Proof.Machine.execScset d a b s
  | .scadd d a b => Sys2Proof.Machine.execScadd d a b s
  | .scwait d a b => Sys2Proof.Machine.execScwait d a b s
  | .scrd d b => Sys2Proof.Machine.execScrd d b s
  | .wrq d a => Sys2Proof.Machine.execWrq d a s
  | .wrcq d => Sys2Proof.Machine.execWrcq d s
  | .uestat d b => Sys2Proof.Machine.execUestat d b s
  | .mfalloc d a b => Sys2Proof.Machine.execMfalloc d a b s
  | .mffree d a => Sys2Proof.Machine.execMffree d a s
  | .mfquota d => Sys2Proof.Machine.execMfquota d s
  | .mfstat d a => Sys2Proof.Machine.execMfstat d a s
  | .swb d a => Sys2Proof.Machine.execSwb d a s
  | .swn d a => Sys2Proof.Machine.execSwn d a s
  | .swe d a => Sys2Proof.Machine.execSwe d a s
  | .resq d a => Sys2Proof.Machine.execResq d a s
  | .swstat d a => Sys2Proof.Machine.execSwstat d a s
  | .qnew d a => Sys2Proof.Machine.execQnew d a s
  | .qenq a b => Sys2Proof.Machine.execQenq a b s
  | .qdeq d a => Sys2Proof.Machine.execQdeq d a s
  | .qtry d a b => Sys2Proof.Machine.execQtry d a b s
  | .qfree d a => Sys2Proof.Machine.execQfree d a s
  | .gang d a => Sys2Proof.Machine.execGang d a s
  | .pload d a b => Sys2Proof.Machine.execPload d a b s
  | .pstore d a => Sys2Proof.Machine.execPstore d a s
  | .vld d a o => Sys2Proof.Machine.execVld d a o s
  | .vldStr d a o => Sys2Proof.Machine.execVldStr d a o s
  | .vldBc d a o => Sys2Proof.Machine.execVldBc d a o s
  | .vst d a o => Sys2Proof.Machine.execVst d a o s
  | .vstStr d a o => Sys2Proof.Machine.execVstStr d a o s
  | .csrr d c => Sys2Proof.Machine.execCsrr d c s
  | .csrw a c => Sys2Proof.Machine.execCsrw a c s
  | .csrx d a c => Sys2Proof.Machine.execCsrx d a c s
  | .launch d a => Sys2Proof.Machine.execLaunch d a s
  | .bencho d a b => Sys2Proof.Machine.execBencho d a b s
  | .benchi d a b => Sys2Proof.Machine.execBenchi d a b s
  | .mapset d a => Sys2Proof.Machine.execMapset d a s
  | .xinv d a b => Sys2Proof.Machine.execXinv d a b s
  | .keyset d a => Sys2Proof.Machine.execKeyset d a s
  | .selft d a => Sys2Proof.Machine.execSelft d a s
  | .vre a b => Sys2Proof.Machine.execVre a b s
  | .add d a b => Sys2Proof.Machine.execAdd d a b s
  | .sub d a b => Sys2Proof.Machine.execSub d a b s
  | .and d a b => Sys2Proof.Machine.execAnd d a b s
  | .or d a b => Sys2Proof.Machine.execOr d a b s
  | .xor d a b => Sys2Proof.Machine.execXor d a b s
  | .andn d a b => Sys2Proof.Machine.execAndn d a b s
  | .sll d a b => Sys2Proof.Machine.execSll d a b s
  | .srl d a b => Sys2Proof.Machine.execSrl d a b s
  | .sra d a b => Sys2Proof.Machine.execSra d a b s
  | .rotr d a b => Sys2Proof.Machine.execRotr d a b s
  | .min d a b => Sys2Proof.Machine.execMin d a b s
  | .max d a b => Sys2Proof.Machine.execMax d a b s
  | .minu d a b => Sys2Proof.Machine.execMinu d a b s
  | .maxu d a b => Sys2Proof.Machine.execMaxu d a b s
  | .addw d a b => Sys2Proof.Machine.execAddw d a b s
  | .subw d a b => Sys2Proof.Machine.execSubw d a b s
  | .mul d a b => Sys2Proof.Machine.execMul d a b s
  | .mulh d a b => Sys2Proof.Machine.execMulh d a b s
  | .mulhu d a b => Sys2Proof.Machine.execMulhu d a b s
  | .mulw d a b => Sys2Proof.Machine.execMulw d a b s
  | .div d a b => Sys2Proof.Machine.execDiv d a b s
  | .divu d a b => Sys2Proof.Machine.execDivu d a b s
  | .rem d a b => Sys2Proof.Machine.execRem d a b s
  | .remu d a b => Sys2Proof.Machine.execRemu d a b s
  | .clz d a => Sys2Proof.Machine.execClz d a s
  | .ctz d a => Sys2Proof.Machine.execCtz d a s
  | .popc d a => Sys2Proof.Machine.execPopc d a s
  | .brev d a => Sys2Proof.Machine.execBrev d a s
  | .bswap d a => Sys2Proof.Machine.execBswap d a s
  | .sext d a b => Sys2Proof.Machine.execSext d a b s
  | .zext d a b => Sys2Proof.Machine.execZext d a b s
  | .addi d a im => Sys2Proof.Machine.execAddi d a im s
  | .andi d a im => Sys2Proof.Machine.execAndi d a im s
  | .ori d a im => Sys2Proof.Machine.execOri d a im s
  | .xori d a im => Sys2Proof.Machine.execXori d a im s
  | .slli d a n => Sys2Proof.Machine.execSlli d a n s
  | .srli d a n => Sys2Proof.Machine.execSrli d a n s
  | .srai d a n => Sys2Proof.Machine.execSrai d a n s
  | .rotri d a n => Sys2Proof.Machine.execRotri d a n s
  | .movi d im => Sys2Proof.Machine.execMovi d im s
  | .movhi d k => Sys2Proof.Machine.execMovhi d k s
  | .cmp k c a b => Sys2Proof.Machine.execCmp k c a b s
  | .cmpW k c a b => Sys2Proof.Machine.execCmpW k c a b s
  | .setcEq d a b => Sys2Proof.Machine.execSetcEq d a b s
  | .setcNe d a b => Sys2Proof.Machine.execSetcNe d a b s
  | .setcLt d a b => Sys2Proof.Machine.execSetcLt d a b s
  | .setcGe d a b => Sys2Proof.Machine.execSetcGe d a b s
  | .setcLtu d a b => Sys2Proof.Machine.execSetcLtu d a b s
  | .setcGeu d a b => Sys2Proof.Machine.execSetcGeu d a b s
  | .setcBs d a b => Sys2Proof.Machine.execSetcBs d a b s
  | .setcBc d a b => Sys2Proof.Machine.execSetcBc d a b s
  | .faddD d a b => Sys2Proof.Machine.execFaddD d a b s
  | .fsubD d a b => Sys2Proof.Machine.execFsubD d a b s
  | .fmulD d a b => Sys2Proof.Machine.execFmulD d a b s
  | .fdivD d a b => Sys2Proof.Machine.execFdivD d a b s
  | .fminD d a b => Sys2Proof.Machine.execFminD d a b s
  | .fmaxD d a b => Sys2Proof.Machine.execFmaxD d a b s
  | .fsqrtD d a => Sys2Proof.Machine.execFsqrtD d a s
  | .fcpsD d a b => Sys2Proof.Machine.execFcpsD d a b s
  | .faddS d a b => Sys2Proof.Machine.execFaddS d a b s
  | .fsubS d a b => Sys2Proof.Machine.execFsubS d a b s
  | .fmulS d a b => Sys2Proof.Machine.execFmulS d a b s
  | .fdivS d a b => Sys2Proof.Machine.execFdivS d a b s
  | .fminS d a b => Sys2Proof.Machine.execFminS d a b s
  | .fmaxS d a b => Sys2Proof.Machine.execFmaxS d a b s
  | .fsqrtS d a => Sys2Proof.Machine.execFsqrtS d a s
  | .fcpsS d a b => Sys2Proof.Machine.execFcpsS d a b s
  | .fmaD d a b => Sys2Proof.Machine.execFmaD d a b s
  | .fmsD d a b => Sys2Proof.Machine.execFmsD d a b s
  | .fnmaD d a b => Sys2Proof.Machine.execFnmaD d a b s
  | .fmaS d a b => Sys2Proof.Machine.execFmaS d a b s
  | .fmsS d a b => Sys2Proof.Machine.execFmsS d a b s
  | .fnmaS d a b => Sys2Proof.Machine.execFnmaS d a b s
  | .fcvt d a b r => Sys2Proof.Machine.execFcvt d a b r s
  | .frcp d a => Sys2Proof.Machine.execFrcp d a s
  | .frsq d a => Sys2Proof.Machine.execFrsq d a s
  | .fexp2 d a => Sys2Proof.Machine.execFexp2 d a s
  | .flog2 d a => Sys2Proof.Machine.execFlog2 d a s
  | .fclass d a => Sys2Proof.Machine.execFclass d a s
  | .fcmpD k c a b => Sys2Proof.Machine.execFcmpD k c a b s
  | .fcmpS k c a b => Sys2Proof.Machine.execFcmpS k c a b s
  | .vfadd d a b => Sys2Proof.Machine.execVfadd d a b s
  | .vfsub d a b => Sys2Proof.Machine.execVfsub d a b s
  | .vfmul d a b => Sys2Proof.Machine.execVfmul d a b s
  | .vfma d a b c => Sys2Proof.Machine.execVfma d a b c s
  | .vfmin d a b => Sys2Proof.Machine.execVfmin d a b s
  | .vfmax d a b => Sys2Proof.Machine.execVfmax d a b s
  | .vfrcp d a => Sys2Proof.Machine.execVfrcp d a s
  | .vfexp2 d a => Sys2Proof.Machine.execVfexp2 d a s
  | .vadd d a b => Sys2Proof.Machine.execVadd d a b s
  | .vsub d a b => Sys2Proof.Machine.execVsub d a b s
  | .vmul d a b => Sys2Proof.Machine.execVmul d a b s
  | .vmin d a b => Sys2Proof.Machine.execVmin d a b s
  | .vmax d a b => Sys2Proof.Machine.execVmax d a b s
  | .vminu d a b => Sys2Proof.Machine.execVminu d a b s
  | .vmaxu d a b => Sys2Proof.Machine.execVmaxu d a b s
  | .vand d a b => Sys2Proof.Machine.execVand d a b s
  | .vor d a b => Sys2Proof.Machine.execVor d a b s
  | .vxor d a b => Sys2Proof.Machine.execVxor d a b s
  | .vsll d a b => Sys2Proof.Machine.execVsll d a b s
  | .vsrl d a b => Sys2Proof.Machine.execVsrl d a b s
  | .vsra d a b => Sys2Proof.Machine.execVsra d a b s
  | .vred d a c => Sys2Proof.Machine.execVred d a c s
  | .vperm d a p => Sys2Proof.Machine.execVperm d a p s
  | .vsel d a b c => Sys2Proof.Machine.execVsel d a b c s
  | .vcmp d a b c => Sys2Proof.Machine.execVcmp d a b c s
  | .vcvt d a c => Sys2Proof.Machine.execVcvt d a c s
  | .vbcast d n => Sys2Proof.Machine.execVbcast d n s
  | .vext d a n => Sys2Proof.Machine.execVext d a n s
  | .qnt d a b => Sys2Proof.Machine.execQnt d a b s
  | .dqnt d a b => Sys2Proof.Machine.execDqnt d a b s
  | .baddq d a b => Sys2Proof.Machine.execBaddq d a b s
  | .scaleq d a b => Sys2Proof.Machine.execScaleq d a b s
  | .pcomp d a b => Sys2Proof.Machine.execPcomp d a b s
  | .pinv d a => Sys2Proof.Machine.execPinv d a s
  | .prand d a b => Sys2Proof.Machine.execPrand d a b s
  | .pidn d b => Sys2Proof.Machine.execPidn d b s
  | .pcyc d a b => Sys2Proof.Machine.execPcyc d a b s
  | .pmov d a => Sys2Proof.Machine.execPmov d a s
  | .illegalEncoding w => Sys2Proof.Machine.execIllegalEncoding w s
  | .fetchFault cause => Sys2Proof.Machine.execFetchFault cause s
  | .nop => Sys2Proof.Machine.execNop s
  | .yield => Sys2Proof.Machine.execYield s
  | .exit => Sys2Proof.Machine.execExit s
  | .eret => Sys2Proof.Machine.execEret s
  | .disband => Sys2Proof.Machine.execDisband s
  | .vrb => Sys2Proof.Machine.execVrb s
  | .vrstop => Sys2Proof.Machine.execVrstop s
  | .vrwait => Sys2Proof.Machine.execVrwait s
  | .powerOnReset => Sys2Proof.Machine.execPowerOnReset s
  | .functionReady pkg f => Sys2Proof.Machine.execFunctionReady pkg f s
  | .commandFetch pkg => Sys2Proof.Machine.execCommandFetch pkg s
  | .init pkg => Sys2Proof.Machine.execInit pkg s
  | .hostLaunch pkg => Sys2Proof.Machine.execHostLaunch pkg s
  | .rstat pkg => Sys2Proof.Machine.execRstat pkg s
  | .freset pkg => Sys2Proof.Machine.execFreset pkg s
  | .attest pkg => Sys2Proof.Machine.execAttest pkg s
  | .fwload pkg => Sys2Proof.Machine.execFwload pkg s
  | .cdoor pkg v => Sys2Proof.Machine.execCdoor pkg v s
  | .qstart pkg v => Sys2Proof.Machine.execQstart pkg v s
  | .registerWrite pkg off v => Sys2Proof.Machine.execRegisterWrite pkg off v s
  | .migrationGo die v => Sys2Proof.Machine.execMigrationGo die v s
  | .migrationComplete die => Sys2Proof.Machine.execMigrationComplete die s
  | .stestStart die u => Sys2Proof.Machine.execStestStart die u s
  | .selfTestComplete die pass => Sys2Proof.Machine.execSelfTestComplete die pass s
  | .uvUnfreeze pkg dom => Sys2Proof.Machine.execUvUnfreeze pkg dom s
  | .uvFreeze pkg dom => Sys2Proof.Machine.execUvFreeze pkg dom s
  | .uvEnableWrite pkg dom en => Sys2Proof.Machine.execUvEnableWrite pkg dom en s
  | .mfqset pkg v => Sys2Proof.Machine.execMfqset pkg v s
  | .uvStep pkg dom down => Sys2Proof.Machine.execUvStep pkg dom down s
  | .uvMeasureEnd pkg dom exceeded => Sys2Proof.Machine.execUvMeasureEnd pkg dom exceeded s
  | .powerSample pkg im mw => Sys2Proof.Machine.execPowerSample pkg im mw s
  | .translationWalkComplete e slot => Sys2Proof.Machine.execTranslationWalkComplete e slot s
  | .memoryReply e slot => Sys2Proof.Machine.execMemoryReply e slot s
  | .storeTakesEffect e => Sys2Proof.Machine.execStoreTakesEffect e s
  | .storeReply e => Sys2Proof.Machine.execStoreReply e s
  | .pageHeatHalve die => Sys2Proof.Machine.execPageHeatHalve die s
  | .loopSlotReserve die lp stop => Sys2Proof.Machine.execLoopSlotReserve die lp stop s
  | .loopStopPowerDown die lp stop => Sys2Proof.Machine.execLoopStopPowerDown die lp stop s
  | .loopStopWake die lp stop => Sys2Proof.Machine.execLoopStopWake die lp stop s
  | .longLatencyWriteback e slot => Sys2Proof.Machine.execLongLatencyWriteback e slot s
  | .eventDelivery e slot => Sys2Proof.Machine.execEventDelivery e slot s
  | .yieldExpiry e slot => Sys2Proof.Machine.execYieldExpiry e slot s
  | .handlerIssueLimit e slot => Sys2Proof.Machine.execHandlerIssueLimit e slot s
  | .activeMessageArrival e => Sys2Proof.Machine.execActiveMessageArrival e s
  | .handlerStart e => Sys2Proof.Machine.execHandlerStart e s
  | .absent e => Sys2Proof.Machine.execAbsent e s
  | .loopPortWordArrival e => Sys2Proof.Machine.execLoopPortWordArrival e s
  | .loopPortCreditReturn e slot k => Sys2Proof.Machine.execLoopPortCreditReturn e slot k s
  | .goArrival e => Sys2Proof.Machine.execGoArrival e s
  | .parkedThreadPlace e => Sys2Proof.Machine.execParkedThreadPlace e s
  | .mapsetForward e => Sys2Proof.Machine.execMapsetForward e s
  | .exitComplete e slot => Sys2Proof.Machine.execExitComplete e slot s
  | .launchCompletionWrite pkg l => Sys2Proof.Machine.execLaunchCompletionWrite pkg l s
  | .benchImageWrite e => Sys2Proof.Machine.execBenchImageWrite e s
  | .copyStart e seq => Sys2Proof.Machine.execCopyStart e seq s
  | .copyComplete e seq => Sys2Proof.Machine.execCopyComplete e seq s
  | .mmaStart e => Sys2Proof.Machine.execMmaStart e s
  | .mmaComplete e => Sys2Proof.Machine.execMmaComplete e s
  | .vectorStart e => Sys2Proof.Machine.execVectorStart e s
  | .vectorWriteback e => Sys2Proof.Machine.execVectorWriteback e s
  | .solverComplete e => Sys2Proof.Machine.execSolverComplete e s
  | .putArrival e seq => Sys2Proof.Machine.execPutArrival e seq s
  | .putComplete e seq => Sys2Proof.Machine.execPutComplete e seq s
  | .uePacketArrival die kind key off bytes => Sys2Proof.Machine.execUePacketArrival die kind key off bytes s
  | .wrqComplete die id status => Sys2Proof.Machine.execWrqComplete die id status s
  | .norecvTimeout die id => Sys2Proof.Machine.execNorecvTimeout die id s
  | .syncRoundStart st => Sys2Proof.Machine.execSyncRoundStart st s
  | .umpireRoundEnd st => Sys2Proof.Machine.execUmpireRoundEnd st s
  | .completionReport n => Sys2Proof.Machine.execCompletionReport n s
  | .phaseMessage n => Sys2Proof.Machine.execPhaseMessage n s
  | .verdictDelivery n => Sys2Proof.Machine.execVerdictDelivery n s
  | .memberAbsent st => Sys2Proof.Machine.execMemberAbsent st s
  | .tokenPass obj st => Sys2Proof.Machine.execTokenPass obj st s
  | .stepAdvance obj st => Sys2Proof.Machine.execStepAdvance obj st s
  | .rollbackResume e kid => Sys2Proof.Machine.execRollbackResume e kid s
  | .errorDetected die u gpa corrected => Sys2Proof.Machine.execErrorDetected die u gpa corrected s
  | .sweeperExamine cl sw => Sys2Proof.Machine.execSweeperExamine cl sw s
  | .sweeperPassStart cl sw => Sys2Proof.Machine.execSweeperPassStart cl sw s
  | .sweeperForce cl sw => Sys2Proof.Machine.execSweeperForce cl sw s
  | .faggGroupClose e => Sys2Proof.Machine.execFaggGroupClose e s
  | .requestArrival e seq => Sys2Proof.Machine.execRequestArrival e seq s
  | .requestResend e seq => Sys2Proof.Machine.execRequestResend e seq s
  | .requestTimeout e seq => Sys2Proof.Machine.execRequestTimeout e seq s
  | .dedupExpiry die => Sys2Proof.Machine.execDedupExpiry die s
  | .flitReceive pkg port seq good authOk => Sys2Proof.Machine.execFlitReceive pkg port seq good authOk s
  | .replayRequest pkg port seq => Sys2Proof.Machine.execReplayRequest pkg port seq s
  | .criticalPacketReceive pkg src seq => Sys2Proof.Machine.execCriticalPacketReceive pkg src seq s
  | .portTrainingEnd pkg port speed lanes recOk => Sys2Proof.Machine.execPortTrainingEnd pkg port speed lanes recOk s
  | .trainingTimeout pkg port => Sys2Proof.Machine.execTrainingTimeout pkg port s
  | .flowMove pkg port => Sys2Proof.Machine.execFlowMove pkg port s
  | .flowStallEnd pkg flow => Sys2Proof.Machine.execFlowStallEnd pkg flow s
  | .switchLossNotice dom sw => Sys2Proof.Machine.execSwitchLossNotice dom sw s
  | .rheadAdvance pkg v => Sys2Proof.Machine.execRheadAdvance pkg v s
  | .portCommand pkg port => Sys2Proof.Machine.execPortCommand pkg port s
  | .memoryWriteComplete cl line => Sys2Proof.Machine.execMemoryWriteComplete cl line s

end Sys2Proof.Machine
end

