-- ==== Sys2Proof/Machine/Turn.lean ====
section
/-! DEFINITION. One turn of an etlet: which slot receives it, and the bundle that the slot issues: events, fetch, checks, pairs,
VOTE, gangs, battery pairs, annulled bundles (R24, R38, R49 to R55, R104, R139, R173, R175, R223, R232, R271, R292, R386). -/

namespace Sys2Proof.Machine

/-! ### Which slots may issue (R24, R38) -/

/-- The etlets of the gang of a thread. -/
def Thread.gang (t : Thread) : List Nat := (List.range t.gangN).map (fun i => t.gangLead + 8 * i)

/-- Whether the etlet in focus has a turn to give in this cycle: one a cycle, and none for a cluster or etlet under targeted self-test or in a
cycle that the power limit takes (R24, R249, R349). -/
def State.turnFree (s : State) : Bool :=
  let d := s.myDie
  !((decide (d.testUnit = some (0x40 + clusterOf s.eid % 64)) && decide (d.testEtlet.getD s.eid = s.eid)) || decide (s.now % 8 < d.limit) ||
    decide (s.etl.lastTurn = some s.now))

/-- Whether slot `l` of the etlet in focus is eligible for a turn of the etlet's own (R24); a gang's members have none. -/
def State.eligible (s : State) (l : Nat) : Bool := let x := s.focus s.eid l; decide (x.th.gangN = 0) && x.canIssue

/-- Whether slot `l` of the etlet in focus belongs to a gang every member of which is eligible, on an etlet that has a turn to give (R38). -/
def State.gangReady (s : State) (l : Nat) : Bool :=
  match s.threadAt l with
  | none => false
  | some t => decide (t.gangN ≠ 0) && t.gang.all (fun e => let y := s.focus e l; y.turnFree && y.canIssue)

/-! ### Who receives the turn (R24) -/

/-- The eligible slots of kernel `k`. -/
def State.ready (s : State) (k : Nat) : List Nat :=
  s.slotList.filter (fun l => decide ((s.threadAt l).map (·.kid) = some k) && s.eligible l)

/-- The first slot after `r`, wrapping from 63 to 0. -/
def after (r : Nat) (ls : List Nat) : Option Nat := (ls.find? (fun l => decide (r < l))).orElse (fun _ => ls.head?)

/-- The slot of kernel `k` that would receive a turn. -/
def State.pickIn (s : State) (k : Nat) : Option Nat := after (kgetD s.etl.kernels k {}).rr (s.ready k)

/-- Of the gangs that can issue, the one that has waited longest since it issued, the lowest slot of such. -/
def State.pickGang (s : State) : Option Nat :=
  let since := fun (l : Nat) => (((s.threadAt l).bind (·.issuedAt)).map (· + 1)).getD 0
  (s.slotList.filter s.gangReady).foldl (fun (m : Option Nat) l =>
    match m with
    | some k => if since l < since k then some l else some k
    | none => some l) none

/-- The slot that receives the turn of this cycle, if any. A gang issues in the first cycle in which its slot is eligible on every member,
whatever the slot tables say (R38); other turns go by R24. (DESIGN CHOICE, log 162) -/
def State.pick (s : State) : Option Nat :=
  if s.turnFree = false then none
  else s.pickGang.orElse (fun _ =>
    let k := kgetD s.etl.slots (s.now % 64) 15
    let first := if k < 8 then k + 1 else 0
    (if k < 8 then s.pickIn k else none).orElse (fun _ =>
      (List.range 8).findSome? (fun i =>
        let j := (first + i) % 8
        if (BitVec.ofNat 8 s.etl.lend).getLsbD j then s.pickIn j else none)))

/-! ### The end of a bundle -/

/-- The state an instruction leaves; none stops. -/
def resState (r : Res) (s : State) : State :=
  match r with
  | .next t => t
  | .fault _ => s
  | .refused _ => s

/-- Runs an instruction. -/
def run (i : Instr) (s : State) : State := resState (exec i s) s

/-- The end of a pair (R51): its loop ports, the end test, and what takes effect from the next bundle: a write of STATUS, a TRAP, a GO, a
BENCHO of the issuing slot. The last three come once the A-class partner has written back, where it has still to (R54). -/
def endPair (fs : List Fld) (s : State) : State :=
  let u := popPorts fs s.clean
  let u := (if s.adv then u.modT endTest else u).modT (fun t => { t with kill := none })
  let u := match s.lateSt with
    | some v => u.modT (fun t => { t with status := statusPut t.status v })
    | none => u
  let l : Option Late := (s.late.map Late.trap).or ((s.lateGo.map Late.go).or (s.lateBench.map Late.bench))
  match l with
  | none => u
  | some l => if u.th.st = .waiting .alu then u.modT (fun t => { t with after := some l }) else lateAct l u

/-- Whether an A-class instruction waits to be issued again, and for what. -/
def waitsAgain (u : State) : Option Wait :=
  match u.th.st with
  | .waiting w => if w.again then some w else none
  | .ready => none

/-- Runs the A-class instruction `a` of a pair after its C-class one; its trap undoes the pair (DEDUCED, log 16). One that must
wait before it can be issued holds the pair back; where it waits only for its partner's own effect, `part` leaves it for later.
-/
def runA (a : Instr) (l : Latch) (s0 s : State) (part : Wait → State) (body : State → State) : State :=
  let alone := fun (s : State) => run a { s with ph := 2, latch := some l }
  let u := alone s
  match u.trap, waitsAgain u with
  | some c, _ => takeTrap c s0
  | none, some w => if (waitsAgain (alone s0)).isSome then waitFor w 112 s0 else part w
  | none, none => body u

/-- The A-class instruction of a pair has been tried, giving `u`, and completes with the reply that `t` awaits; what it asks of the route
solver is asked now (R188). -/
def defer (fs : List Fld) (a : Instr) (la : Latch) (t u : State) : State :=
  let t := popPorts fs t.clean
  (t.modT (fun x => { x with deferred := some (a, la) })).modE (fun e => { e with
    solver := e.solver ++ (u.etl.solver.drop e.solver.length).map (fun q => { q with held := true }) })

/-- A pair (R51, R54): `lc` and `la` hold the operands of the two instructions. Where the C-class instruction waits for a reply, the A-class
one is tried for its causes and completes with the reply, on the operands of its issue. A bundle that must wait before it acts counts as
issued when it acts, and reads its operands then. (DESIGN CHOICE, log 166) -/
def pair (lc la : Latch) (c a : Instr) (s0 : State) : State :=
  let fs := s0.ports c ++ s0.ports a
  match (precheck c s0).orElse (fun _ => precheck a s0) with
  | some x => takeTrap x s0
  | none =>
    match portCheck s0 fs with
    | some (.inl x) => takeTrap x s0
    | some (.inr w) => waitFor w 112 s0
    | none =>
      let t := run c ({ s0 with ph := 1, latch := some lc }.modT (fun t => { t with kill := a.dest }))
      if t.trap.isSome then t.clean
      else match t.th.st with
        | .ready => runA a la s0 t (fun w => (defer fs a la t t).modT (fun x => { x with st := .waiting w })) (endPair fs)
        | .waiting w =>
          if w.again then t.clean.modT (fun x => { x with kill := none })
          else runA a la s0 t (fun _ => defer fs a la t t) (fun u =>
            if w = .exitDrain then (popPorts fs u.clean).modT (fun x =>
              if x.st = .waiting .alu then { x with after := some .exit, kill := none } else { x with st := .waiting .exitDrain, kill := none })
            else defer fs a la t u)

/-- The A-class instruction of a pair completes after the reply of its C-class partner. -/
def completeA (a : Instr) (l : Latch) (s : State) : State :=
  let past := fun (s : State) => s.modT (fun t => endTest { t with deferred := none, kill := none })
  match s.etl.solver.find? (fun q => decide (q.tid = s.th.tid) && q.held) with
  | some q => joinSolver q (past s)
  | none =>
    let u := run a { s with ph := 2, latch := some l, bundle := encodeBody a * 2 ^ 32, bpc := s.th.pc }
    if u.trap.isSome ∨ (waitsAgain u).isSome then u.clean else past u.clean

/-! ### VOTE (R53, R271) -/

/-- The bitwise majority of three words. -/
def maj (x y z : Word) : Word := (x &&& y) ||| (x &&& z) ||| (y &&& z)

/-- Whether at least two of three values are equal. -/
def two {α : Type} [DecidableEq α] (x y z : α) : Bool := decide (x = y ∨ x = z ∨ y = z)

/-- What a load that is answered at once would write to its register. -/
def loadLooks (w sg : Nat) (va : Word) (near : Bool) (s : State) : Option Word :=
  match s.xlate s.user .rd va with
  | .ok g ca => if near && !(inScratch s.eid g || s.covered g (2 ^ w)) then none else (s.loadNow g (2 ^ w) ca).map (extend (2 ^ w) (decide (sg = 1)))
  | _ => none

/-- What TWALL or TWANY would write at once, for the mask `m`. -/
def tagLooks (all : Bool) (m : Word) (s : State) : Option Word :=
  let t := s.etl.tags
  if (all && decide (t &&& m = m)) || (!all && (decide (t &&& m ≠ 0) || decide (m = 0))) then some (t &&& m) else none

/-- What an instruction that asks the part for a value and leaves no wait would read now: a unit, a CSR, the tags, a counter, the own
scratchpad or a cache (R53). -/
def looks (i : Instr) (s : State) : Option Word :=
  match i with
  | .tffr _ a => some (wd ((lowest (fun j => (s.rd 118 &&& s.rd a).getLsbD j) 0 64).getD 64))
  | .twall _ a => tagLooks true (s.rd a) s
  | .twany _ a => tagLooks false (s.rd a) s
  | .stepr _ a b => (s.handleOk (s.rd a) b (some 2) true).map (fun k => wd (s.coreNode k).c)
  | .scset _ _ b => some (wd (kgetD s.etl.sc b 0))
  | .scadd _ _ b => some (wd (kgetD s.etl.sc b 0))
  | .scwait _ a b => if reaches (kgetD s.etl.sc b 0) (bits (s.rd a) 31 0) then some (wd (kgetD s.etl.sc b 0)) else none
  | .ld _ a w sg o => loadLooks w sg (s.rd a + o.offM (2 ^ w)) false s
  | .lda _ a w sg c o => loadLooks w sg (s.rd a + o.offMS) (decide (4 ≤ c)) s
  | .csrr _ c => some (s.csr c)
  | .csrx _ _ c => some (s.csr c)
  | .rqry _ b => some (wd (kgetD s.etl.rings b { kid := 0, base := 0, lines := 0, k := 0, fmt := 0, sp := 0, tiles := 0 }).query)
  | .legq _ b => some (s.legqVal b)
  | .scrd _ b => some (wd (kgetD s.etl.sc b 0))
  | .uestat _ b => some (s.uestatVal b)
  | .resq _ a => some (s.resqVal (s.rd a) (min 65536 (s.rd (a + 1)).toNat))
  | .swstat _ a => some (s.sweeper (clusterOf s.eid) (bits (s.rd a) 1 0)).stat
  | _ => none

/-- The registers whose values are operands of an instruction's side effect or request. -/
def asks (i : Instr) : List Nat :=
  match i with
  | .resq _ _ => []
  | .swstat _ _ => []
  | _ => i.fields.flatMap (fun f => match f with
    | .src m => [m]
    | .both m => [m]
    | .run a n => (List.range (n + 1)).map (a + ·)
    | .head a => [a]
    | _ => [])

/-- The permutation registers an instruction reads. -/
def permReads (i : Instr) : List Nat :=
  match i with
  | .pload _ _ _ => []
  | .prand _ _ _ => []
  | .pidn _ _ => []
  | .pcomp _ a b => [a, b]
  | .pinv _ a => [a]
  | .pmov _ a => [a]
  | _ => i.fields.filterMap (fun f => match f with | .pm n => some n | _ => none)

/-- The voted operands of an instruction: each register it reads, and what it reads of the part, is a value of its own. Of registers only
tags, foul, the loop ports, the common and the permutation registers can differ between the issues. (DEDUCED, log 27) -/
def voteC (i : Instr) (x y z : Latch) : Option Latch :=
  let val := fun (l : Latch) => l.seen.getD 0
  let all := x.seen.isSome && y.seen.isSome && z.seen.isSome
  if (asks i).all (fun n => two (x.reg 0 n) (y.reg 0 n) (z.reg 0 n)) ∧ (all = false ∨ two (val x) (val y) (val z)) ∧
      (permReads i).all (fun n => two (kgetD x.pm n []) (kgetD y.pm n []) (kgetD z.pm n [])) then
    some { z with
      tags := maj x.tags y.tags z.tags
      foul := maj x.foul y.foul z.foul
      lp := (List.range 4).map (fun k => maj (x.reg 0 (120 + k)) (y.reg 0 (120 + k)) (z.reg 0 (120 + k)))
      cm := (List.range 4).map (fun k => maj (x.reg 0 (124 + k)) (y.reg 0 (124 + k)) (z.reg 0 (124 + k)))
      pm := if x.pm = y.pm then x.pm else (permReads i).foldl (fun m n => kput m n (if kgetD x.pm n [] = kgetD y.pm n [] then kgetD x.pm n [] else kgetD z.pm n [])) z.pm
      seen := if all then some (maj (val x) (val y) (val z)) else z.seen }
  else none

/-- An A-class instruction as one issue computes it: its operands, what it writes apart from flags, and the flags that it raises (R139). -/
def ballot (i : Instr) (s : State) (l : Latch) : Latch × State × Word :=
  let u := run i { s.modT (fun t => { t with fcsr := 0, flags := 0 }) with ph := 2, latch := some l }
  (l, { u.modT (fun t => { t with fcsr := 0, flags := 0 }) with latch := none }, u.th.fcsr ||| wd u.th.flags)

/-- The operands of the issue whose result and flags each equal those of another (R53, R139). An instruction that asks a unit, or whose own
causes fail, is voted by its operands. -/
def voteA (i : Instr) (x y z : Latch) (s : State) : Option Latch :=
  let bs := [x, y, z].map (ballot i s)
  if i.vector ∨ bs.any (fun b => b.2.1.trap.isSome || decide (b.2.1.th.st ≠ s.th.st ∧ b.2.1.th.st ≠ .waiting .alu)) then voteC i x y z
  else
    (bs.find? (fun b =>
      decide (2 ≤ (bs.filter (fun c => decide (c.2.1 = b.2.1))).length ∧ 2 ≤ (bs.filter (fun c => decide (c.2.2 = b.2.2))).length))).map (·.1)

/-- The operands of one instruction of a voted bundle. -/
def voteOf (i : Instr) (x y z : Latch) (s : State) : Option Latch :=
  if bodyIsA (encodeBody i) then voteA i x y z s else voteC i x y z

/-- A VOTE event (R233); nothing is written. -/
def voteFail (s : State) : State := raiseMine { code := cVote, eval := s.th.pc } (s.modT (fun t => { t with votes := [] }))

/-- Whether an instruction takes its condition, count or target from registers; in a gang those of the leader (R38). -/
def steers : Instr → Bool
  | .jmpl _ _ => true
  | .lsetupReg _ _ _ => true
  | .cmp _ _ _ _ => true
  | .cmpW _ _ _ _ => true
  | .fcmpD _ _ _ _ => true
  | .fcmpS _ _ _ _ => true
  | _ => false

/-- The operands of an instruction in a gang member, given its leader's. -/
def led (ctl : Option Latch) (i : Instr) (l : Latch) : Latch :=
  match ctl with
  | some k => if steers i then k else l
  | none => l

/-- A bundle that waits to issue again has been voted on but for its last issue. -/
def keepVotes (vs : List Latch) (t : State) : State :=
  match t.th.st with
  | .waiting w => if w.again ∧ t.trap.isNone then t.modT (fun x => { x with votes := vs }) else t
  | .ready => t

/-- A bundle under VOTE: fetched, decoded and checked by R54 steps 1 to 4 at the first issue (R271), the effect at the third. -/
def voted (b : Bundle) (ctl : Option Latch) (s : State) (body : Latch → Latch → State → State) : State :=
  let c := match b.slots with | .lone i => i | .pair i _ => i
  let z := { s.snapshot with seen := looks c s }
  match s.th.votes with
  | [] =>
    match (instrsOf b).findSome? (fun i => precheck i s) with
    | some c => takeTrap c s
    | none =>
      match portCheck s ((instrsOf b).flatMap s.ports) with
      | some (.inl c) => takeTrap c s
      | some (.inr w) => waitFor w 112 s
      | none => s.modT (fun t => { t with votes := [z], voteW := s.bundle })
  | [x] => s.modT (fun t => { t with votes := [x, z] })
  | x :: y :: _ =>
    let vote := fun (i : Instr) => if ctl.isSome ∧ steers i then ctl else voteOf i x y z s
    let go := fun (l m : Latch) => keepVotes [x, y] (body l m (s.modT (fun t => { t with votes := [] })))
    match b.slots with
    | .lone i =>
      match vote i with
      | some l => go l l
      | none => voteFail s
    | .pair c a =>
      match vote c, vote a with
      | some l, some m => go l m
      | _, _ => voteFail s

/-! ### What the part's own checks say of a bundle (R231, R232) -/

/-- The address of the effect of a scalar memory instruction or a vector store, 0 for an effect without one (R232). (DESIGN
CHOICE, log 26) -/
def effectAddr (i : Instr) (s : State) : Word :=
  match i with
  | .st _ a w o => s.rd a + o.offM (2 ^ w)
  | .stl _ a _ _ o => s.rd a + o.offMS
  | .ldf _ a _ _ o => s.rd a + o.offMS
  | .ldfe _ a _ _ o => s.rd a + o.offMS
  | .stf _ a _ o => s.rd a + o.offMS
  | .ste _ a _ o => s.rd a + o.offMS
  | .sete a _ o => s.rd a + o.offMS
  | .setf a _ o => s.rd a + o.offMS
  | _ =>
    let p := primary i
    if p = 0x22 then (vscal i s).getD 0 0
    else if [0x0C, 0x0D, 0x0E, 0x0F, 0x11, 0x20].contains p then
      (i.fields.findSome? (fun f => match f with | .src n => some (s.rd n) | .run n _ => some (s.rd n) | .head n => some (s.rd n) | _ => none)).getD 0
    else 0

/-- Whether an instruction has a side effect that leaves the etlet, which a battery pair compares (R232): stores, atomics,
full/empty operations, CMO, engine commands, MMA, sync instructions, messages, network, midfield, sweeper and queue operations, EXIT,
LAUNCH and its like, and loop-port words. (DESIGN CHOICE, log 26) -/
def compared (i : Instr) : Bool :=
  (match i with
    | .exit => true
    | .put _ => true
    | .get _ => true
    | .tsend _ _ _ => true
    | .pstore _ _ => true
    | _ => [0x07, 0x09, 0x0A, 0x0B, 0x0C, 0x0D, 0x0E, 0x0F, 0x11, 0x12, 0x14, 0x17, 0x18, 0x19, 0x1B, 0x1C, 0x1D, 0x1E, 0x22, 0x24].contains (primary i))
  || i.fields.any (fun f => f.lpWrite.isSome)

/-- What the part's checks make of a bundle that raised no cause of its own, `s` before it and `t` after it: in detect-only mode
a failed check of a register that it reads raises the error interrupt, starts the cluster's self-test and is a DABORT (R231).
Whether a check fails is a free value. (DESIGN CHOICE, log 25) -/
def partChecks (b : Bundle) (s t : State) : State :=
  let is := instrsOf b
  let s := s.modT (fun x => { x with votes := [] })
  if t.trap.isSome then t
  else if s.etl.detect ∧ is.any (fun i => i.fields.any Fld.fileRead) then
    if Config.regCheckFails s.free then
      let die := dieOf s.eid
      let s := testSoon die (0x40 + clusterOf s.eid % 64) (scratch s.eid) (s.modDie die (fun d => { d with irq := true }))
      takeTrap { code := cDabort, eval := Config.freeWord s.free } { s with free := s.free + 1 }
    else { t with free := t.free + 1 }
  else t

/-- The comparison of a battery pair's side effects before they are made (R232, R233). (DESIGN CHOICE, log 26) -/
def pairCompare (b : Bundle) (s t : State) : State :=
  match (instrsOf b).find? compared with
  | none => t
  | some i =>
    if s.th.partner = none ∨ t.trap.isSome then t
    else if Config.batteryDiffers s.free then
      raiseMine { code := cBattery, eval := effectAddr i s } { s with free := s.free + 1 }
    else { t with free := t.free + 1 }

/-! ### One bundle -/

/-- Issues a decoded bundle with given operands. -/
def issueSlots (sl : Slots) (lc la : Latch) (s : State) : State :=
  match sl with
  | .lone i => (run i { s with latch := some lc }).clean
  | .pair c a => pair lc la c a s

/-- The effect of a decoded bundle with given operands, after a battery pair's comparison. -/
def bundleEffect (b : Bundle) (lc la : Latch) (s : State) : State := pairCompare b s (issueSlots b.slots lc la s)

/-- The effect of a bundle without VOTE; a gang member takes its control from the leader's registers (R38). -/
def plainEffect (b : Bundle) (ctl : Option Latch) (s : State) : State :=
  match b.slots with
  | .lone i =>
    match ctl with
    | some k => if steers i then issueSlots b.slots k k s else (run i s).clean
    | none => (run i s).clean
  | .pair c a => pair (led ctl c s.snapshot) (led ctl a s.snapshot) c a s

/-- Issues the bundle of word `w` in the thread in focus (R51 to R54). -/
def issueWord (ctl : Option Latch) (w : Nat) (s : State) : State :=
  let s := { s.clean with trap := none, bundle := w, bpc := s.th.pc }
  match decodeBundle w with
  | none => resState (execIllegalEncoding w s) s
  | some b =>
    partChecks b s (if b.vote then voted b ctl s (bundleEffect b) else pairCompare b s (plainEffect b ctl s))

/-- The bundle at `g` has been fetched through its home L2 (R83, R90). -/
def State.fetched (s : State) (g : Nat) : State := s.l2Touch s.kern.key g

/-- Fetches and issues the bundle at pc, with `body` for its word; a pending event comes first (R54, R223). One under VOTE is fetched at its
first issue alone (R271). -/
def nextBundle (body : Nat → State → State) (s : State) : State :=
  if s.th.events ≠ [] ∧ s.betweenBundles = true then resState (execEventDelivery s.eid s.slot s) s
  else if s.th.votes ≠ [] then body s.th.voteW s
  else match s.fetch with
    | .bad c => resState (execFetchFault c s) s
    | .miss => waitFor s.fetchWait 112 s
    | .ok g _ => body (s.bundleWord g) (s.fetched g)

/-- Passes up to `n` annulled bundles: each is fetched, counts for the loops and takes no turn (R55, R292). (DEDUCED, log 19) -/
def passSkip : Nat → State → State
  | 0, s => s
  | n + 1, s =>
    if s.th.skip = 0 then s
    else match s.fetch with
      | .bad c => resState (execFetchFault c s) s
      | .miss => waitFor s.fetchWait 112 s
      | .ok g _ => passSkip n ((s.fetched g).modT (fun t => { endTest t with skip := t.skip - 1 }))

/-! ### Gangs and battery pairs (R38, R232) -/

/-- A member follows its leader's control: the next bundle, annulled ones, the loops and the counts of those that are active (R38, R327).
(DEDUCED, log 28) -/
def follow (l : Thread) (t : Thread) : Thread :=
  { t with
    pc := l.pc, skip := l.skip, ls0 := l.ls0, le0 := l.le0, ls1 := l.ls1, le1 := l.le1, status := setBits t.status 1 2 (bits l.status 2 1),
    lc0 := if l.la 0 then l.lc0 else t.lc0, lc1 := if l.la 1 then l.lc1 else t.lc1 }

/-- Whether a bundle sets up a loop. -/
def setsLoop (w : Nat) : Bool :=
  match decodeBundle w with
  | some b => (instrsOf b).any (fun i => decide (primary i = 5))
  | none => false

/-- Runs `f` in the slot in focus of each of the etlets `es`. -/
def eachMember (es : List Nat) (f : State → State) (s : State) : State := es.foldl (fun s e => within e s.slot f s) s

/-- The other members follow the leader in focus (R38), who has passed `n` annulled bundles. -/
def followAll (es : List Nat) (n : Nat) (s : State) : State :=
  let l := s.th
  eachMember (es.filter (fun e => decide (e ≠ s.eid))) (fun s => s.modT (fun t => follow l (loop (fun _ t => endTest t) 0 n t))) s

/-- The traps of a gang's members, and their waits to issue again. -/
structure Outs where
  traps : List (Nat × Cause) := []
  waits : List (Nat × Wait) := []

/-- The bundle `w` in each of the members `es` of a gang, its leader in focus. -/
def runMembers (es : List Nat) (w : Nat) (s : State) : State × Outs :=
  let k := s.snapshot
  es.foldl (fun (r : State × Outs) e =>
    let t := within e s.slot (issueWord (if e = s.eid then none else some k) w) r.1
    match t.trap, (t.focus e s.slot).th.st with
    | some c, _ => (t, { r.2 with traps := r.2.traps ++ [(e, c)] })
    | none, .waiting x => (t, if x.again then { r.2 with waits := r.2.waits ++ [(e, x)] } else r.2)
    | none, .ready => (t, r.2)) (s, {})

/-- What the part's own checks of the members' registers have begun stays (R231): the error interrupt and the self-test of their die, as in
`t`. -/
def keepChecks (t s : State) : State :=
  let d := dieOf s.eid
  let x := kgetD t.dies d {}
  if x.irq = s.myDie.irq ∧ x.testUnit = s.myDie.testUnit ∧ x.testsDue = s.myDie.testsDue then s
  else s.modDie d (fun y => { y with irq := x.irq, testUnit := x.testUnit, testGpa := x.testGpa, testTid := x.testTid, testsDue := x.testsDue })

/-- What the member in focus is before its bundle. -/
def State.gangNow (s : State) : GangBack :=
  let t := s.th
  { ctx := t, seqs := (s.etl.vq.filter (fun o => decide (o.tid = t.tid))).map (·.seq),
    caps := match s.etl.vrb with | some b => if b.owner = t.tid ∧ b.capture then b.ops.length else 0 | none => 0 }

/-- While a member awaits a reply, whose trap would undo the bundle `s` had before it in every member (R38). -/
def keepBack (es : List Nat) (s t : State) : State :=
  let waits := es.any (fun e => decide ((t.focus e t.slot).th.st ≠ .ready))
  eachMember es (fun u => u.modE (fun x => { x with
    gangBack := if waits then kput x.gangBack u.slot (s.focus u.eid u.slot).gangNow else kdel x.gangBack u.slot })) t

/-- Issues the bundle `w` in every member of a gang, its leader in focus (R38): a member's trap undoes it in all, and the gang
disbands; a member that must wait to issue it holds back all. TRAP, which all raise at once, is taken in each with its partner
complete, at the leader's next bundle (R54, R221). (DEDUCED, log 28) -/
def gangBundle (es : List Nat) (w : Nat) (s : State) : State :=
  let (t, r) := runMembers es w s
  let u := keepChecks t { s with free := t.free }
  let others := fun (f : Thread → Thread) (t : State) => eachMember (es.filter (fun e => decide (e ≠ s.eid))) (fun s => s.modT f) t
  match r.traps.filter (fun p => decide (p.2.code ≠ cTrapins)), r.waits, r.traps with
  | p :: ps, _, _ => (p :: ps).foldl (fun s q => within q.1 s.slot (takeTrap q.2) s) (disbandAll u)
  | [], q :: qs, _ => (q :: qs).foldl (fun s p => within p.1 s.slot (waitFor p.2 112) s) u
  | [], [], _ :: _ =>
    let l := t.th
    others (fun x => { x with epc := l.epc, estatus := setBits x.estatus 1 2 (bits l.estatus 2 1) }) t
  | [], [], [] =>
    let l := t.th
    let past := fun (x : Thread) => decide (x.st = .ready ∨ x.st = .waiting .alu) && x.deferred.isNone
    let t := if past l && t.thr.isSome then others (fun x =>
        if past x then
          (let x := follow l x
           if setsLoop w then { x with lc0 := l.lc0, lc1 := l.lc1 } else x)
        else x) t
      else t
    keepBack es s t

/-- The trailing thread of a battery pair stands as its leader does (R232). (DESIGN CHOICE, log 26) -/
def mirrorPair (s : State) : State :=
  match s.th.partner with
  | none => s
  | some p =>
    match s.etl.threads.find? (fun x => decide (x.2.tid = p)) with
    | none => s
    | some (l, q) =>
      let m := { s.th with tid := q.tid, base := q.base, vbase := q.vbase, partner := q.partner, trail := true, inq := [] }
      s.modE (fun e => { e with threads := kput e.threads l m })

/-! ### One turn -/

/-- Thread `tid` of kernel `kid` has issued: the kernel's yielding threads wait for it no longer (R386). -/
def Thread.sees (kid tid : Nat) (t : Thread) : Thread :=
  if t.kid = kid then { t with yieldAt := t.yieldAt.map (fun y => (y.1, y.2.filter (fun i => decide (i ≠ tid)))) } else t

/-- The slot in focus has received the turn. -/
def State.issued (s : State) : State :=
  let kid := s.th.kid
  let tid := s.th.tid
  let s := s.modT (fun t => { t with issuedAt := some s.now, yieldAt := none, issues := t.issues + 1 })
  s.modE (fun e => { e with
    kernels := kmod e.kernels kid {} (fun k => { k with rr := s.slot })
    lastTurn := some s.now
    threads := kmap e.threads (Thread.sees kid tid) })

/-- An A-class instruction left over from the bundle before completes. -/
def leftOver (s : State) : State :=
  let s := { s with trap := none }
  match s.th.deferred with
  | some (a, l) => completeA a l s
  | none => s

/-- Whether every thread of a gang, its leader in focus, is READY. -/
def State.allReady (s : State) (es : List Nat) : Bool := es.all (fun e => decide ((s.focus e s.slot).th.st = .ready))

/-- A gang's turn, its leader in focus: what the bundle before left over, annulled bundles, the members' events, and its next
bundle (R38, R223). (DEDUCED, log 28) -/
def gangTurn (s : State) : State :=
  let es := s.th.gang
  let before := decide (s.th.skip = 0) && es.all (fun e => (s.focus e s.slot).th.deferred.isNone)
  let s := followAll es 0 (eachMember es (fun s => leftOver s.issued) s)
  if s.allReady es = false then s
  else
    let n := s.th.skip
    let s := passSkip n s
    let s := followAll es (n - s.th.skip) s
    if s.trap.isSome ∨ s.th.st ≠ .ready ∨ (before = false ∧ es.any (fun e => (s.focus e s.slot).held) = true) then s
    else if es.any (fun e => let x := s.focus e s.slot; decide (x.th.events ≠ []) && x.betweenBundles) then
      eachMember es (fun s => if s.th.events ≠ [] then resState (execEventDelivery s.eid s.slot s) s else s) (disbandAll s)
    else nextBundle (gangBundle es) s

/-- What the slot in focus does with its turn: an A-class instruction left over, annulled bundles, and its next bundle. A
handler's 4,097th issue raises HANDLER (R40). -/
def slotTurn (s : State) : State :=
  if s.th.handler = 1 ∧ 4096 ≤ s.th.issues then takeTrap { code := cHandler, eval := 1 } s
  else if s.th.gangN ≠ 0 then within s.th.gangLead s.slot gangTurn s
  else
    let before := decide (s.th.skip = 0) && s.th.deferred.isNone
    let s := leftOver s.issued
    if s.trap.isSome ∨ s.th.st ≠ .ready then s
    else
      let s := passSkip s.th.skip s
      if s.trap.isSome ∨ s.th.st ≠ .ready ∨ (before = false ∧ s.held = true) then s
      else nextBundle (issueWord none) s

/-- A list of steps of the part, one after another. -/
def acts (fs : List (State → Res)) (s : State) : State := fs.foldl (fun s f => resState (f s) s) s

/-- What a cycle in which no slot of the etlet in focus issues ends with: the solver, and a verdict (R129, R193). -/
def idleEnd (s : State) : State := acts [execSolverComplete s.eid, execVerdictDelivery 0] s

/-- The start of the cycle after one in which no slot of the etlet in focus issued: what its threads wait for and its units hold moves on
by one step each. The agenda can order the part's steps in any other way. -/
def idle (s : State) : State :=
  let e := s.eid
  let s := s.slotList.foldl (fun s l =>
    acts [execTranslationWalkComplete e l, execMemoryReply e l, execLongLatencyWriteback e l, execExitComplete e l] s) s
  let s := acts [execStoreTakesEffect e, execStoreReply e, execVectorWriteback e, execVectorStart e, execMmaComplete e, execMmaStart e,
    execFaggGroupClose e, execHandlerStart e, execActiveMessageArrival e, execAbsent e,
    execLoopPortWordArrival e, execGoArrival e, execParkedThreadPlace e, execBenchImageWrite e] s
  let s := s.etl.copyq.foldl (fun s c =>
    if c.running = false then acts [execCopyStart e c.seq] s
    else if c.kind = .put ∨ c.kind = .get then acts [execPutArrival e c.seq, execPutComplete e c.seq] s
    else acts [execCopyComplete e c.seq] s) s
  let s := s.etl.crIn.foldl (fun s c => acts [execLoopPortCreditReturn e c.1 c.2.1] s) s
  let s := s.clusters.foldl (fun s c => match c.2.writes with | l :: _ => acts [execMemoryWriteComplete c.1 l] s | [] => s) s
  acts [execCompletionReport 0, execPhaseMessage 0] s

/-- The turn of the etlet in focus in this cycle (R24), if a slot receives it. -/
def State.turnHere (s : State) : Option State := s.pick.map (fun l => within s.eid l (fun s => mirrorPair (slotTurn s)) s)

/-- A turn of etlet `e`. -/
def turn (e : Nat) (s : State) : State :=
  if e = s.eid then s.turnHere.getD s else (let x := s.focus e s.slot; x.turnHere.getD x).focus s.eid s.slot

/-- Cycle `now` ends. -/
def State.nextCycle (s : State) : State := { s with now := s.now + 1, phase := 0, poked := false, passed := false }

/-- A cycle ends once every etlet has given the turn that is due in it (R24, R48). -/
def State.endCycle (s : State) : State := (s.etletIds.foldl (fun s e => turn e s) s).nextCycle

/-- One cycle of the etlet in focus alone. -/
def cycle (s : State) : State :=
  match s.turnHere with
  | some t => t.nextCycle
  | none => { idle (idleEnd s).nextCycle with phase := 1 }

/-! ### The order of the events of one cycle (R131, R132, R178, R193, R248) -/

/-- The phase of a cycle to which a step of the part belongs: 0 corrections; 1 adoptions, token passes, the engines and freezes
of a voltage domain; 2 what bundles do, and all else; 3 advances, the solver, verdicts, sweepers and voltage steps; 4 the
umpire. (DESIGN CHOICE, log 124) -/
def eventPhase : Instr → Nat
  | .syncRoundStart _ => 0
  | .completionReport _ => 1
  | .phaseMessage _ => 1
  | .tokenPass _ _ => 1
  | .stepAdvance _ _ => 3
  | .memberAbsent _ => 1
  | .copyStart _ _ => 1
  | .copyComplete _ _ => 1
  | .putArrival _ _ => 1
  | .putComplete _ _ => 1
  | .mmaStart _ => 1
  | .mmaComplete _ => 1
  | .vectorStart _ => 1
  | .vectorWriteback _ => 1
  | .uvFreeze _ _ => 1
  | .errorDetected _ _ _ _ => 1
  | .uvStep _ _ _ => 3
  | .solverComplete _ => 3
  | .verdictDelivery _ => 3
  | .sweeperExamine _ _ => 3
  | .sweeperForce _ _ => 3
  | .umpireRoundEnd _ => 4
  | _ => 2

/-- The machine at phase `p` of a cycle: this one, or the next where this one is past it. After a SPOKE no arrival of its cycle is to come
(R131), and after a TOKR no denial (R365). -/
def State.enter (p : Nat) (s : State) : State :=
  if p < s.phase ∨ (s.poked = true ∧ 1 ≤ p ∧ p ≤ 2) ∨ (s.passed = true ∧ p = 3) then { s.nextCycle with phase := p } else { s with phase := p }

/-- Whether a constructor is a step of the part and no instruction of a bundle: only these have no encoding. -/
def isEvent (i : Instr) : Bool := decide (encodeBody i = 0 ∧ i ≠ .nop)

/-! ### Placing an instruction to be fetched -/

/-- A page table leaf that maps every access to the page at `gpa` (Table 4.2). -/
def fetchLeaf (gpa : Nat) : Word := wd (gpa + 0x3F)

/-- A pc that a bundle can be fetched from: the thread's own where it can, else 0. -/
def fetchPc (pc : Word) : Word :=
  if canonical pc ∧ inWindow pc = false ∧ inMidWindow pc = false ∧ pc.toNat % 8 = 0 then pc else 0

/-- The slot in focus holds a READY thread of a kernel that owns this cycle's turn and whose turn it is. -/
def seatFetch (s : State) : State :=
  let new : Thread := { limit := 112, vlimit := 32, tid := s.nextTid }
  let t := s.thr.getD new
  let t := { t with
    st := .ready, pc := fetchPc t.pc, issuedAt := none, yieldAt := none, deferred := none, kill := none, votes := [], skip := 0,
    events := [], gangN := 0, trail := false, issues := 0, wokenAt := none, pops := [], after := none, vfl := none }
  let k := (kget s.etl.kernels t.kid).getD { pregs := 32 }
  let k := { k with rr := if s.slot = 0 then 63 else s.slot - 1 }
  { s with
    phase := 0
    poked := false
    passed := false
    thr := some t
    nextTid := if s.thr.isNone then s.nextTid + 1 else s.nextTid
    etl := { s.etl with slots := kput s.etl.slots (s.now % 64) t.kid, kernels := kput s.etl.kernels t.kid k, lastTurn := none } }

/-- The first HBM page of the package of the etlet in focus answers, and nothing on its die keeps the turn away. -/
def readyFetch (s : State) : State :=
  let g := pkgOf s.eid * 2 ^ 47
  let p := s.pkg (pkgOf s.eid)
  let p := { p with
    ready := p.ready ||| 1, dies := p.dies ||| 1, retired := p.retired.filter (fun a => decide (a ≠ g))
    clusters := (List.range 4).map (fun i => (i, BitVec.allOnes 64)) }
  let s := { s with pkgs := kput s.pkgs (pkgOf s.eid) p }
  let s := s.modDie (dieOf s.eid) (fun d => { d with testUnit := none, limit := 0 })
  s.modCl (homeCluster g) (fun c => { c with badLines := [] })

/-- The bundle `w` where the thread in focus fetches, mapped by the translation cache. -/
def storeFetch (w : Nat) (s : State) : State :=
  let g := pkgOf s.eid * 2 ^ 47
  let key := s.kern.key
  let pc := s.th.pc
  let en : TEntry := ⟨pc.toNat / 65536, 3, fetchLeaf g, key⟩
  let s := s.modE (fun e => { e with tcache := en :: e.tcache.filter (fun t => !t.hits key pc) })
  let a := g + pc.toNat % 65536
  (s.modCl (homeCluster a) (fun c => { c with badLines := [] })).wrMem key a 8 w

end Sys2Proof.Machine
end

