-- ==== Sys2Proof/Machine/Step.lean ====
section
/-! DEFINITION. The step: what stands first on the agenda, or with an empty agenda one cycle of the etlet in focus. The agenda
is the model's own: it says in which order the part's steps, the turns of its etlets and its cycles come. -/

namespace Sys2Proof.Machine

/-- One step. (DESIGN CHOICE, log 5) (DESIGN CHOICE, log 10) (DESIGN CHOICE, log 12) -/
def step (s : State) : Host.Outcome State Fault Refusal :=
  match s.agenda with
  | [] => .next (cycle (s.enter 2))
  | .event i :: r => if isEvent i then exec i (State.enter (eventPhase i) { s with agenda := r }) else .next { s with agenda := r }
  | .turn e :: r =>
    if s.endpoint e ∧ classOf e ≤ 1 then .next (turn e (State.enter 2 { s with agenda := r })) else .fault .noSuchEndpoint
  | .tick 0 :: r => .next { s with agenda := r }
  | .tick (n + 1) :: r => .next { s.endCycle with agenda := .tick n :: r }

/-- `s` with the instruction of bits `w` where step fetches its next one: a READY thread in the slot in focus whose turn it is,
its kernel, the page that its pc names mapped and ready, and the bundle there. (DESIGN CHOICE, log 6) -/
def State.withFetchWord (s : State) (nbits w : Nat) : State :=
  { storeFetch (tableBundle nbits w) (readyFetch (seatFetch s)) with agenda := [] }

end Sys2Proof.Machine
end

