-- ==== Sys2Proof/Safety.lean ====
section
/-! DEFINITION. What the claims call a well-formed bundle, a safe state, a step that runs and an instruction that issues. -/

namespace Sys2Proof

open Machine

/-- Whether an instruction of a kind may stand beside the literal `k` of a LONE bundle, or with none in a pair (R52). -/
def KKind.fits : KKind → Option Nat → Bool
  | .any, _ => true
  | .pairOnly, k => k.isNone
  | .loneK v, k => decide (k = some v)

/-- A bundle that has an encoding (R49, R51, R52): well-formed instructions of a bundle, each where it may stand. -/
def Bundle.wf (b : Bundle) : Bool :=
  match b.slots with
  | .lone i => i.wf && !isEvent i && (match i.kind with | .pairOnly => false | _ => true)
  | .pair c a => c.wf && a.wf && !isEvent c && !isEvent a && !bodyIsA (encodeBody c) && bodyIsA (encodeBody a) &&
      c.kind.fits none && a.kind.fits none

/-- The memory is in its canonical form. -/
abbrev MemOk (s : State) : Prop := Memory.wf s.mem = true

/-- A step that answers a next state: the machine does not stop. -/
abbrev Runs (s : State) : Prop := ∃ t, step s = .next t

/-- The instruction passes the checks that every instruction makes at its issue in a LONE bundle: a READY thread, no trap
taken, no value of it voted on, its encoding present on this etlet, privilege, windows, read-only destinations, and its loop ports (R54
steps 2 to 4, R59). -/
abbrev Issues (i : Instr) (s : State) : Prop :=
  s.ph = 0 ∧ s.trap = none ∧ s.th.st = .ready ∧ precheck i s = none ∧ portCheck s (s.ports i) = none ∧ s.latch = none

/-- The state in which an instruction's own effect begins. -/
def start (s : State) : State := { s with trap := none }

/-- The instruction answers a next state, in which its own effect left `t` and the words of the loop ports it read are gone. -/
abbrev Completes (i : Instr) (s t : State) : Prop := exec i s = .next (popPorts (s.ports i) t)

/-- The instruction takes the trap `c`, and does nothing else. -/
abbrev Traps (i : Instr) (s : State) (c : Cause) : Prop := exec i s = .next (takeTrap c (start s))

/-- The instruction leaves its thread waiting for `w`, to issue again. -/
abbrev Waits (i : Instr) (s : State) (w : Wait) : Prop := exec i s = .next (waitFor w 112 (start s))

/-- An access of `width` bytes at `va` passes its checks and reaches `gpa` (R71, R40). -/
abbrev Reaches (s : State) (kind : Acc1) (width : Nat) (va : Word) (gpa : Nat) (ca : Bool) : Prop :=
  va.toNat % width = 0 ∧ s.xlate s.user kind va = .ok gpa ca ∧ (s.handoff = true → inScratch s.eid gpa = true)

/-- No store of the thread has still to take effect (R99, R105). -/
abbrev Settled (s : State) : Prop := s.storesOut s.th.tid (fun _ => true) = false

/-- No thread anywhere waits for the accesses of others or for stores and verdicts of its team (R130, R383), so that the end of
an access wakes none. -/
abbrev Quiet (s : State) : Prop :=
  s.everyThread.any (fun t => match t.st with | .waiting .reach => true | .waiting (.sound _) => true | _ => false) = false

/-- No gang is forming on another etlet (R313). -/
abbrev Calm (s : State) : Prop :=
  s.etlets.any (fun p => p.2.threads.any (fun x => match x.2.st with | .waiting (.gang _) => true | _ => false)) = false

end Sys2Proof
end

