-- ==== Sys2Proof/Rules.lean ====
section
/-! DEFINITION. What the rules give for the instructions of one result, written in the arithmetic of numbers rather than in the
machine's operations: the right-hand sides of the claims. -/

namespace Sys2Proof.Rules

open Machine

/-- The signed value of an immediate whose short field has `n` bits (Table 3.3). -/
def immInt (n : Nat) : Imm → Int
  | .short v => if 2 ^ (n - 1) ≤ v then Int.ofNat v - Int.ofNat (2 ^ n) else Int.ofNat v
  | .long k => if 2 ^ 31 ≤ k then Int.ofNat k - Int.ofNat (2 ^ 32) else Int.ofNat k

/-- The unsigned value of an immediate. -/
def immNat : Imm → Nat
  | .short v => v
  | .long k => k

/-- A 32-bit number sign-extended to 64 bits. -/
def w32 (n : Int) : Word := BitVec.ofInt 64 (BitVec.ofInt 32 n).toInt

/-- One or zero. -/
def flag (b : Bool) : Word := if b then 1 else 0

/-- The condition of a compare on two numbers, with their signed values (R291). -/
def holds (cc : Nat) (x y : Nat) (i j : Int) : Bool :=
  match cc with
  | 0 => decide (x = y)
  | 1 => decide (x ≠ y)
  | 2 => decide (i < j)
  | 3 => decide (j ≤ i)
  | 4 => decide (x < y)
  | 5 => decide (y ≤ x)
  | 6 => decide (x &&& y ≠ 0)
  | _ => decide (x &&& y = 0)

/-- The integer instructions of one result (R274, R275, R286, R329, R333, R334, R336, R337, R346, R351, R353, R359, R385, R387):
destination and value, `r` giving the registers. -/
def intResult (i : Instr) (r : Nat → Word) : Option (Nat × Word) :=
  let n := fun k => (r k).toNat
  let z := fun k => (r k).toInt
  let setc := fun c d a b => some (d, flag (holds c (n a) (n b) (z a) (z b)))
  match i with
  | .add d a b => some (d, wd ((n a + n b) % 2 ^ 64))
  | .sub d a b => some (d, BitVec.ofInt 64 (z a - z b))
  | .and d a b => some (d, wd (n a &&& n b))
  | .or d a b => some (d, wd (n a ||| n b))
  | .xor d a b => some (d, wd (n a ^^^ n b))
  | .andn d a b => some (d, wd (n a &&& (2 ^ 64 - 1 - n b)))
  | .sll d a b => some (d, wd (n a * 2 ^ (n b % 64) % 2 ^ 64))
  | .srl d a b => some (d, wd (n a / 2 ^ (n b % 64)))
  | .sra d a b => some (d, BitVec.ofInt 64 (z a / 2 ^ (n b % 64)))
  | .rotr d a b => some (d, wd (n a / 2 ^ (n b % 64) + n a % 2 ^ (n b % 64) * 2 ^ (64 - n b % 64)))
  | .min d a b => some (d, BitVec.ofInt 64 (min (z a) (z b)))
  | .max d a b => some (d, BitVec.ofInt 64 (max (z a) (z b)))
  | .minu d a b => some (d, wd (min (n a) (n b)))
  | .maxu d a b => some (d, wd (max (n a) (n b)))
  | .addw d a b => some (d, w32 (z a + z b))
  | .subw d a b => some (d, w32 (z a - z b))
  | .mul d a b => some (d, BitVec.ofInt 64 (z a * z b))
  | .mulh d a b => some (d, BitVec.ofInt 64 (z a * z b / 2 ^ 64))
  | .mulhu d a b => some (d, wd (n a * n b / 2 ^ 64))
  | .mulw d a b => some (d, w32 (z a * z b))
  | .addi d a i => some (d, BitVec.ofInt 64 (z a + immInt 10 i))
  | .andi d a i => some (d, BitVec.ofInt 64 (immInt 10 i) &&& r a)
  | .ori d a i => some (d, wd (n a ||| immNat i))
  | .xori d a i => some (d, wd (n a ^^^ immNat i))
  | .slli d a k => some (d, wd (n a * 2 ^ k % 2 ^ 64))
  | .srli d a k => some (d, wd (n a / 2 ^ k))
  | .srai d a k => some (d, BitVec.ofInt 64 (z a / 2 ^ k))
  | .rotri d a k => some (d, wd (n a / 2 ^ k + n a % 2 ^ k * 2 ^ (64 - k)))
  | .movi d i => some (d, BitVec.ofInt 64 (immInt 17 i))
  | .movhi d k => some (d, wd (k * 2 ^ 32 + n d % 2 ^ 32))
  | .setcEq d a b => setc 0 d a b
  | .setcNe d a b => setc 1 d a b
  | .setcLt d a b => setc 2 d a b
  | .setcGe d a b => setc 3 d a b
  | .setcLtu d a b => setc 4 d a b
  | .setcGeu d a b => setc 5 d a b
  | .setcBs d a b => setc 6 d a b
  | .setcBc d a b => setc 7 d a b
  | _ => none

/-- The bit instructions (R286, R339, R353, R387). -/
def bitResult (i : Instr) (r : Nat → Word) : Option (Nat × Word) :=
  let n := fun k => (r k).toNat
  match i with
  | .clz d a => some (d, wd (if n a = 0 then 64 else 63 - Nat.log2 (n a)))
  | .ctz d a => some (d, wd (((List.range 64).find? (fun k => (r a).getLsbD k)).getD 64))
  | .popc d a => some (d, wd ((List.range 64).filter (fun k => (r a).getLsbD k)).length)
  | .brev d a => some (d, (r a).reverse)
  | .bswap d a => some (d, wd ((List.range 8).foldl (fun v k => v + n a / 256 ^ k % 256 * 256 ^ (7 - k)) 0))
  | .sext d a k => some (d, BitVec.ofInt 64 (if (r a).getLsbD k then Int.ofNat (n a % 2 ^ k) - Int.ofNat (2 ^ k) else Int.ofNat (n a % 2 ^ k)))
  | .zext d a k => some (d, wd (n a % 2 ^ (k + 1)))
  | _ => none

/-- The divisions (R297): destination and value. -/
def divResult (i : Instr) (r : Nat → Word) : Option (Nat × Word) :=
  let n := fun k => (r k).toNat
  let z := fun k => (r k).toInt
  let q := fun d a b => some (d, if r b = 0 then BitVec.allOnes 64 else BitVec.ofInt 64 (Int.tdiv (z a) (z b)))
  let m := fun d a b => some (d, if r b = 0 then r a else BitVec.ofInt 64 (Int.tmod (z a) (z b)))
  match i with
  | .div d a b => q d a b
  | .rem d a b => m d a b
  | .divu d a b => some (d, if r b = 0 then BitVec.allOnes 64 else wd (n a / n b))
  | .remu d a b => some (d, if r b = 0 then r a else wd (n a % n b))
  | _ => none

/-- The compares that annul (R291): the number of bundles, and whether the condition holds. -/
def compare (i : Instr) (r : Nat → Word) (rhs : CmpRhs → Word) : Option (Nat × Bool) :=
  match i with
  | .cmp k c a b => some (k + 1, holds c (r a).toNat (rhs b).toNat (r a).toInt (rhs b).toInt)
  | .cmpW k c a b =>
    let x := (r a).toNat % 2 ^ 32
    let y := (rhs b).toNat % 2 ^ 32
    some (k + 1, holds c x y (BitVec.ofNat 32 x).toInt (BitVec.ofNat 32 y).toInt)
  | _ => none

/-- The scalar floating-point instructions of one result (R302, R306, R308, R310, R311): destination, code and flags. `r` gives
the operands and the old destination, `m` the rounding mode. -/
def fpResult (i : Instr) (r : Nat → Word) (m : Nat) : Option (Nat × Nat × Nat) :=
  let x := fun k => (r k).toNat
  let y := fun k => (r k).toNat % 2 ^ 32
  match i with
  | .faddD d a b => some (d, fpAdd fp64 m (x a) (x b))
  | .fsubD d a b => some (d, fpSub fp64 m (x a) (x b))
  | .fmulD d a b => some (d, fpMul fp64 m (x a) (x b))
  | .fminD d a b => some (d, fpMinMax fp64 false (x a) (x b))
  | .fmaxD d a b => some (d, fpMinMax fp64 true (x a) (x b))
  | .fcpsD d a b => some (d, fpCps fp64 (x a) (x b), 0)
  | .faddS d a b => some (d, fpAdd fp32 m (y a) (y b))
  | .fsubS d a b => some (d, fpSub fp32 m (y a) (y b))
  | .fmulS d a b => some (d, fpMul fp32 m (y a) (y b))
  | .fminS d a b => some (d, fpMinMax fp32 false (y a) (y b))
  | .fmaxS d a b => some (d, fpMinMax fp32 true (y a) (y b))
  | .fcpsS d a b => some (d, fpCps fp32 (y a) (y b), 0)
  | .fmaD d a b => some (d, fpFma fp64 0 m (x a) (x b) (x d))
  | .fmsD d a b => some (d, fpFma fp64 1 m (x a) (x b) (x d))
  | .fnmaD d a b => some (d, fpFma fp64 2 m (x a) (x b) (x d))
  | .fmaS d a b => some (d, fpFma fp32 0 m (y a) (y b) (y d))
  | .fmsS d a b => some (d, fpFma fp32 1 m (y a) (y b) (y d))
  | .fnmaS d a b => some (d, fpFma fp32 2 m (y a) (y b) (y d))
  | .fcvt d a k q => (let v := fcvt k (if q = 5 then m else q) (x a); some (d, v.1.toNat, v.2))
  | .frcp d a => some (d, fpRcp m (y a))
  | .frsq d a => some (d, fpRsq m (y a))
  | .fexp2 d a => some (d, fpExp2 m (y a))
  | .flog2 d a => some (d, fpLog2 m (y a))
  | .fclass d a => some (d, fpClass (y a), 0)
  | _ => none

/-- The long-latency floating-point instructions (R303). -/
def fpLongResult (i : Instr) (r : Nat → Word) (m : Nat) : Option (Nat × Nat × Nat) :=
  let x := fun k => (r k).toNat
  let y := fun k => (r k).toNat % 2 ^ 32
  match i with
  | .fdivD d a b => some (d, fpDiv fp64 m (x a) (x b))
  | .fdivS d a b => some (d, fpDiv fp32 m (y a) (y b))
  | .fsqrtD d a => some (d, fpSqrt fp64 m (x a))
  | .fsqrtS d a => some (d, fpSqrt fp32 m (y a))
  | _ => none

/-- The scalar accesses of memory (R71, R320 to R323, R352, R276, R287, R304): address, width in bytes and kind. -/
def access (i : Instr) (r : Nat → Word) : Option (Word × Nat × Acc1) :=
  match i with
  | .ld _ a w _ o => some (r a + o.offM (2 ^ w), 2 ^ w, .rd)
  | .st _ a w o => some (r a + o.offM (2 ^ w), 2 ^ w, .wr)
  | .lda _ a w _ _ o => some (r a + o.offMS, 2 ^ w, .rd)
  | .stl _ a w _ o => some (r a + o.offMS, 2 ^ w, .wr)
  | .ldf _ a _ _ o => some (r a + o.offMS, 8, .rd)
  | .ldfe _ a _ _ o => some (r a + o.offMS, 8, .rw)
  | .stf _ a _ o => some (r a + o.offMS, 8, .wr)
  | .ste _ a _ o => some (r a + o.offMS, 8, .wr)
  | .sete a _ o => some (r a + o.offMS, 8, .wr)
  | .setf a _ o => some (r a + o.offMS, 8, .wr)
  | .amoWAdd _ a _ | .amoWSwap _ a _ | .amoWAnd _ a _ | .amoWOr _ a _ | .amoWSmin _ a _ | .amoWSmax _ a _
  | .amoWUmin _ a _ | .amoWUmax _ a _ | .casW _ a _ | .faggW _ a _ => some (r a, 4, .rw)
  | .amoDAdd _ a _ | .amoDSwap _ a _ | .amoDAnd _ a _ | .amoDOr _ a _ | .amoDSmin _ a _ | .amoDSmax _ a _
  | .amoDUmin _ a _ | .amoDUmax _ a _ | .casD _ a _ | .faggD _ a _ => some (r a, 8, .rw)
  | _ => none

/-- A number of n bits as a signed one. -/
def signed (n x : Nat) : Int := if 2 ^ (n - 1) ≤ x then Int.ofNat x - Int.ofNat (2 ^ n) else Int.ofNat x

/-- The atomics and CAS (R277, R287): destination, address register, width, and the new value of a word that held `x`. -/
def atomic (i : Instr) (r : Nat → Word) (x : Nat) : Option (Nat × Nat × Nat × Nat) :=
  let y := fun b w => (r b).toNat % 256 ^ w
  let least := fun b w => if signed (8 * w) x ≤ signed (8 * w) (y b w) then x else y b w
  let most := fun b w => if signed (8 * w) x ≤ signed (8 * w) (y b w) then y b w else x
  match i with
  | .amoWAdd d a b => some (d, a, 4, (x + y b 4) % 2 ^ 32)
  | .amoWSwap d a b => some (d, a, 4, y b 4)
  | .amoWAnd d a b => some (d, a, 4, x &&& y b 4)
  | .amoWOr d a b => some (d, a, 4, x ||| y b 4)
  | .amoWSmin d a b => some (d, a, 4, least b 4)
  | .amoWSmax d a b => some (d, a, 4, most b 4)
  | .amoWUmin d a b => some (d, a, 4, min x (y b 4))
  | .amoWUmax d a b => some (d, a, 4, max x (y b 4))
  | .casW d a b => some (d, a, 4, if x = y d 4 then y b 4 else x)
  | .amoDAdd d a b => some (d, a, 8, (x + y b 8) % 2 ^ 64)
  | .amoDSwap d a b => some (d, a, 8, y b 8)
  | .amoDAnd d a b => some (d, a, 8, x &&& y b 8)
  | .amoDOr d a b => some (d, a, 8, x ||| y b 8)
  | .amoDSmin d a b => some (d, a, 8, least b 8)
  | .amoDSmax d a b => some (d, a, 8, most b 8)
  | .amoDUmin d a b => some (d, a, 8, min x (y b 8))
  | .amoDUmax d a b => some (d, a, 8, max x (y b 8))
  | .casD d a b => some (d, a, 8, if x = y d 8 then y b 8 else x)
  | _ => none

/-- The full/empty instructions (Table 4.7): destination, address register, offset and scope; whether the word must be EMPTY, if it
must be in one state; whether it is EMPTY after; the value stored, if one is. -/
def fullEmpty (i : Instr) (r : Nat → Word) (was : Bool) : Option ((Nat × Nat × Imm × Nat) × Option Bool × Bool × Option Word) :=
  match i with
  | .ldf d a _ c o => some ((d, a, o, c), some false, was, none)
  | .ldfe d a _ c o => some ((d, a, o, c), some false, true, none)
  | .stf d a c o => some ((112, a, o, c), none, false, some (r d))
  | .ste d a c o => some ((112, a, o, c), some true, false, some (r d))
  | .sete a c o => some ((112, a, o, c), none, true, none)
  | .setf a c o => some ((112, a, o, c), none, false, none)
  | _ => none

/-- Whether a vector instruction meets a cause of its own at issue (R378, R379). -/
def vectorCause (i : Instr) (s : State) : Option Cause :=
  match i with
  | .vld _ a _ => vmemCause 8 a false false i s
  | .vldStr _ a _ => vmemCause 4 a true false i s
  | .vldBc _ a _ => vmemCause 4 a false false i s
  | .vst _ a _ => vmemCause 8 a false true i s
  | .vstStr _ a _ => vmemCause 4 a true true i s
  | .vperm _ _ p => if s.perm p = [] ∨ 64 < (s.perm p).length then some (permFault p) else none
  | _ => none

/-- The FP32 sum of the 2^k lanes from lane `i` on, in the pairwise order of R155, with the flags of its additions. -/
def pairSum (rm : Nat) (v : Nat → Nat) : Nat → Nat → Nat × Nat
  | 0, i => (v i, 0)
  | k + 1, i =>
    let x := pairSum rm v k i
    let y := pairSum rm v k (i + 2 ^ k)
    let z := fpAdd fp32 rm x.1 y.1
    (z.1, x.2 ||| y.2 ||| z.2)

/-- Lane `j` of the result of an arithmetic vector instruction, with its flags (R372 to R376, R379, R381, R382): `v` gives the
lanes of a register as numbers below 2^32. -/
def lane (i : Instr) (rm : Nat) (sc : Word) (p : Perm) (v : Nat → Nat → Nat) (j : Nat) : Option (Nat × Nat) :=
  let z := fun n => signed 32 (v n j)
  let m := 2 ^ 32
  match i with
  | .vadd _ a b => some ((v a j + v b j) % m, 0)
  | .vsub _ a b => some ((v a j + m - v b j) % m, 0)
  | .vmul _ a b => some (v a j * v b j % m, 0)
  | .vmin _ a b => some (if z a ≤ z b then v a j else v b j, 0)
  | .vmax _ a b => some (if z a ≤ z b then v b j else v a j, 0)
  | .vminu _ a b => some (min (v a j) (v b j), 0)
  | .vmaxu _ a b => some (max (v a j) (v b j), 0)
  | .vand _ a b => some (v a j &&& v b j, 0)
  | .vor _ a b => some (v a j ||| v b j, 0)
  | .vxor _ a b => some (v a j ^^^ v b j, 0)
  | .vsll _ a b => some (v a j * 2 ^ (v b j % 32) % m, 0)
  | .vsrl _ a b => some (v a j / 2 ^ (v b j % 32), 0)
  | .vsra _ a b => some ((z a / 2 ^ (v b j % 32) % 2 ^ 32).toNat, 0)
  | .vperm _ a _ => some (v a (p.getD j j), 0)
  | .vsel _ a b c => some (if v c j = 0 then v b j else v a j, 0)
  | .vbcast _ _ => some (sc.toNat % m, 0)
  | .vfadd _ a b => some (fpAdd fp32 rm (v a j) (v b j))
  | .vfsub _ a b => some (fpSub fp32 rm (v a j) (v b j))
  | .vfmul _ a b => some (fpMul fp32 rm (v a j) (v b j))
  | .vfma _ a b c => some (fpFma fp32 0 rm (v a j) (v b j) (v c j))
  | .vfmin _ a b => some (fpMinMax fp32 false (v a j) (v b j))
  | .vfmax _ a b => some (fpMinMax fp32 true (v a j) (v b j))
  | .vfrcp _ a => some (fpRcp rm (v a j))
  | .vfexp2 _ a => some (fpExp2 rm (v a j))
  | .vcvt _ a c => some (vcvt c rm (v a j))
  | .vcmp _ a b c => if c < 8 then some (if holds c (v a j) (v b j) (z a) (z b) then m - 1 else 0, 0)
      else (let r := fpCmp fp32 (c - 8) (v a j) (v b j); some (if r.1 then m - 1 else 0, r.2))
  | .vred _ a k => if k = 0 then some (if j = 0 then pairSum rm (v a) 6 0 else (0, 0)) else some (if j = 0 then ((List.range 64).map (v a)).sum % m else 0, 0)
  | _ => none

/-- The copy-engine instructions (R293, R315): their causes, the tag they take, and the command they queue. -/
def copyCmd (i : Instr) (s : State) : Option (List (Option Cause) × Option Nat × CopyCmd) :=
  let r := s.rd
  match i with
  | .cpy a x m => some (cpyCause false false a m [lenFault (a + 2) (r (a + 2))] s, some x,
      { s.cmd .cpy (r a) (r (a + 1)) (r (a + 2)).toNat with mc := decide (m = 1) })
  | .cpyf a x m => some (cpyCause false false a m [lenFault (a + 2) (r (a + 2))] s, some x,
      { s.cmd .cpyf (r a) (r (a + 1)) (r (a + 2)).toNat with mc := decide (m = 1) })
  | .cpyg a x m => some (shapeCause a m s, some x,
      { s.cmd .cpyg (r a) (r (a + 1)) (bits (r (a + 2)) 63 32) with mc := decide (m = 1), rows := bits (r (a + 2)) 31 0, idx := r (a + 3) })
  | .cpys a x m => some (shapeCause a m s, some x,
      { s.cmd .cpys (r a) (r (a + 1)) (bits (r (a + 2)) 63 32) with mc := decide (m = 1), rows := bits (r (a + 2)) 31 0, idx := r (a + 3) })
  | .cpyp a x m p => some (cpyCause false false a m [(if bits (r (a + 2)) 63 32 ≠ 0 then some (illegalReg (a + 2)) else none),
        rowFault (a + 2) (bits (r (a + 2)) 31 0), if s.perm p = [] then some (permFault p) else none] s, some x,
      { s.cmd .cpyp (r a) (r (a + 1)) (bits (r (a + 2)) 31 0) with mc := decide (m = 1), perm := s.perm p })
  | .cpyr a x m b => some (cpyCause true false a m [match kget s.etl.rings b with
        | some g => if g.fits s.lkey (r (a + 2)).toNat then none else some (illegalReg (768 + b))
        | none => some (illegalReg (768 + b))] s, some x,
      { s.cmd .cpyr (r a) (r (a + 1)) (r (a + 2)).toNat with mc := decide (m = 1), ring := b })
  | .put a => some (handoffCause s :: putCause false a s, none, s.putCmd .put a)
  | .get a => some (handoffCause s :: putCause true a s, none, s.putCmd .get a)
  | _ => none

/-- How many 8-byte words a copy command moves (R159). -/
def copyCount (c : CopyCmd) : Nat :=
  match c.kind with
  | .cpyg => c.rows * (c.len / 8)
  | .cpys => c.rows * (c.len / 8)
  | .cpyp => c.perm.length * (c.len / 8)
  | _ => c.len / 8

/-- Source and destination of word `k` of a copy command (R159); `ix` gives the entries of its index list. -/
def copyPlace (c : CopyCmd) (ix : Nat → Nat) (k : Nat) : Word × Word :=
  let i := k / (c.len / 8)
  let w := 8 * (k % (c.len / 8))
  match c.kind with
  | .cpyg => (c.src + wd (ix i * c.len + w), c.dst + wd (i * c.len + w))
  | .cpys => (c.src + wd (i * c.len + w), c.dst + wd (ix i * c.len + w))
  | .cpyp => (c.src + wd (c.perm.getD i 0 * c.len + w), c.dst + wd (i * c.len + w))
  | _ => (c.src + wd (8 * k), c.dst + wd (8 * k))

/-- Word `k` of a command's source lies at `G k` of the own scratchpad. -/
def copyFrom (c : CopyCmd) (s : State) (src : Nat → Word) (n : Nat) (G : Nat → Nat) : Prop :=
  ∀ k, k < n → inWindow (src k) = true ∧ engineXlate (c.view (s.focus s.eid 64)) .rd (src k) = .inr (G k) ∧
    inScratch s.eid (G k) = true ∧ inScratch s.eid (G k + 7) = true

/-- The 8-byte words at `H` of the own scratchpad may be written: they lie apart from each other and from the sources at `G`, in no ring slot
and no page under migration, and no thread waits for one. -/
def copyTo (s : State) (n : Nat) (G H : Nat → Nat) : Prop :=
  (∀ k, k < n → H k % 8 = 0 ∧ inScratch s.eid (H k) = true ∧ inScratch s.eid (H k + 7) = true ∧ s.migCopy (H k) = none ∧ kgetD s.feq (H k / 8) [] = []) ∧
  ∀ k, k < n → ∀ l, l < n → (G k + 8 ≤ H l ∨ H l + 8 ≤ G k) ∧ (k ≠ l → H k + 8 ≤ H l ∨ H l + 8 ≤ H k)

/-- Every word of a command that no homes but the own scratchpad concern: `G` and `H` give its places, `ix` its index entries, at `I`. -/
def copyReady (c : CopyCmd) (s : State) (G H I ix : Nat → Nat) : Prop :=
  let n := copyCount c
  let v := c.view (s.focus s.eid 64)
  c.mc = false ∧ c.len % 8 = 0 ∧ c.moved = [] ∧ c.ixs = [] ∧
  copyFrom c s (fun k => (copyPlace c ix k).1) n G ∧ copyTo s n G H ∧
  (∀ k, k < n → inWindow (copyPlace c ix k).2 = true ∧ engineXlate v .wr (copyPlace c ix k).2 = .inr (H k) ∧ v.hazardAt (H k) 8 = false) ∧
  (c.kind = .cpyg ∨ c.kind = .cpys → ∀ i, i < c.rows → inWindow (c.idx + wd (4 * i)) = true ∧
    engineXlate v .rd (c.idx + wd (4 * i)) = .inr (I i) ∧ inScratch s.eid (I i) = true ∧ inScratch s.eid (I i + 3) = true ∧
    ix i = s.rdMem 0 (I i) 4 ∧ ∀ l, l < n → I i + 4 ≤ H l ∨ H l + 8 ≤ I i)

/-- The `n` 8-byte words at `G` have been copied to `H`, and no other byte of memory has changed. -/
def copied (n : Nat) (G H : Nat → Nat) (s t : State) : Prop :=
  (∀ k, k < n → ∀ j, j < 8 → memRd t.mem (H k + j) = memRd s.mem (G k + j)) ∧
  ∀ b, (∀ k, k < n → b < H k ∨ H k + 8 ≤ b) → memRd t.mem b = memRd s.mem b

/-- The magnitude of a finite code of a format, as a rational (R140). -/
def magQ (f : Fmt) (c : Nat) : ℚ :=
  if c / 2 ^ f.fb = 0 then (c : ℚ) * (2 : ℚ) ^ (1 - (f.bias : ℤ) - (f.fb : ℤ))
  else ((2 ^ f.fb + c % 2 ^ f.fb : ℕ) : ℚ) * (2 : ℚ) ^ ((c / 2 ^ f.fb : ℕ) - (f.bias : ℤ) - (f.fb : ℤ))

/-- The block instructions (R280, R281, R298, R299, R341 to R343): their causes, destination, cycles, where they write in the own
scratchpad and how many bytes at most, and, for one block of a format of fixed size, the block's bytes, d and flags. -/
def blockOp (i : Instr) (s : State) : Option (List (Option Cause) × Nat × Nat × Nat × Nat × Option (List Nat × Nat × Nat)) :=
  let r := s.rd
  let at_ := fun k => scratch s.eid + bits (r k) 17 0
  let bad := fun (b : Bool) k => if b then some (illegalReg k) else none
  let one := fun n (x : List Nat × Nat × Nat) => if n = 1 then some x else none
  let nan := fun (c : Nat) => if c = 255 then 1 else 0
  match i with
  | .qnt d a b =>
    let n := bits (r b) 15 8 + 1
    let f := bits (r b) 2 0
    let out := n * (if f = 3 then 34 else if f = 2 then 24 else 40)
    let q := quantise (mxFmt f) (s.values (at_ a))
    some ([canonFault [r a, r (a + 1)], alignFault 8 [r a, r (a + 1)], bad (decide (4 ≤ f ∨ (r b).toNat / 2 ^ 16 ≠ 0 ∨ bits (r b) 7 3 ≠ 0)) b,
      ownFault s [(r a, 128 * n), (r (a + 1), out)], ringFault s (r (a + 1)) out], d, 8 + (if f = 3 then 6 else 4) * n, at_ (a + 1), out,
      if f = 3 then none else one n (leBytes 8 q.1 ++ elemBytes f q.2.1, nan q.1, q.2.2))
  | .dqnt d a b =>
    let n := bits (r b) 15 8 + 1
    let f := bits (r b) 1 0
    let x := s.block f (at_ a)
    let v := x.2.map (fun y => fp32.put 0 false y)
    some ([canonFault [r a, r (a + 1)], alignFault 8 [r a, r (a + 1)], bad (decide (f = 3 ∨ (r b).toNat / 2 ^ 16 ≠ 0 ∨ bits (r b) 7 2 ≠ 0)) b,
      ownFault s [(r a, n * (if f = 2 then 24 else 40)), (r (a + 1), 128 * n)], ringFault s (r (a + 1)) (128 * n)], d, 8 + 4 * n, at_ (a + 1), 128 * n,
      one n (v.flatMap (fun y => leBytes 4 y.1), nan x.1, v.foldl (fun f y => f ||| y.2) 0))
  | .baddq d a b =>
    let n := bits (r b) 15 8 + 1
    let f := bits (r b) 1 0
    let sz := n * (if f = 2 then 24 else 40)
    let v := ((s.block f (at_ a)).2.zip (s.block f (at_ (a + 1))).2).map (fun p => fp32.out 0 (Val.add 0 p.1 p.2))
    let q := quantise (mxFmt f) (v.map (fun y => Val.of fp32 y.1))
    some ([canonFault [r a, r (a + 1), r (a + 2)], alignFault 8 [r a, r (a + 1), r (a + 2)],
      bad (decide (f = 3 ∨ (r b).toNat / 2 ^ 16 ≠ 0 ∨ bits (r b) 7 2 ≠ 0)) b,
      ownFault s [(r a, sz), (r (a + 1), sz), (r (a + 2), sz)], ringFault s (r (a + 2)) sz], d, 8 + 4 * n, at_ (a + 2), sz,
      one n (leBytes 8 q.1 ++ elemBytes f q.2.1, nan q.1, v.foldl (fun f y => f ||| y.2) q.2.2))
  | .scaleq d a b =>
    let f := bits (r b) 1 0
    let q := quantise (mxFmt f) (s.values (at_ a))
    some ([canonFault [r a], alignFault 8 [r a], bad (decide (f = 3 ∨ (r b).toNat / 4 ≠ 0)) b, ownFault s [(r a, 128)]], d, 12, at_ a, 0,
      some ([], q.1, if (s.values (at_ a)).any Val.isNan then 16 else 0))
  | _ => none

/-- What a CSR reads as after a permitted write of `v` (Tables 2.10, 3.7, 7.1, 8.14, 11.1 to 11.3, 12.1; R294, R295); one that
ignores the write keeps what it reads as. STATUS and STEST are not given here. -/
def csrPut (c : Nat) (s : State) (v : Word) : Word :=
  let low := wd (v.toNat / 8 * 8)
  match c with
  | 0x01 => wd (bits v 4 0)
  | 0x02 => low
  | 0x03 => wd (bits v 25 12 * 2 ^ 12 + bits v 8 0)
  | 0x04 => v
  | 0x05 => low
  | 0x06 => wd (bits v 12 8 * 2 ^ 8 + (if 5 ≤ bits v 7 5 then 0 else bits v 7 5) * 2 ^ 5 + bits v 4 0) |||
      (match s.th.vfl with | some (n, f) => if n = s.now then wd (f * 2 ^ 8) else 0 | none => 0)
  | 0x07 => v
  | 0x08 => low
  | 0x09 => low
  | 0x0A => low
  | 0x0B => low
  | 0x14 => wd (bits v 63 63 * 2 ^ 63 + bits v 37 3 * 2 ^ 3)
  | 0x15 => wd (bits v 63 63 * 2 ^ 63 + bits v 37 3 * 2 ^ 3)
  | 0x16 => wd (bits v 63 63 * 2 ^ 63 + bits v 37 3 * 2 ^ 3)
  | 0x17 => wd (bits v 63 63 * 2 ^ 63 + bits v 37 3 * 2 ^ 3)
  | 0x18 => wd (bits v 11 0)
  | 0x28 => wd (s.etl.nextSeen s.now * 2 ^ 32 + bits v 17 16 * 2 ^ 16 + bits v 15 0)
  | 0x80 => wd (bits v 2 0)
  | 0x81 => wd (bits v 5 0)
  | 0x82 => wd (bits v 11 4 * 16 + (if bits v 3 0 < 8 then bits v 3 0 else 15))
  | 0x83 => if (kget s.etl.kernels s.etl.ksel).isSome then v else 0
  | 0x84 => if (kget s.etl.kernels s.etl.ksel).isSome then wd (bits v 63 63 * 2 ^ 63 + bits v 49 48 * 2 ^ 48 + bits v 11 0) else 0
  | 0x85 => wd (bits v 22 0)
  | 0x86 => low
  | 0x87 => v
  | 0x88 => wd (bits v 11 0)
  | 0x89 => wd (bits v 63 32 * 2 ^ 32 + bits v 11 0)
  | 0x8B => wd (bits v 39 0)
  | _ => s.csr c

end Sys2Proof.Rules
end

