-- ==== Sys2Proof/Certificates/Slice0/Obligations.lean ====
section
/-! DEFINITION. The statements for the provers. Each docstring names the rules of the spec that a statement formalises, and the
log entry behind a choice of the model where it rests on one. -/

open Sys2Proof Sys2Proof.Machine

/-! ### Encoding and step -/

/-- R49 to R57: the words of a few instructions, one or more of each shape, decode to them. -/
def Obligations.DecodeWords : Prop :=
  decodeBundle 0x00000000A80A1838 = some ⟨false, .lone (.add 5 6 7)⟩ ∧
  decodeBundle 0x12345678B2080000 = some ⟨false, .lone (.movhi 4 0x12345678)⟩ ∧
  decodeBundle 0x28E1C38000000000 = some ⟨false, .pair .nop (.add 112 112 112)⟩ ∧
  decodeBundle 0x28E1C380460E1008 = some ⟨true, .pair (.ld 7 4 0 0 (.short 8)) (.add 112 112 112)⟩ ∧
  decodeBundle 0x0000000080000003 = some ⟨false, .lone .eret⟩ ∧
  decodeBundle 0x0000000080000004 = none

/-- R49 to R57 (derived): a bundle that has an encoding is decoded back from it, whole: LONE or pair, with VOTE or without,
every operand and the K word at every value that the encoding admits; and the encoding has 64 bits. -/
def Obligations.DecodeEncode : Prop :=
  ∀ b : Bundle, b.wf = true → decodeBundle (encodeBundle b) = some b ∧ encodeBundle b < 2 ^ 64

/-- R51, R53, R54, R24, R231 (derived): with an empty agenda, where the slot in focus receives the turn of the cycle and the bundle at its pc
is fetched and decodes to the LONE instruction i without VOTE, the step is exec of i on the state of the issuing slot, the bundle fetched
through its home L2; the part's marks of a bundle in progress are gone, and the cycle ends. Where the etlet's registers are in detect-only
mode and i, which reads one and raises no cause of its own, meets a failed check, the step takes DABORT at the bundle instead and memory
is unchanged. A pair's step is `pair` of its two instructions, both on the registers as they stood, and a VOTE bundle's is `voted`, fetched
once. No event is pending, and the thread is neither skipping nor in a gang, nor paired under battery, nor a message handler that
has issued 4,096 bundles.

A pair of an integer instruction beside NOP, BRL, LD or ST: both read the registers as they stood, both write, a register that both write
keeps the integer one's value, and control goes as the other instruction says. A VOTE bundle of one integer instruction: its first two
issues only note their operands, the third writes the value that two of three issues computed, and where all three differ nothing is
written and a VOTE event is raised. The model's choices behind it: log entries 4, 25, 27, 124 and 166. -/
def Obligations.StepRunsDecoded : Prop :=
  (∀ s : State,
    let r := s.enter 2
    let u : State := { r.issued with trap := none }
    let x := fun (w : Nat) (f : State) => ({ f.clean with trap := none, bundle := w, bpc := r.th.pc } : State)
    s.agenda = [] → r.pick = some r.slot → r.th.deferred = none → r.th.skip = 0 → r.th.events = [] → r.th.gangN = 0 →
    (r.th.handler = 1 → r.th.issues < 4096) → u.th.st = .ready → r.th.partner = none →
    (∀ i g ca t, r.th.votes = [] → u.fetch = .ok g ca → decodeBundle (u.bundleWord g) = some ⟨false, .lone i⟩ →
      exec i (x (u.bundleWord g) (u.fetched g)) = .next t → t.th.partner = none →
      ((r.etl.detect = false ∨ t.trap.isSome = true ∨ i.fields.any Fld.fileRead = false) → step s = .next t.clean.nextCycle) ∧
      (r.etl.detect = true → t.trap = none → i.fields.any Fld.fileRead = true →
        r.handoff = false → r.thr.isSome = true → r.th.status.getLsbD 4 = false →
        if Config.regCheckFails s.free then
          ∃ v, step s = .next v ∧ v.th.ecause = 6 ∧ v.th.epc = s.th.pc ∧ v.th.pc = s.th.svec ∧ v.mem = s.mem
        else step s = .next { t.clean.nextCycle with free := t.free + 1 })) ∧
    (∀ c a g ca, r.th.votes = [] → u.fetch = .ok g ca → decodeBundle (u.bundleWord g) = some ⟨false, .pair c a⟩ → r.etl.detect = false →
      let y := x (u.bundleWord g) (u.fetched g)
      (pair y.snapshot y.snapshot c a y).th.partner = none → step s = .next (pair y.snapshot y.snapshot c a y).nextCycle) ∧
    (∀ sl w f, decodeBundle w = some ⟨true, sl⟩ → r.etl.detect = false →
      ((∃ g ca, r.th.votes = [] ∧ u.fetch = .ok g ca ∧ w = u.bundleWord g ∧ f = u.fetched g) ∨ r.th.votes ≠ [] ∧ w = r.th.voteW ∧ f = u) →
      let t := voted ⟨true, sl⟩ none (x w f) (bundleEffect ⟨true, sl⟩)
      t.th.partner = none → step s = .next t.nextCycle)) ∧
  (∀ (s : State) (c a : Instr) (d : Nat) (v : Word), s.thr.isSome = true → s.th.st = .ready → s.clean = s → s.trap = none →
    Rules.intResult a s.rd = some (d, v) → d < 112 → precheck c s = none → precheck a s = none → portCheck s (s.ports c ++ s.ports a) = none →
    let t := pair s.snapshot s.snapshot c a s
    (c = .nop → t.live d = v ∧ (∀ n, n < 112 → n ≠ d → t.live n = s.live n) ∧ t.th.pc = (endTest s.th).pc) ∧
    (∀ o, c = .brl o → t.live d = v ∧ (d ≠ 1 → t.live 1 = s.th.pc + 8) ∧ (∀ n, n < 112 → n ≠ d → n ≠ 1 → t.live n = s.live n) ∧
      t.th.pc = s.th.pc + 8 * sext o 24) ∧
    (∀ n b w sg o g x ca, c = .ld n b w sg o → Reaches s .rd (2 ^ w) (s.rd b + o.offM (2 ^ w)) g ca → s.otherSlotMatch g (2 ^ w) = false →
      s.loadNow g (2 ^ w) ca = some x → n < 112 →
      t.live d = v ∧ (n ≠ d → t.live n = if sg = 1 then sext x (8 * 2 ^ w) else wd x) ∧ t.th.pc = (endTest s.th).pc) ∧
    (∀ n b w o g ca, c = .st n b w o → Reaches s .wr (2 ^ w) (s.rd b + o.offM (2 ^ w)) g ca → (regionOf g = 2 → inScratch s.eid g = true) →
      (inScratch s.eid g = true → s.hazardAt g (2 ^ w) = false) → s.sbufFull 1 = false → s.holds = false →
      t.live d = v ∧ t.th.pc = (endTest s.th).pc ∧ ∃ e, t.etl.sbuf = s.etl.sbuf ++ [e] ∧ e.gpa = g ∧ e.width = 2 ^ w ∧ e.data = s.rd n)) ∧
  ∀ (s : State) (i : Instr) (p q : Latch) (d : Nat) (v1 v2 v3 : Word), s.thr.isSome = true → Issues i s → s.clean = s → s.th.partner = none →
    s.th.kill = none → d < 112 →
    let z := s.snapshot
    let val := fun (l : Latch) => Rules.intResult i ({ s with latch := some l } : State).rd
    let vote := fun (ls : List Latch) => voted ⟨true, .lone i⟩ none (s.modT (fun t => { t with votes := ls })) (bundleEffect ⟨true, .lone i⟩)
    val p = some (d, v1) → val q = some (d, v2) → val z = some (d, v3) →
    vote [] = s.modT (fun t => { t with votes := [z], voteW := s.bundle }) ∧ vote [p] = s.modT (fun t => { t with votes := [p, z] }) ∧
    (v1 = v2 ∨ v1 = v3 ∨ v2 = v3 → (vote [p, q]).live d = (if v1 = v2 then v1 else v3) ∧
      (∀ n, n < 112 → n ≠ d → (vote [p, q]).live n = s.live n) ∧ (vote [p, q]).th.pc = (endTest s.th).pc ∧ (vote [p, q]).th.votes = []) ∧
    (v1 ≠ v2 → v1 ≠ v3 → v2 ≠ v3 → vote [p, q] = raiseMine { code := 0x0F, eval := s.th.pc } (s.modT (fun t => { t with votes := [] })))

/-- R54 step 2, R266: where the bundle fetched has no valid encoding, the step takes ILLEGAL with EVAL = the whole bundle, at
the bundle's own address. -/
def Obligations.StepIllegal : Prop :=
  ∀ (s : State) (g : Nat) (ca : Bool),
    let r := s.enter 2
    let u : State := { r.issued with trap := none }
    s.agenda = [] → r.pick = some r.slot → r.th.deferred = none → r.th.skip = 0 → r.th.events = [] → r.th.gangN = 0 → r.th.votes = [] →
    r.handoff = false → r.thr.isSome = true → r.th.status.getLsbD 4 = false → u.th.st = .ready → r.th.partner = none →
    u.fetch = .ok g ca → decodeBundle (u.bundleWord g) = none →
    ∃ t, step s = .next t ∧ t.th.ecause = 1 ∧ t.th.eval = wd (u.bundleWord g) ∧ t.th.epc = s.th.pc ∧ t.th.pc = s.th.svec ∧ t.mem = s.mem

/-- R7, R24 (derived; the agenda is the model's own): no instruction and no step of the part stops the machine: whatever the
state, each answers a next state; a step stops only where the agenda names an etlet that the system lacks.
The model's choices behind it: log entries 4 and 9. -/
def Obligations.NothingStops : Prop :=
  (∀ (i : Instr) (s : State), ∃ t, exec i s = .next t) ∧
  ∀ s : State, (∃ t, step s = .next t) ∨
    (step s = .fault .noSuchEndpoint ∧ ∃ e r, s.agenda = .turn e :: r ∧ ¬(s.endpoint e = true ∧ classOf e ≤ 1))

/-! ### Reset and invariants -/

/-- R237, R240, R241, R248: after power-on every READY bit is clear, HSEQACC, DSEQISS and the queue bases hold 0, UVCTL allows
undervolting in every domain and freezes none, no thread, kernel, launch or sync object exists and no byte of memory is listed,
so that memory has its canonical form. The model's choices behind it: log entries 1 (package 0 alone), 2 and 3 (the queue
bases). -/
def Obligations.ResetState : Prop :=
  (∀ p, (State.reset.pkg p).ready = 0 ∧ (State.reset.pkg p).dies = 0 ∧ (State.reset.pkg p).clusters = [] ∧
    (State.reset.pkg p).cqbase = 0 ∧ (State.reset.pkg p).rqbase = 0 ∧ (State.reset.pkg p).hseqacc = 0 ∧
    (State.reset.pkg p).dseqiss = 0 ∧ (State.reset.pkg p).uvEn = 0xFFFFF ∧ (State.reset.pkg p).uvFrozen = 0) ∧
  State.reset.thr = none ∧ State.reset.etl = {} ∧ State.reset.etlets = [] ∧ State.reset.launches = [] ∧ State.reset.mem = [] ∧
  State.reset.objs = [] ∧ MemOk State.reset

/-- Every step keeps memory in its canonical form: addresses strictly rising, and no entry equal to what an unlisted address
reads as (log entry 2). -/
def Obligations.StepKeepsMemOk : Prop := ∀ s t : State, MemOk s → step s = .next t → MemOk t

/-- R5: a value of n bytes stored in memory reads back, the byte at the lowest address being the least significant; and no byte
outside its n bytes changes, in a region that is not encrypted. -/
def Obligations.LittleEndian : Prop :=
  ∀ (s : State) (key a n v : Nat), MemOk s → (∀ i < n, encrypted (a + i) = false) →
    (s.wrMem key a n v).rdMem key a n = v % 256 ^ n ∧
    (∀ i < n, (s.wrMem key a n v).byte key (a + i) = BitVec.ofNat 8 (v / 256 ^ i)) ∧
    (∀ b, b < a ∨ a + n ≤ b → memRd (s.wrMem key a n v).mem b = memRd s.mem b)

/-! ### Registers -/

/-- R58, R28: g0 to g111 read what was last written to them, z reads zero, a write to z or to a read-only special changes
nothing, and a write to one register leaves every other as it was, common registers and the loop ports' queues among them. -/
def Obligations.RegisterFile : Prop :=
  ∀ (s : State) (n : Nat) (v : Word), s.thr.isSome = true → s.ph = 0 → s.th.kill = none → s.latch = none →
    (n < 112 → (s.wr n v).rd n = v) ∧ (114 ≤ n ∧ n ≤ 117 → (s.wr n v).rd n = v) ∧ s.rd 112 = 0 ∧ s.rd 113 = s.th.rank ∧
    (n = 112 ∨ n = 113 ∨ n = 118 ∨ n = 119 → s.wr n v = s) ∧
    (∀ m, m ≠ n → m < 128 → (s.wr n v).rd m = s.rd m) ∧ (s.wr n v).th.inq = s.th.inq ∧
    (s.wr n v).mem = s.mem ∧ (s.wr n v).th.status = s.th.status ∧ (s.wr n v).th.pc = s.th.pc ∧ (s.wr n v).th.fcsr = s.th.fcsr

/-- R27: a write to a common register in cycle c is read by the kernel's threads from cycle c + 8 on; in cycles c to c + 7
they read what they would have read without it. The register's writes stand in the order of their cycles, before and after. -/
def Obligations.CommonRegisters : Prop :=
  ∀ (s : State) (k : Nat) (v : Word) (n : Nat), k < 4 → s.thr.isSome = true → s.ph = 0 → s.th.kill = none → s.latch = none →
    (kgetD s.kern.cm k []).Pairwise (fun p q => p.1 < q.1) → (∀ p ∈ kgetD s.kern.cm k [], p.1 < s.now) →
    (kgetD (s.wr (124 + k) v).kern.cm k []).Pairwise (fun p q => p.1 < q.1) ∧ (∀ p ∈ kgetD (s.wr (124 + k) v).kern.cm k [], p.1 ≤ s.now) ∧
    (n < 8 → ({ s.wr (124 + k) v with now := s.now + n }).rd (124 + k) = ({ s with now := s.now + n }).rd (124 + k)) ∧
    (8 ≤ n → ({ s.wr (124 + k) v with now := s.now + n }).rd (124 + k) = v)

/-! ### Checks at issue and traps -/

/-- R269, R270 (and R54 steps 2 to 4, R28, R58, R272 in part): ERET, BENCHO, BENCHI, MAPSET, XINV, KEYSET and SELFT are privileged and
no other instruction is: in user mode each takes PRIV with EVAL = the bundle, and no check of another gives PRIV. On a gateway MMA,
ACLR, ASTO and ALD take ILLEGAL with EVAL = the bundle; every other instruction is checked there as elsewhere. An integer
instruction whose d lies outside the window takes WINDOW with EVAL = its number, and one whose d is a read-only special ILLEGAL
with EVAL = its number and INFO = 1. None has any other effect. -/
def Obligations.IssueChecks : Prop :=
  (∀ i : Instr, i.privileged = true ↔ i = .eret ∨ (∃ d a b, i = .bencho d a b ∨ i = .benchi d a b ∨ i = .xinv d a b) ∨
    ∃ d a, i = .mapset d a ∨ i = .keyset d a ∨ i = .selft d a) ∧
  (∀ (i : Instr) (s : State), i.privileged = true → s.user = true → s.ph = 0 → Traps i s { code := 0x02, eval := wd s.bundle }) ∧
  (∀ (i : Instr) (s : State) (c : Cause), i.privileged = false ∨ s.user = false → precheck i s = some c → c.code ≠ 0x02) ∧
  (∀ i : Instr, i.matrix = true ↔ (∃ r q c f p z w m, i = .mma r q c f p z w m) ∨ ∃ a b, i = .aclr a b ∨ i = .asto a b ∨ i = .ald a b) ∧
  (∀ (i : Instr) (s : State), i.matrix = true → s.gateway = true → s.ph = 0 → (dispatches i = true → s.dlogFull = false) →
    Traps i s { code := 0x01, eval := wd s.bundle }) ∧
  (∀ (i : Instr) (s : State) (e : Nat), i.matrix = false → precheck i { s with eid := e } = precheck i s) ∧
  (∀ (i : Instr) (s : State) (d : Nat) (v : Word), Rules.intResult i s.rd = some (d, v) → s.ph = 0 →
    (s.th.limit ≤ d ∧ d < 112 → Traps i s { code := 0x13, eval := wd d }) ∧
    (d = 113 ∨ d = 118 ∨ d = 119 → Traps i s { code := 0x01, eval := wd d, info := 1 }))

/-- R218: a trap of a thread outside the hand-off slots whose STATUS.EXL is 0 saves STATUS in ESTATUS and the bundle's address
in EPC, records the cause, sets S and EXL, clears LA, and goes to SVEC; the counts and bounds of the loops, every general
register and all of memory stay. -/
def Obligations.TrapEntry : Prop :=
  ∀ (s : State) (c : Cause), s.thr.isSome = true → s.handoff = false → s.th.status.getLsbD 4 = false → s.th.gangN = 0 →
    let t := takeTrap c s
    t.th.estatus = s.th.status ∧ t.th.epc = s.th.pc ∧ t.th.pc = s.th.svec ∧ t.th.eval = c.eval ∧
    bits t.th.ecause 7 0 = c.code % 256 ∧ bits t.th.ecause 8 8 = (if c.imp then 1 else 0) ∧
    bits t.th.ecause 15 12 = c.level % 16 ∧ bits t.th.ecause 25 16 = c.info % 1024 ∧
    t.user = false ∧ t.th.status.getLsbD 4 = true ∧ t.th.la 0 = false ∧ t.th.la 1 = false ∧ bits t.th.status 3 3 = bits s.th.status 3 3 ∧
    t.th.lc0 = s.th.lc0 ∧ t.th.lc1 = s.th.lc1 ∧ t.th.ls0 = s.th.ls0 ∧ t.th.le0 = s.th.le0 ∧ t.th.ls1 = s.th.ls1 ∧
    t.th.le1 = s.th.le1 ∧ t.th.g = s.th.g ∧ t.th.v = s.th.v ∧ t.th.fcsr = s.th.fcsr ∧ t.th.st = .ready ∧ t.mem = s.mem ∧
    t.etl.sbuf = s.etl.sbuf ∧ t.etl.copyq = s.etl.copyq

/-- R220: ERET in supervisor mode goes to EPC with STATUS as ESTATUS holds it, GANG apart; every register, the trap registers and
memory stay. -/
def Obligations.EretReturns : Prop :=
  ∀ s : State, Issues .eret s → s.thr.isSome = true →
    ∃ t, exec .eret s = .next t ∧ t.th.pc = s.th.epc ∧ bits t.th.status 2 0 = bits s.th.estatus 2 0 ∧
      bits t.th.status 4 4 = bits s.th.estatus 4 4 ∧ bits t.th.status 3 3 = bits s.th.status 3 3 ∧ bits t.th.status 63 5 = 0 ∧
      t.th.g = s.th.g ∧ t.th.lc0 = s.th.lc0 ∧ t.th.lc1 = s.th.lc1 ∧ t.th.epc = s.th.epc ∧ t.th.estatus = s.th.estatus ∧
      t.th.ecause = s.th.ecause ∧ t.th.eval = s.th.eval ∧ t.mem = s.mem

/-! ### Control -/

/-- R326: the end test: loop 1 first; an active loop whose LE is the bundle goes round while its count is above 1, and else ends
with its count kept; loop 0 is tested only where loop 1 does not go round. A bundle that only advances and an annulled one make
the test; a taken branch or jump, ERET and an LSETUP with count 0 send control elsewhere without it, the counts unchanged; an LSETUP
with a nonzero count makes it. -/
def Obligations.LoopEndTest : Prop :=
  (∀ s : State, s.thr.isSome = true →
    (Issues .nop s → ∃ t, exec .nop s = .next t ∧ t.th = endTest s.th) ∧
    (∀ n g ca, s.th.skip = n + 1 → s.fetch = .ok g ca → passSkip 1 s = (s.fetched g).modT (fun t => { endTest t with skip := n })) ∧
    (∀ o, Issues (.br o) s → ∃ t, exec (.br o) s = .next t ∧ t.th.pc = s.th.pc + 8 * sext o 24 ∧ t.th.lc0 = s.th.lc0 ∧ t.th.lc1 = s.th.lc1) ∧
    (∀ o, Issues (.brl o) s → ∃ t, exec (.brl o) s = .next t ∧ t.th.pc = s.th.pc + 8 * sext o 24 ∧ t.th.lc0 = s.th.lc0 ∧ t.th.lc1 = s.th.lc1) ∧
    (∀ a, Issues (.jmpl 112 a) s → (s.rd a).toNat % 8 = 0 → ∃ t, Completes (.jmpl 112 a) s t ∧ t.th.pc = s.rd a ∧ t.th.lc0 = s.th.lc0 ∧
      t.th.lc1 = s.th.lc1) ∧
    (Issues .eret s → ∃ t, exec .eret s = .next t ∧ t.th.pc = s.th.epc ∧ t.th.lc0 = s.th.lc0 ∧ t.th.lc1 = s.th.lc1) ∧
    (∀ i p r len, (i = .lsetupReg p r len ∨ i = .lsetupImm p (.short 0) len ∧ r = 112) → s.rd r = 0 → p < 2 → Issues i s →
      loopClash s.th p (s.th.pc + 8) (s.th.pc + 8 + 8 * wd len) = false → ∃ t, Completes i s t ∧ t.th.pc = s.th.pc + 8 + 8 * wd len + 8 ∧
        (p = 0 → t.th.lc1 = s.th.lc1) ∧ (p = 1 → t.th.lc0 = s.th.lc0)) ∧
    (∀ p r len, s.rd r ≠ 0 → p < 2 → Issues (.lsetupReg p r len) s → loopClash s.th p (s.th.pc + 8) (s.th.pc + 8 + 8 * wd len) = false →
      ∃ t, Completes (.lsetupReg p r len) s t ∧ t.th.pc = (endTest s.th).pc ∧
        (p = 0 → t.th.lc1 = (endTest s.th).lc1) ∧ (p = 1 → t.th.lc0 = (endTest s.th).lc0))) ∧
  ∀ t : Thread,
    (t.la 1 = true → t.pc = t.le1 → 1 < t.lc1.toNat →
      (endTest t).pc = t.ls1 ∧ (endTest t).lc1 = t.lc1 - 1 ∧ (endTest t).lc0 = t.lc0 ∧ (endTest t).status = t.status) ∧
    (t.la 1 = true → t.pc = t.le1 → t.lc1.toNat ≤ 1 → (endTest t).lc1 = t.lc1 ∧ (endTest t).la 1 = false) ∧
    ((t.la 1 = false ∨ t.pc ≠ t.le1) → (endTest t).lc1 = t.lc1 ∧ (endTest t).la 1 = t.la 1) ∧
    (¬(t.la 1 = true ∧ t.pc = t.le1 ∧ 1 < t.lc1.toNat) → t.la 0 = true → t.pc = t.le0 → 1 < t.lc0.toNat →
      (endTest t).pc = t.ls0 ∧ (endTest t).lc0 = t.lc0 - 1 ∧ (endTest t).la 0 = true) ∧
    (¬(t.la 1 = true ∧ t.pc = t.le1 ∧ 1 < t.lc1.toNat) → t.la 0 = true → t.pc = t.le0 → t.lc0.toNat ≤ 1 →
      (endTest t).pc = t.pc + 8 ∧ (endTest t).lc0 = t.lc0 ∧ (endTest t).la 0 = false) ∧
    (¬(t.la 1 = true ∧ t.pc = t.le1 ∧ 1 < t.lc1.toNat) → (t.la 0 = false ∨ t.pc ≠ t.le0) →
      (endTest t).pc = t.pc + 8 ∧ (endTest t).lc0 = t.lc0 ∧ (endTest t).la 0 = t.la 0) ∧
    (endTest t).g = t.g ∧ (endTest t).fcsr = t.fcsr

/-- R284, R285, R317: BR, BRL and JMPL go to their target; BRL writes g1 and JMPL its d with the address of the next bundle; a
loop whose body does not contain the target ends, another stays; other registers and memory stay. JMPL reads its target before
it writes d, and takes ALIGN with EVAL = a target that is no multiple of 8. -/
def Obligations.Branches : Prop :=
  (∀ (d a : Nat) (s : State), Issues (.jmpl d a) s → (s.rd a).toNat % 8 ≠ 0 →
    Traps (.jmpl d a) s { code := 0x03, eval := s.rd a }) ∧
  ∀ (i : Instr) (s : State) (dest : Word) (link : Nat),
    ((∃ o, i = .br o ∧ link = 112 ∧ dest = s.th.pc + 8 * sext o 24) ∨ (∃ o, i = .brl o ∧ link = 1 ∧ dest = s.th.pc + 8 * sext o 24) ∨
      ∃ a, i = .jmpl link a ∧ dest = s.rd a ∧ dest.toNat % 8 = 0) →
    Issues i s → s.thr.isSome = true →
    ∃ t, Completes i s t ∧ t.th.pc = dest ∧ t.mem = s.mem ∧ t.th.lc0 = ((start s).wr link (s.th.pc + 8)).th.lc0 ∧
      t.th.lc1 = ((start s).wr link (s.th.pc + 8)).th.lc1 ∧
      (∀ n, n < 116 → t.live n = ((start s).wr link (s.th.pc + 8)).live n) ∧
      (t.th.la 0 = true ↔ s.th.la 0 = true ∧ s.th.ls0.toNat ≤ dest.toNat ∧ dest.toNat ≤ s.th.le0.toNat) ∧
      (t.th.la 1 = true ↔ s.th.la 1 = true ∧ s.th.ls1.toNat ≤ dest.toNat ∧ dest.toNat ≤ s.th.le1.toNat)

/-- R325, R327 (derived): LSETUP sets the bounds and the count of its loop; with a nonzero count the loop is active and the next
bundle is the first of its body unless the end test of the other loop sends control elsewhere, with count 0 control goes past
the body and the loop stays inactive; where the loop is active already, or the other active loop does not contain the body, it
takes LOOP with EVAL = the loop. -/
def Obligations.LoopSetup : Prop :=
  ∀ (i : Instr) (p count len : Nat) (s : State),
    ((∃ c, i = .lsetupImm p c len ∧ count = Rules.immNat c ∧ count < 2 ^ 64) ∨ ∃ r, i = .lsetupReg p r len ∧ count = (s.rd r).toNat) →
    p < 2 → Issues i s → s.thr.isSome = true →
    let ls := s.th.pc + 8
    let le := ls + 8 * wd len
    (loopClash s.th p ls le = true → Traps i s { code := 0x12, eval := wd p }) ∧
    (loopClash s.th p ls le = false → ∃ t, Completes i s t ∧
      (if p = 0 then t.th.ls0 = ls ∧ t.th.le0 = le ∧ t.th.ls1 = s.th.ls1 ∧ t.th.le1 = s.th.le1
       else t.th.ls1 = ls ∧ t.th.le1 = le ∧ t.th.ls0 = s.th.ls0 ∧ t.th.le0 = s.th.le0) ∧
      (if p = 0 then t.th.lc0 else t.th.lc1) = wd count ∧
      t.th.la p = decide (count ≠ 0) ∧ (count = 0 → t.th.pc = le + 8) ∧
      (count ≠ 0 → s.th.la (1 - p) = false → t.th.pc = ls) ∧ t.th.g = s.th.g ∧ t.mem = s.mem)

/-- R335, R386, R301, R296, R103, R221 (derived): NOP only advances; YIELD advances and marks the thread as yielding, in a hand-off
slot as NOP; EXIT leaves the rotation until its drains end; DISBAND leaves the gang and advances; FENCE, FENCE.SS and FENCE.LA
at scopes up to 3 only advance, FENCE once no store of the thread to a home on the die is to come. TRAP takes
TRAPINS with EVAL = g[a] and INFO = its immediate at the NEXT bundle's address, which the end test gives. Registers and memory
stay.
The model's choices behind it: log entries 20, 40 and 85. -/
def Obligations.SimpleControl : Prop :=
  ∀ s : State, s.thr.isSome = true →
    (Issues .nop s → Completes .nop s (advance (start s))) ∧
    (Issues .yield s → ∃ t, Completes .yield s t ∧ t.th.pc = (advance s).th.pc ∧ (s.handoff = false → t.th.yieldAt.isSome = true) ∧
      t.th.g = s.th.g ∧ t.mem = s.mem) ∧
    (Issues .exit s → ∃ t, exec .exit s = .next t ∧ t.th.st = .waiting .exitDrain ∧ t.th.pc = s.th.pc ∧ t.mem = s.mem) ∧
    (Issues .disband s → ∃ t, Completes .disband s t ∧ t.th.gangN = 0 ∧ bits t.th.status 3 3 = 0 ∧ t.th.g = s.th.g ∧ t.mem = s.mem) ∧
    (∀ n, 1 ≤ n → n ≤ 3 →
      (Issues (.fence n) s → s.storesOut s.th.tid (fun e => s.onDie e.gpa) = false → Completes (.fence n) s (advance (start s))) ∧
      (Issues (.fence n) s → s.storesOut s.th.tid (fun e => s.onDie e.gpa) = true → Waits (.fence n) s .ack) ∧
      (Issues (.fenceSs n) s → Completes (.fenceSs n) s (advance (start s))) ∧
      (Issues (.fenceLa n) s → Completes (.fenceLa n) s (advance (start s)))) ∧
    (∀ a im, Issues (.trap a im) s → s.handoff = false → s.th.status.getLsbD 4 = false → s.th.gangN = 0 →
      ∃ t, exec (.trap a im) s = .next t ∧ t.th.epc = (endTest s.th).pc ∧ t.th.pc = s.th.svec ∧ t.th.eval = s.rd a ∧
        bits t.th.ecause 7 0 = 0x0A ∧ bits t.th.ecause 25 16 = im % 1024 ∧ t.th.g = s.th.g ∧ t.mem = s.mem)

/-! ### Integer and floating-point arithmetic -/

/-- R274, R275, R286, R329, R333, R334, R336, R337, R346, R351, R353, R385: an integer or bit instruction writes its d with the
result of its rule, in exact arithmetic narrowed to 64 bits, and goes on; a d of z discards it, a d that is a loop port or a
common register takes it as the register file says. -/
def Obligations.IntegerResults : Prop :=
  ∀ (i : Instr) (s : State) (d : Nat) (v : Word), i.wf = true →
    (Rules.intResult i s.rd = some (d, v) ∨ Rules.bitResult i s.rd = some (d, v)) → Issues i s →
    Completes i s (advance ((start s).wr d v))

/-- R297, R303, R25: a division, FDIV or FSQRT goes on and leaves its thread waiting for 24 cycles for its value and flags: an
integer quotient or remainder truncated towards zero, all ones or the dividend for a divisor of zero, and no flag.
The model's choices behind it: log entry 17. -/
def Obligations.LongLatencyStarts : Prop :=
  ∀ (i : Instr) (s : State) (d : Nat) (v : Word) (fl : Nat),
    (Rules.divResult i s.rd = some (d, v) ∧ fl = 0 ∨ ∃ c, Rules.fpLongResult i s.rd s.rm = some (d, c, fl) ∧ v = wd c) → Issues i s →
    Completes i s ((advance (start s)).modT (fun t =>
      { t with st := .waiting .alu, waitD := d, res := v, flags := fl, resAt := s.now + 24 }))

/-- R25, R139: LONG_LATENCY_WRITEBACK writes the awaited value to its register once its cycles have passed, ORs its flags into
FCSR and makes the thread READY; before that it changes nothing. Other registers, pc and memory stay. Where the instruction was paired
with EXIT or TRAP, these follow once its value is written: EXIT's drains begin, TRAP is taken at the bundle where the thread now stands
(R54, R301). The model's choices behind it: log entries 13 and 17. -/
def Obligations.LongLatencyWriteback : Prop :=
  ∀ s : State, s.thr.isSome = true → s.th.st = .waiting .alu → s.th.kill = none →
    (s.now < s.th.resAt → exec (.longLatencyWriteback s.eid s.slot) s = .next s) ∧
    (s.th.resAt ≤ s.now → ∃ t, exec (.longLatencyWriteback s.eid s.slot) s = .next t ∧
      (s.th.after = none → t.th.st = .ready ∧ t.th.pc = s.th.pc) ∧ (s.th.after = some .exit → t.th.st = .waiting .exitDrain ∧ t.th.pc = s.th.pc) ∧
      (s.th.after = none ∨ s.th.after = some .exit → t.th.status = s.th.status) ∧
      (∀ c, s.th.after = some (.trap c) → s.handoff = false → s.th.status.getLsbD 4 = false → s.th.gangN = 0 →
        t.th.st = .ready ∧ t.th.epc = s.th.pc ∧ t.th.pc = s.th.svec ∧ t.th.eval = c.eval ∧ bits t.th.ecause 7 0 = c.code % 256) ∧
      (s.th.after = none ∨ s.th.after = some .exit ∨ (∃ c, s.th.after = some (.trap c) ∧ s.handoff = false ∧ s.th.status.getLsbD 4 = false ∧ s.th.gangN = 0) →
        (s.th.waitD < 112 → t.live s.th.waitD = s.th.res) ∧ (∀ n, n < 112 → n ≠ s.th.waitD → t.live n = s.live n) ∧
        t.th.fcsr = s.th.fcsr ||| wd (s.th.flags % 32) ∧ t.mem = s.mem))

/-- R291, R307, R292: a compare goes on; where its condition is false the next sk + 1 bundles are annulled, where it is true the
count of bundles to annul stays. FCMP raises its flags. No register and no byte of memory changes. An annulled bundle is
fetched and passed: the end test is made and one fewer is left to annul; a trap drops the window. -/
def Obligations.Compares : Prop :=
  (∀ (s : State) (n g : Nat) (ca : Bool), s.thr.isSome = true → s.th.skip = n + 1 → s.fetch = .ok g ca →
    passSkip (n + 1) s = passSkip n ((s.fetched g).modT (fun t => { endTest t with skip := n })) ∧
    (∀ c, s.handoff = false → s.th.status.getLsbD 4 = false → s.th.gangN = 0 → (takeTrap c s).th.skip = 0)) ∧
  ∀ (i : Instr) (s : State) (k : Nat) (b : Bool) (fl : Nat), s.thr.isSome = true → Issues i s → i.wf = true →
    (Rules.compare i s.rd s.cmpRhs = some (k, b) ∧ fl = 0 ∨
      (∃ c x y, i = .fcmpD (k - 1) c x y ∧ 0 < k ∧ (b, fl) = fpCmp fp64 c (s.rd x).toNat (s.rd y).toNat) ∨
      (∃ c x y, i = .fcmpS (k - 1) c x y ∧ 0 < k ∧ (b, fl) = fpCmp fp32 c ((s.rd x).toNat % 2 ^ 32) ((s.rd y).toNat % 2 ^ 32))) →
    ∃ t, Completes i s t ∧ t.th.pc = (endTest s.th).pc ∧ t.th.skip = (if b then s.th.skip else k) ∧ t.th.g = s.th.g ∧
      t.th.fcsr = s.th.fcsr ||| wd (fl % 32) ∧ t.mem = s.mem

/-- R302, R306, R308, R310, R311, R139: a scalar floating-point instruction of fixed latency writes its result to d, goes on, and
ORs its exception flags into FCSR. -/
def Obligations.FloatResults : Prop :=
  ∀ (i : Instr) (s : State) (d c fl : Nat), Rules.fpResult i s.rd s.rm = some (d, c, fl) → Issues i s →
    Completes i s ((advance ((start s).wr d (wd c))).raise fl)

/-- R141 (derived): a NaN operand of FADD, FSUB, FMUL, FDIV, FSQRT and the fused operations, the addend z among them, gives the canonical NaN;
NV is raised exactly where an operand signals, or in a fused operation where the product is of zero and infinity, and nothing else. -/
def Obligations.NanOperands : Prop :=
  ∀ (f : Fmt) (rm x y z : Nat), f = fp64 ∨ f = fp32 →
    let nan := fun n => (Val.of f n).isNan = true
    let sig := fun n => (Val.of f n).isSig
    let nv := if sig x || sig y then 16 else 0
    let zeroInf : Bool := match Val.of f x, Val.of f y with
      | .inf _, .fin _ m _ => decide (m = 0)
      | .fin _ m _, .inf _ => decide (m = 0)
      | _, _ => false
    (nan x ∨ nan y → fpAdd f rm x y = (f.nan, nv) ∧ fpSub f rm x y = (f.nan, nv) ∧ fpMul f rm x y = (f.nan, nv) ∧ fpDiv f rm x y = (f.nan, nv)) ∧
    (nan x → fpSqrt f rm x = (f.nan, if sig x then 16 else 0)) ∧
    (nan x ∨ nan y ∨ nan z → ∀ k, k < 3 → fpFma f k rm x y z = (f.nan, if sig x || sig y || sig z || zeroInf then 16 else 0))

/-- R137, R140, R139: towards zero, a positive exact value m * 2^e that no format overflow cuts off rounds to the greatest
magnitude not above it, and NX is raised exactly where the two differ. -/
def Obligations.RoundTowardsZero : Prop :=
  ∀ (f : Fmt) (neg : Bool) (m : Nat) (e : Int), f ∈ [fp64, fp32, fp16, bf16, af48, e5m2] → 0 < m →
    let r := f.round 1 false neg m e false
    let c := r.1 % f.sgn
    let x : ℚ := (m : ℚ) * (2 : ℚ) ^ e
    c ≤ f.max ∧ Rules.magQ f c ≤ x ∧ (c < f.max → x < Rules.magQ f (c + 1)) ∧
    (BitVec.ofNat 5 r.2).getLsbD 0 = decide (Rules.magQ f c ≠ x) ∧ r.1 / f.sgn = (if neg then 1 else 0)

/-- R137, R140: to nearest, a positive exact value m * 2^e that does not overflow rounds to a magnitude of the format than which
no other is nearer, and to an even code where two are equally near. -/
def Obligations.RoundToNearest : Prop :=
  ∀ (f : Fmt) (m : Nat) (e : Int), f ∈ [fp64, fp32, fp16, bf16, af48, e5m2] → 0 < m →
    let c := (f.round 0 false false m e false).1
    let x : ℚ := (m : ℚ) * (2 : ℚ) ^ e
    c ≤ f.max → ∀ k, k ≤ f.max →
      |x - Rules.magQ f c| ≤ |x - Rules.magQ f k| ∧ (k ≠ c → |x - Rules.magQ f c| = |x - Rules.magQ f k| → c % 2 = 0)

/-- R25, R46, R51, R58 (derived): the frame of the integer, bit and scalar floating-point instructions in a LONE bundle: every register but d
and the loop counts, the common registers among them, the loop ports' queues but for one word of each port read, STATUS but for LA, FCSR for
all but the floating-point ones, the trap registers, accumulators, tags, store buffer and every byte of memory stay. The model's choices
behind it: log entry 13. -/
def Obligations.RegisterFrame : Prop :=
  ∀ (i : Instr) (s t : State) (d : Nat), i.wf = true →
    ((∃ v, Rules.intResult i s.rd = some (d, v)) ∨ (∃ v, Rules.bitResult i s.rd = some (d, v)) ∨
      (∃ c fl, Rules.fpResult i s.rd s.rm = some (d, c, fl))) →
    Issues i s → s.thr.isSome = true → exec i s = .next t →
    (∀ n, n < 120 → n ≠ d → n ≠ 116 → n ≠ 117 → t.live n = s.live n) ∧
    (∀ n, 124 ≤ n → n < 128 → n ≠ d → t.live n = s.live n) ∧
    (∀ k, kgetD t.th.inq k [] = if k ∈ portsRead i.fields then (kgetD s.th.inq k []).tail else kgetD s.th.inq k []) ∧
    bits t.th.status 0 0 = bits s.th.status 0 0 ∧ bits t.th.status 4 3 = bits s.th.status 4 3 ∧
    ((∀ c fl, Rules.fpResult i s.rd s.rm ≠ some (d, c, fl)) → t.th.fcsr = s.th.fcsr) ∧
    t.th.estatus = s.th.estatus ∧ t.th.epc = s.th.epc ∧ t.th.ecause = s.th.ecause ∧ t.th.eval = s.th.eval ∧ t.th.svec = s.th.svec ∧
    t.th.chan = s.th.chan ∧ t.th.v = s.th.v ∧ t.etl.acc0 = s.etl.acc0 ∧ t.etl.acc1 = s.etl.acc1 ∧ t.etl.sbuf = s.etl.sbuf ∧
    t.etl.rings = s.etl.rings ∧ t.mem = s.mem ∧ t.fe = s.fe

/-! ### Scalar memory -/

/-- R71, R75, R40, R167: a scalar access that is not aligned takes ALIGN with EVAL = its address; one whose translation fails takes XLATE or
PROT, as the translation says, with EVAL = its address; one that the translation cache lacks waits for a walk of its address and
issues again. In a hand-off slot an access beyond the own scratchpad takes HANDLER, and a scalar store into an occupied ring
slot of the own scratchpad RINGHAZ, with EVAL = the address. Nothing is stored.
The model's choices behind it: log entry 38. -/
def Obligations.AccessTraps : Prop :=
  ∀ (i : Instr) (s : State) (va : Word) (w : Nat) (k : Acc1), Rules.access i s.rd = some (va, w, k) → Issues i s →
    (va.toNat % w ≠ 0 → Traps i s { code := 0x03, eval := va }) ∧
    (∀ c, va.toNat % w = 0 → s.xlate s.user k va = .bad c → Traps i s { code := c, eval := va }) ∧
    (va.toNat % w = 0 → s.xlate s.user k va = .miss → Waits i s (.walk va.toNat)) ∧
    (∀ g ca, va.toNat % w = 0 → s.xlate s.user k va = .ok g ca → s.handoff = true → inScratch s.eid g = false →
      (∀ d a x c o, i ≠ .ldf d a x c o ∧ i ≠ .ldfe d a x c o ∧ i ≠ .stf d a c o ∧ i ≠ .ste d a c o ∧ i ≠ .sete a c o ∧ i ≠ .setf a c o) →
      Traps i s { code := 0x11, eval := va }) ∧
    (∀ d a x c o g ca, (i = .st d a x o ∨ i = .stl d a x c o) → Reaches s k w va g ca → inScratch s.eid g = true → s.hazardAt g w = true →
      Traps i s { code := 0x08, eval := va })

/-- R320, R321, R322, R99, R5: LD, and LDA at scopes up to 3 with no earlier STL to come, write d with the bytes that the scratchpad,
the thread's own buffered stores or a cached line gives at once, zero- or sign-extended, and go on; an L1 miss that the RDC answers
allocates a line. The own scratchpad gives the bytes there, little-endian; after a store of the same thread to the same address, held in the
buffer, the stored bytes. The model's choices behind it: log entries 38 and 39. -/
def Obligations.LoadsAtOnce : Prop :=
  (∀ (d a w sg c : Nat) (o : Imm) (s : State) (g v : Nat) (ca : Bool),
    s.otherSlotMatch g (2 ^ w) = false → s.loadNow g (2 ^ w) ca = some v →
    let t := ((start s).loadFill g (2 ^ w) ca).wr d (if sg = 1 then sext v (8 * 2 ^ w) else wd v)
    (Issues (.ld d a w sg o) s → Reaches s .rd (2 ^ w) (s.rd a + o.offM (2 ^ w)) g ca → Completes (.ld d a w sg o) s (advance t)) ∧
    (Issues (.lda d a w sg c o) s → Reaches s .rd (2 ^ w) (s.rd a + o.offMS) g ca → c ≤ 3 → s.storesOut s.th.tid (stlOut c) = false →
      Completes (.lda d a w sg c o) s (advance t))) ∧
  ∀ (s : State) (g w : Nat) (ca : Bool) (data va : Word) (sc : Nat), 1 ≤ w → w ≤ 8 → s.kern.ckpt.held = [] →
    (inScratch s.eid g = true → s.failing g = false → (∀ e ∈ s.etl.buf, e.tid ≠ s.th.tid) → s.loadNow g w ca = some (s.rdMem 0 g w)) ∧
    (s.holds = false → (pushStore g w data va sc ca s).loadNow g w ca = some (data.toNat % 256 ^ w))

/-- R26, R79, R81, R194, R278, R101, R42, R356: LD and LDA at scopes up to 3 that nothing answers at once, an AMO or a CAS elsewhere than in
the own scratchpad, an LDF or LDFE there, and ST, STL and an SF store to another etlet's scratchpad, with the thread's stores gone, send one
request and leave the rotation until its reply; no register and no byte of memory changes. A request to a scratchpad waits while its virtual
channel stalls; one that no READY function carries has its abort already. The model's choices behind it: log entries 38 and 131. -/
def Obligations.Requests : Prop :=
  ∀ (i : Instr) (s : State) (va : Word) (w g : Nat) (ca : Bool) (k : Acc1), s.thr.isSome = true → Issues i s →
    Rules.access i s.rd = some (va, w, k) → Reaches s k w va g ca →
    let fe := Rules.fullEmpty i s.rd false
    let h := if fe.isSome = true then s.primary g else g
    ((s.otherSlotMatch g w = false ∧ s.loadNow g w ca = none ∧
        ((∃ d a x sg o, i = .ld d a x sg o) ∨ ∃ d a x sg c o, i = .lda d a x sg c o ∧ c ≤ 3 ∧ s.storesOut s.th.tid (stlOut c) = false)) ∨
      (regionOf g = 2 ∧ inScratch s.eid g = false ∧
        ((∃ d a x o, i = .st d a x o ∧ s.storesOut s.th.tid (s.ahead g) = false) ∨ ∃ d a x c o, i = .stl d a x c o ∧ Settled s)) ∨
      (inScratch s.eid h = false ∧ (fe = none → s.hazardAt h w = false) ∧ Settled s ∧ s.th.pend = [] ∧
        ((∃ d a new, Rules.atomic i s.rd 0 = some (d, a, w, new)) ∨
          (fe.isSome = true ∧ hasFe h = true ∧ (regionOf h = 2 ∨ ∃ d a x c o, i = .ldf d a x c o ∨ i = .ldfe d a x c o))))) →
    (regionOf h = 2 → s.vc0Stalls (scratchOwner h) = true → Waits i s .stall) ∧
    ((regionOf h = 2 → s.vc0Stalls (scratchOwner h) = false) →
      ∃ t q, exec i s = .next t ∧ t.th.st = .waiting .mem ∧ t.th.pc = s.th.pc ∧ t.th.g = s.th.g ∧ t.mem = s.mem ∧
        kget t.etl.reqs s.slot = some q ∧ q.gpa = h ∧ q.va = va ∧ q.tid = s.th.tid ∧ q.seq = s.etl.reqSeq ∧
        q.reply = (if s.cutOff s.eid h then some .abort else none) ∧
        (∀ d a x sg o, i = .ld d a x sg o → t.th.waitD = d ∧ q.op = .load (2 ^ x) (decide (sg = 1))) ∧
        (∀ d a x o, i = .st d a x o → q.op = .store (2 ^ x) (s.rd d)))

/-- R26, R77, R214, R223, R99: the reply to a request of the thread in focus other than a midfield one, where the fabric carries it: a
value reaches d and the thread goes on after its bundle; an abort, a loss or a ring hazard is a precise trap at the bundle, DABORT, LOST or
RINGHAZ with EVAL = the address. A load of HBM or CXL memory on the package is answered with the bytes there under the thread's own
buffered ones. -/
def Obligations.Replies : Prop :=
  ∀ (s : State) (q : Req), s.thr.isSome = true → s.th.st = .waiting .mem → s.th.kill = none → s.th.deferred = none →
    kget s.etl.reqs s.slot = some q → q.tid = s.th.tid → Quiet s →
    let answers := fun (v : Word) => ∃ t, exec (.memoryReply s.eid s.slot) s = .next t ∧ t.th.st = .ready ∧ kget t.etl.reqs s.slot = none ∧
      t.mem = s.mem ∧ (∀ n, n < 112 → n ≠ s.th.waitD → t.live n = s.live n) ∧
      (s.th.waitD < 112 → t.live s.th.waitD = v ∧ t.th.pc = (endTest s.th).pc)
    (∀ r, q.reply = some r → (usePort 2 (homeEid q.gpa) (pkgOf s.eid) s).isSome = true →
      (∀ v, r = .val v → answers v) ∧
      (∀ c, (r = .abort ∧ c = 0x06 ∧ (∀ w d, q.op ≠ .store w d) ∧ (∀ l, q.op ≠ .bytes l) ∨ r = .lost ∧ c = 0x0D ∨ r = .hazard ∧ c = 0x08) → (∀ d l, q.op ≠ .read d l) →
        s.handoff = false → s.th.status.getLsbD 4 = false →
        s.th.gangN = 0 → ∃ t, exec (.memoryReply s.eid s.slot) s = .next t ∧ bits t.th.ecause 7 0 = c ∧ t.th.eval = q.va ∧
          t.th.epc = s.th.pc ∧ t.th.pc = s.th.svec ∧ t.th.g = s.th.g ∧ t.mem = s.mem)) ∧
    (∀ w sg, q.reply = none → q.op = .load w sg → regionOf q.gpa ≤ 1 → onPkg s.eid q.gpa = true →
      s.requestHeld s.eid q = false → s.abortsR q.gpa = false →
      answers (extend w sg (s.overlay q.gpa w (s.rdMem q.key q.gpa w))))

/-- R99, R356, R358, R352: ST to the own scratchpad or to memory outside region 2, and STL with no earlier store to come, put one entry,
with the address, width and data of the store, at the end of the store buffer, and go on; STF, STE, SETE and SETF outside region 2 put
theirs there and await its completion; no byte of memory changes yet. -/
def Obligations.StoresBuffered : Prop :=
  (∀ (i : Instr) (d a w sc : Nat) (o : Imm) (s : State) (va : Word) (g : Nat) (ca : Bool), s.thr.isSome = true → Issues i s →
    (i = .st d a w o ∧ sc = 0 ∧ va = s.rd a + o.offM (2 ^ w) ∨ i = .stl d a w sc o ∧ va = s.rd a + o.offMS ∧ Settled s) →
    Reaches s .wr (2 ^ w) va g ca → (regionOf g = 2 → inScratch s.eid g = true) → (inScratch s.eid g = true → s.hazardAt g (2 ^ w) = false) →
    s.sbufFull 1 = false → s.holds = false →
    ∃ t e, Completes i s t ∧ t.etl.sbuf = s.etl.sbuf ++ [e] ∧ e.gpa = g ∧ e.width = 2 ^ w ∧ e.data = s.rd d ∧ e.va = va ∧ e.tid = s.th.tid ∧
      e.scope = sc ∧ e.key = s.kern.key ∧ e.sf = none ∧ t.th.pc = (endTest s.th).pc ∧ t.th.g = s.th.g ∧ t.mem = s.mem) ∧
  ∀ (i : Instr) (s : State) (va : Word) (g : Nat) (ca : Bool) (x : (Nat × Nat × Imm × Nat) × Option Bool × Bool × Option Word),
    s.thr.isSome = true → Issues i s → Rules.access i s.rd = some (va, 8, .wr) → Rules.fullEmpty i s.rd false = some x →
    Reaches s .wr 8 va g ca → regionOf (s.primary g) ≠ 2 → hasFe (s.primary g) = true → s.th.pend = [] → Settled s → s.sbufFull 1 = false →
    ∃ t e, exec i s = .next t ∧ t.th.st = .waiting .mem ∧ t.etl.sbuf = s.etl.sbuf ++ [e] ∧ e.gpa = s.primary g ∧ e.sf.isSome = true ∧ e.va = va ∧
      e.tid = s.th.tid ∧ e.scope = x.1.2.2.2 ∧ e.key = s.kern.key ∧ t.th.pc = s.th.pc ∧ t.th.g = s.th.g ∧ t.mem = s.mem

/-- R99, R82: the head of the store buffer, an ordinary store behind no other and taken by its slice, takes effect at its home on the die: its
bytes are in memory, little-endian,
every other byte stays, and it leaves the buffer.
The model's choices behind it: log entries 38, 39 and 42. -/
def Obligations.StoreTakesEffect : Prop :=
  ∀ (s : State) (x : SEntry) (rest : List SEntry), MemOk s → Quiet s → s.etl.sbuf = x :: rest → s.etl.drainq = [] → x.sf = none → s.onDie x.gpa = true →
    x.behind s.etl.posted = false → x.afterImage s.etl.benchW = false → s.storeHeld x = false →
    s.aborts x.gpa = false → s.migCopy x.gpa = none → (∀ j, j < x.width → s.owns x.key (x.gpa + j) = true) → s.th.st = .ready →
    ∃ t, exec (.storeTakesEffect s.eid) s = .next t ∧ t.etl.sbuf = rest ∧
      (∀ j, j < x.width → memRd t.mem (x.gpa + j) = BitVec.ofNat 8 (x.data.toNat / 256 ^ j)) ∧
      (∀ b, b < x.gpa ∨ x.gpa + x.width ≤ b → memRd t.mem b = memRd s.mem b) ∧ t.th.g = s.th.g

/-- R277, R287, R276: an AMO or CAS on the own scratchpad is one step: d receives the old value, sign-extended, and the word the
new one; every other byte of memory stays. -/
def Obligations.AtomicsInScratch : Prop :=
  ∀ (i : Instr) (s : State) (d a w new g : Nat) (ca : Bool), s.thr.isSome = true → MemOk s →
    Issues i s → Rules.atomic i s.rd (s.rdMem 0 g w) = some (d, a, w, new) → Reaches s .rw w (s.rd a) g ca →
    inScratch s.eid g = true → s.failing g = false → s.hazardAt g w = false → (∀ e ∈ s.etl.buf, e.tid ≠ s.th.tid) →
    s.storesOut s.th.tid s.before = false → s.migCopy g = none →
    ∃ u : State, Completes i s (advance (u.wr d (sext (s.rdMem 0 g w) (8 * w)))) ∧ u.thr = s.thr ∧
      (∀ j, j < w → memRd u.mem (g + j) = BitVec.ofNat 8 (new / 256 ^ j)) ∧ (∀ b, b < g ∨ g + w ≤ b → memRd u.mem b = memRd s.mem b)

/-- R86, R87, R323, R352, Table 4.7: a full/empty access of the own scratchpad whose word no one waits for: LDF takes the value of
a FULL word, LDFE too and leaves it EMPTY; STF stores and leaves it FULL, STE the same to an EMPTY word; SETE and SETF set the
state. A conditional one whose word is in the other state joins the word's list, outside a hand-off slot, and nothing changes. -/
def Obligations.FullEmptyInScratch : Prop :=
  ∀ (i : Instr) (s : State) (d a c g : Nat) (o : Imm) (need : Option Bool) (after : Bool) (st : Option Word) (ca : Bool) (k : Acc1),
    s.thr.isSome = true → MemOk s → Issues i s → Rules.fullEmpty i s.rd (s.isEmpty 0 g) = some ((d, a, o, c), need, after, st) →
    (∃ va w, Rules.access i s.rd = some (va, w, k) ∧ Reaches s k 8 va g ca) → inScratch s.eid g = true → s.failing g = false →
    g % 8 = 0 →
    (k = .wr → s.hazardAt g 8 = false ∧ s.etl.buf = []) → Settled s → s.migCopy g = none → kgetD s.feq (g / 8) [] = [] →
    ((∀ b, need = some b → s.isEmpty 0 g = b) → ∃ u : State, Completes i s (advance (u.wr d (wd (s.rdMem 0 g 8)))) ∧
      u.thr = s.thr ∧ u.isEmpty 0 g = after ∧ (∀ b, b < g ∨ g + 8 ≤ b → memRd u.mem b = memRd s.mem b) ∧
      (∀ j, j < 8 → memRd u.mem (g + j) = (match st with | some v => BitVec.ofNat 8 (v.toNat / 256 ^ j) | none => memRd s.mem (g + j)))) ∧
    (∀ b, need = some b → s.isEmpty 0 g ≠ b → s.handoff = false →
      ∃ t, exec i s = .next t ∧ t.th.st = .waiting (.fe (g / 8)) ∧ (kgetD t.feq (g / 8) []).length = 1 ∧ t.mem = s.mem ∧ t.fe = s.fe)

/-- R304, R305: FAGG joins, as its last member, the open group of its word, width and kernel, or opens one where there is none, and waits;
nothing is stored yet. A group is open for 8 cycles and until it has 16 members. Each member of a group receives the old word plus the addends
of those that joined before it, modulo the word's size. The model's choices behind it: log entry 48. -/
def Obligations.FaggGroups : Prop :=
  (∀ (n x : Nat) (ms : List FaggMember) (k : Nat) (m : FaggMember), ms[k]? = some m →
    (faggShares n x ms)[k]? = some (m.tid, wd ((x + ((ms.take k).map (fun y => y.y.toNat)).sum) % 256 ^ n))) ∧
  ∀ (i : Instr) (d a b w g : Nat) (ca : Bool) (s : State), s.thr.isSome = true → Issues i s →
    (i = .faggW d a b ∧ w = 4 ∨ i = .faggD d a b ∧ w = 8) → Reaches s .rw w (s.rd a) g ca → s.hazardAt g w = false → s.th.pend = [] →
    (∀ e ∈ s.etl.buf, e.tid ≠ s.th.tid) → s.storesOut s.th.tid s.before = false →
    let m : FaggMember := { tid := s.th.tid, y := s.rd b, va := s.rd a }
    let joins := fun (q : FaggGroup) => decide (q.gpa = g ∧ q.width = w ∧ q.kid = s.th.kid ∧ s.now < q.opened + 8 ∧ q.members.length < 16)
    ∃ t, exec i s = .next t ∧ t.th.st = .waiting .mem ∧ t.th.waitD = d ∧ t.th.pc = s.th.pc ∧ t.th.g = s.th.g ∧ t.mem = s.mem ∧
      (s.etl.fagg.any joins = true →
        t.etl.fagg = s.etl.fagg.map (fun q => if joins q then { q with members := q.members ++ [m] } else q)) ∧
      (s.etl.fagg.any joins = false → ∃ q, t.etl.fagg = s.etl.fagg ++ [q] ∧ q.gpa = g ∧ q.width = w ∧ q.kid = s.th.kid ∧ q.opened = s.now ∧
        q.members = [m] ∧ q.sent = none ∧ q.reply = none)

/-- R103, R309: FENCE at scope 4 or wider goes on once no store of the thread has still to take effect, and until then it waits; FENCE and
FENCE.LA advance the acquire stamp of the die. FENCE.SS there goes on at once, and the thread's later stores count as after it. No
register changes. The model's choices behind it: log entries 40 and 85. -/
def Obligations.WideFences : Prop :=
  ∀ (n : Nat) (s : State), 4 ≤ n → s.thr.isSome = true →
    (Issues (.fence n) s → (Settled s → Completes (.fence n) s (advance ((start s).acquire (dieOf s.eid)))) ∧
      (s.storesOut s.th.tid (fun _ => true) = true → Waits (.fence n) s .ack)) ∧
    (Issues (.fenceSs n) s → ∃ t, Completes (.fenceSs n) s t ∧ t.th.ssn = s.th.ssn + 1 ∧ t.etl = s.etl ∧ t.th.g = s.th.g ∧
      t.th.pc = (endTest s.th).pc ∧ t.mem = s.mem) ∧
    (Issues (.fenceLa n) s → Completes (.fenceLa n) s (advance ((start s).acquire (dieOf s.eid))))

/-- R84, R289, R290, R349: a CMO of at most 2^32 bytes whose range translates completes, the registers as they were; the walks of its range
read their entries at the home L2s, and it waits first for a test of one of those, or of a line that PREF reads. CLEAN, INVAL and CLINV are
full fences, at system scope at level 2: with no store of the thread to come CLEAN only goes on, and INVAL and CLINV drop the range's lines
from the etlet's L1, at level 1 and above from the die's RDC and at level 2 from the lines' home L2s; all other lines of the L1 and all bytes
of memory stay. PREF then goes on whatever its range, and changes no byte of memory. ZERO enters eight 8-byte stores of 0 for each whole line
of the range, the line's words in their order, into a store buffer that has room, or into the hold queue of a team that holds stores, and
waits for room. A count of 0 does nothing. The model's choices behind it: log entries 37, 41, 85 and 132. -/
def Obligations.CacheOperations : Prop :=
  ∀ (x a b : Nat) (s : State), s.thr.isSome = true → s.handoff = false →
    let n := (s.rd b).toNat
    let w := fun (k : Acc1) => touchRange k (s.rd a) n (start s)
    let ls := rangeLines .rd (s.rd a) n (w .rd)
    let fenced := if n = 0 ∨ x ≠ 2 then w .rd else (w .rd).acquire (dieOf s.eid)
    (∀ i, (i = .cmoClean x a b ∨ i = .cmoInval x a b ∨ i = .cmoClinv x a b) → Issues i s → n ≤ 2 ^ 32 →
      (rangeWait .rd (s.rd a) n s = true → Waits i s .reach) ∧
      (rangeWait .rd (s.rd a) n s = false → rangeFault .rd (s.rd a) n (w .rd) = none → Settled s →
      (i = .cmoClean x a b → Completes i s (advance fenced)) ∧
      (i ≠ .cmoClean x a b → ∃ t, Completes i s t ∧ t.th.g = s.th.g ∧ t.th.pc = (endTest s.th).pc ∧ t.mem = s.mem ∧
        t.etl.l1 = fenced.etl.l1.filter (fun c => decide (∀ l ∈ ls, c.line ≠ l.1)) ∧
        (1 ≤ x → ∀ l ∈ ls, ∀ c ∈ t.myDie.rdc, c.line ≠ l.1) ∧
        (2 ≤ x → ∀ l ∈ ls, ∀ c ∈ (kgetD t.clusters (homeCluster (l.1 * 64)) {}).l2, c.1 ≠ l.1)))) ∧
    (let test := rangeWait .rd (s.rd a) n s || (rangeLines .rd (s.rd a) n s).any (fun l => s.homeTested (l.1 * 64))
     Issues (.cmoPref x a b) s → (n ≤ 2 ^ 32 → test = true → Waits (.cmoPref x a b) s .reach) ∧
      (2 ^ 32 < n ∨ test = false → ∃ t, Completes (.cmoPref x a b) s t ∧ t.th.g = s.th.g ∧ t.th.pc = (endTest s.th).pc ∧ t.mem = s.mem)) ∧
    (let ws := wholeLines (s.rd a) n (w .wr)
     let word := fun (i : Nat) => (ws.getD (i / 8) (0, false, 0)).1 + 8 * (i % 8)
     Issues (.cmoZero x a b) s → n ≤ 2 ^ 32 → (rangeWait .wr (s.rd a) n s = true → Waits (.cmoZero x a b) s .reach) ∧
     (rangeWait .wr (s.rd a) n s = false → rangeFault .wr (s.rd a) n (w .wr) = none →
       (ws ≠ [] → s.sbufFull (min 32 (8 * ws.length)) = true → exec (.cmoZero x a b) s = .next (waitFor .sbufFull 112 (w .wr))) ∧
       (ws = [] ∨ s.sbufFull (min 32 (8 * ws.length)) = false → ∃ t, Completes (.cmoZero x a b) s t ∧ t.th.g = s.th.g ∧
         t.th.pc = (endTest s.th).pc ∧ t.mem = s.mem ∧
         (s.holds = false → ∃ es, t.etl.buf = s.etl.buf ++ es ∧ es.length = 8 * ws.length ∧
           ∀ i e, es[i]? = some e → e.gpa = word i ∧ e.data = 0 ∧ e.width = 8 ∧ e.tid = s.th.tid ∧ e.key = s.kern.key ∧ e.sf = none) ∧
         (s.holds = true → s.etl.heldCount + 8 * ws.length ≤ 512 →
           ∃ hs, t.kern.ckpt.held = s.kern.ckpt.held ++ hs ∧ hs.length = 8 * ws.length ∧
             ∀ i h, hs[i]? = some h → h.gpa = word i ∧ h.data = 0 ∧ h.width = 8 ∧ h.tid = s.th.tid))))

/-! ### Vectors and permutations -/

/-- R173, R174, R371, R378, R379: a vector instruction with room in the dispatch queue and no cause of its own enters the queue
with its operands, the vector registers among them, and goes on; its registers are not written yet. With a cause it traps. In a
capture it is recorded instead, and a 17th takes ILLEGAL with EVAL = the bundle. The model's choices behind it: log entries 15
and 30. -/
def Obligations.VectorDispatch : Prop :=
  ∀ (i : Instr) (s : State), i.vector = true → i.wf = true → s.thr.isSome = true → Issues i s →
    (s.capturing = false → s.vheld = false → (∀ c, Rules.vectorCause i s = some c → Traps i s c) ∧
      (Rules.vectorCause i s = none → ∃ t o, Completes i s t ∧ t.etl.vq = s.etl.vq ++ [o] ∧ o.instr = i ∧ o.tid = s.th.tid ∧
        o.seq = s.etl.dnext ∧ o.rm = s.rm ∧ o.out = none ∧ o.scal = vscal i s ∧ o.vs = i.vregs.map (fun n => (n, s.vrd n)) ∧ t.th.pc = (endTest s.th).pc ∧ t.th.g = s.th.g ∧
        t.th.v = s.th.v ∧ t.mem = s.mem)) ∧
    (∀ b, s.capturing = true → s.etl.vrb = some b →
      (16 ≤ b.ops.length → Traps i s { code := 0x01, eval := wd s.bundle }) ∧
      (b.ops.length < 16 → ∃ t, Completes i s t ∧ t.etl.vrb = some { b with ops := b.ops ++ [(i, s.pcNow, s.body)] } ∧
        t.etl.vq = s.etl.vq ∧ t.th.pc = (endTest s.th).pc ∧ t.th.g = s.th.g ∧ t.th.v = s.th.v ∧ t.mem = s.mem))

/-- R155, R372 to R376, R379, R381, R382 (derived): the lanes that an arithmetic vector instruction gives are those of its rule, lane by lane,
VRED.FADD's sum in pairwise order among them, and its flags those of the lanes together; VEXT gives the lane that its operand names. -/
def Obligations.VectorLanes : Prop :=
  ∀ (i : Instr) (rm : Nat) (sc : List Word) (p : Perm) (v : Nat → List Nat),
    (∀ n, (v n).length = 64 ∧ ∀ x ∈ v n, x < 2 ^ 32) →
    (∀ j x, j < 64 → Rules.lane i rm (sc.getD 0 0) p (fun n j => (v n).getD j 0) j = some x →
      (vcompute i rm sc p v).1.getD j 0 = x.1) ∧
    (∀ k, (∀ j, j < 64 → (Rules.lane i rm (sc.getD 0 0) p (fun n j => (v n).getD j 0) j).isSome = true) →
      ((vcompute i rm sc p v).2.testBit k = true ↔
        ∃ j x, j < 64 ∧ Rules.lane i rm (sc.getD 0 0) p (fun n j => (v n).getD j 0) j = some x ∧ x.2.testBit k = true)) ∧
    (∀ d a n, i = .vext d a n → (vcompute i rm sc p v).1 = [(v a).getD (bits (sc.getD 0 0) 5 0) 0])

/-- R173, R139, R377, R378, R100, R104: VECTOR_START performs the oldest dispatched instruction that has not started, on the vector registers
as its bundle read them: an arithmetic one whole; of a VLD, VLD.STR or VLD.BC one 8-byte word, the lanes in it, the last of them giving the
loaded vector; of a VST or VST.STR one entry of the store buffer, in lane order. VECTOR_WRITEBACK takes the oldest started one out of the queue,
writes its register (a VEXT its general register) and ORs its flags into FCSR[12:8], in its thread, with no repetition buffer in use. Memory
stays. The model's choices behind it: log entries 62 and 153. -/
def Obligations.VectorEvents : Prop :=
  ∀ (s : State) (o : VOp), s.thr.isSome = true → s.th.st = .ready → s.etl.vrb = none → Quiet s →
    (kset s.etl.threads s.slot s.thr).find? (fun p => decide (p.2.tid = o.tid)) = some (s.slot, s.th) →
    let is := fun (x : VOp) => decide (x = o)
    (s.etl.vq.find? (fun x => x.out.isNone) = some o →
      (o.instr.vmem = false → ∃ t, exec (.vectorStart s.eid) s = .next t ∧
        t.etl.vq = mapFirst is (fun x => { x with out := some (let r := vcompute o.instr o.rm o.scal o.perm (fun n => lanes (o.vreg n)); (BitVec.ofNat 2048 (mkVec r.1), r.2, false)) }) s.etl.vq ∧
        t.th = s.th ∧ t.mem = s.mem) ∧
      ((∃ d a x, o.instr = .vld d a x ∨ o.instr = .vldStr d a x ∨ o.instr = .vldBc d a x) → o.lanesLeft ≠ [] →
        (∀ p ∈ o.lanesLeft, inWindow p.2 = true ∧ (∃ ca, laneXlate s .rd p.2 = .inr (lanePa s p.2, ca)) ∧ inScratch s.eid (lanePa s p.2) = true ∧
          s.readWaits (lanePa s p.2) 4 = false) → (∀ e ∈ s.etl.buf, e.tid ≠ s.th.tid) → s.kern.ckpt.held = [] →
        ∃ t w, exec (.vectorStart s.eid) s = .next t ∧ t.th = s.th ∧ t.mem = s.mem ∧
          (let mine := o.lanesLeft.filter (fun p => decide (lanePa s p.2 / 8 = w))
           let got := mine.foldl (fun (m : KMap Nat) p => kput m p.1 (s.rdMem 0 (lanePa s p.2) 4)) o.got
           mine ≠ [] ∧ t.etl.vq = mapFirst is (fun x =>
             if ({ o with got := got } : VOp).lanesLeft.isEmpty then { x with out := some (o.loaded got, 0, false) } else { x with got := got }) s.etl.vq)) ∧
      ((∃ d a x, o.instr = .vst d a x ∨ o.instr = .vstStr d a x) → ∀ a w v g ca, o.stores[o.got.length]? = some (a, w, v) →
        s.walkBusy s.kern s.user .wr a = false → laneXlate s .wr a = .inr (g, ca) → (w = 8 → ∃ y, laneXlate s .wr (a + 4) = .inr y) →
        s.sbufFull 1 = false → s.holds = false →
        ∃ t e, exec (.vectorStart s.eid) s = .next t ∧ t.th = s.th ∧ t.mem = s.mem ∧ t.etl.sbuf = s.etl.sbuf ++ [e] ∧ e.gpa = g ∧ e.width = w ∧
          e.data = wd v ∧ e.tid = s.th.tid ∧ e.key = s.kern.key ∧ e.va = a ∧
          t.etl.vq = mapFirst is (fun x => if o.got.length + 1 = o.stores.length then { x with out := some (0, 0, false) }
            else { x with got := kput x.got o.got.length 0 }) s.etl.vq)) ∧
    (∀ d a x i, o.instr = .vst d a x → i < 32 → o.stores[i]? = some (o.scal.getD 0 0 + wd (8 * i), 8,
      (lanes (o.vreg d)).getD (2 * i) 0 + 2 ^ 32 * (lanes (o.vreg d)).getD (2 * i + 1) 0)) ∧
    (∀ d a x i, o.instr = .vstStr d a x → i < 64 → o.stores[i]? = some (o.scal.getD 0 0 + wd i * o.scal.getD 1 0, 4, (lanes (o.vreg d)).getD i 0)) ∧
    (∀ d v fl, s.etl.vq.find? (fun x => x.out.isSome) = some o → o.out = some (v, fl, false) → o.instr.vdest = some d →
      ∃ t, exec (.vectorWriteback s.eid) s = .next t ∧ t.etl.vq = s.etl.vq.erase o ∧
        t.vrd d = v ∧ (∀ n, n ≠ d → t.vrd n = s.vrd n) ∧ t.th.fcsr = s.th.fcsr ||| wd (fl % 32 * 256) ∧ t.th.g = s.th.g ∧
        t.th.pc = s.th.pc ∧ t.mem = s.mem) ∧
    (∀ d a n v fl, s.etl.vq.find? (fun x => x.out.isSome) = some o → o.out = some (v, fl, false) → o.instr = .vext d a n →
      d < 112 → s.th.kill = none → s.ph = 0 → ∃ t, exec (.vectorWriteback s.eid) s = .next t ∧
        t.etl.vq = s.etl.vq.erase o ∧ t.live d = wd (v.toNat % 2 ^ 64) ∧ (∀ n, n < 112 → n ≠ d → t.live n = s.live n) ∧
        (∀ n, t.vrd n = s.vrd n) ∧ t.th.pc = s.th.pc ∧ t.mem = s.mem)

/-- R174, R380: outside a hand-off slot, VRB begins a capture where no buffer is in use and waits where another thread holds it; VRE ends the
capture and its sequence begins at once: what the queue has room for is dispatched, here the one instruction of a sequence of stride 0, whose
next pass its own destination holds back; a sequence of no pass or no instruction frees the buffer; VRSTOP frees a buffer of the thread;
VRWAIT goes on unless the thread's sequence runs. The model's choices behind it: log entry 63. -/
def Obligations.RepetitionBuffer : Prop :=
  ∀ s : State, s.thr.isSome = true → s.handoff = false →
    (Issues .vrb s → (s.etl.vrb = none → ∃ t b, Completes .vrb s t ∧ t.etl.vrb = some b ∧ b.owner = s.th.tid ∧ b.capture = true ∧ b.ops = [] ∧
        t.th.pc = (endTest s.th).pc ∧ t.th.g = s.th.g) ∧
      (s.capturing = true → Completes .vrb s (advance (start s))) ∧
      (s.capturing = false → s.etl.vrb.isSome = true → Waits .vrb s .vrb)) ∧
    (∀ a b, Issues (.vre a b) s → (s.capturing = false → Completes (.vre a b) s (advance (start s))) ∧
      (∀ x, s.capturing = true → s.etl.vrb = some x → s.vheld = true → x.at_ = 0 → x.pass = 0 → 0 < bits (s.rd a) 31 0 → x.ops ≠ [] →
        (kset s.etl.threads s.slot s.thr).find? (fun p => decide (p.2.tid = s.th.tid)) = some (s.slot, s.th) →
        ∃ t, Completes (.vre a b) s t ∧ t.etl.vrb = some { x with capture := false, count := bits (s.rd a) 31 0, stride := (s.rd b).toInt } ∧
          t.th.pc = (endTest s.th).pc ∧ t.th.g = s.th.g) ∧
      (∀ x, s.capturing = true → s.etl.vrb = some x → bits (s.rd a) 31 0 = 0 ∨ x.ops = [] → x.pass = 0 → s.etl.vq.any (fun o => o.rep) = false →
        ∃ t, Completes (.vre a b) s t ∧ t.etl.vrb = none ∧ t.etl.vq = s.etl.vq ∧ t.th.pc = (endTest s.th).pc ∧ t.th.g = s.th.g) ∧
      (∀ x i pc body, s.capturing = true → s.etl.vrb = some x → x.at_ = 0 → x.pass = 0 → x.ops = [(i, pc, body)] → i.vmem = false →
        i.vdest.isSome = true → s.rd b = 0 → 0 < bits (s.rd a) 31 0 → s.vheld = false →
        let j := i.mapV (renum s.th.vlimit 0)
        marked s.etl.vq s.th.tid j = false → Rules.vectorCause j s = none → portCheck s j.fields = none →
        (kset s.etl.threads s.slot s.thr).find? (fun p => decide (p.2.tid = s.th.tid)) = some (s.slot, s.th) →
        ∃ t o, Completes (.vre a b) s t ∧ t.etl.vq = s.etl.vq ++ [o] ∧ o.instr = j ∧ o.tid = s.th.tid ∧ o.rep = true ∧ o.out = none ∧
          o.vs = j.vregs.map (fun n => (n, s.vrd n)) ∧ o.scal = vscal j s ∧
          t.etl.vrb = some { x with capture := false, count := bits (s.rd a) 31 0, stride := 0, at_ := 0, pass := 1 } ∧
          t.th.pc = (endTest s.th).pc ∧ t.th.g = s.th.g ∧ t.mem = s.mem)) ∧
    (Issues .vrstop s → ∃ t, Completes .vrstop s t ∧ t.etl.vrb = (if s.capturing || s.sequence then none else s.etl.vrb) ∧
      t.th.pc = (endTest s.th).pc ∧ t.th.g = s.th.g ∧ t.mem = s.mem) ∧
    (Issues .vrwait s → (s.sequence = false → Completes .vrwait s (advance (start s))) ∧ (s.sequence = true → Waits .vrwait s .vrwait))

/-- R185, R187, R188, R338: PIDN and PMOV write their register at once; PCOMP, PINV, PRAND and PLOAD hand their permutation to
the solver and wait; SOLVER_COMPLETE writes the oldest one; PCYC answers; PSTORE buffers one byte per index, or asks the etlet
whose scratchpad it reaches for the stores. An empty source of PCOMP, PINV, PCYC and PSTORE takes ILLEGAL, check 6. The model's
choices behind it: log entries 64 and 131. -/
def Obligations.Permutations : Prop :=
  ∀ s : State, s.thr.isSome = true → (kget s.etl.kernels s.th.kid).isSome = true →
    let pm := fun (t : State) (n : Nat) => kgetD t.kern.pm n []
    (∀ d k, Issues (.pidn d k) s → ∃ t, Completes (.pidn d k) s t ∧ pm t d = List.range (2 ^ k) ∧ (∀ e, e ≠ d → pm t e = pm s e) ∧
      t.th.pc = (endTest s.th).pc ∧ t.mem = s.mem) ∧
    (∀ d a, Issues (.pmov d a) s → ∃ t, Completes (.pmov d a) s t ∧ pm t d = s.perm a ∧ (∀ e, e ≠ d → pm t e = pm s e) ∧
      t.th.pc = (endTest s.th).pc ∧ t.mem = s.mem) ∧
    (∀ d a, Issues (.pinv d a) s → (s.perm a = [] → Traps (.pinv d a) s { code := 0x01, eval := wd (1280 + a), info := 1 }) ∧
      (s.perm a ≠ [] → ∃ t q, Completes (.pinv d a) s t ∧ t.etl.solver = s.etl.solver ++ [q] ∧ q.d = d ∧ q.kid = s.th.kid ∧ q.tid = s.th.tid ∧
        (∀ i, i < (s.perm a).length → (s.perm a).Nodup → (∀ x ∈ s.perm a, x < (s.perm a).length) → q.perm.getD ((s.perm a).getD i 0) 0 = i) ∧
        t.th.st = .waiting .solver ∧ t.th.pc = (endTest s.th).pc)) ∧
    (∀ d a b, Issues (.pcomp d a b) s → (s.perm a = [] → Traps (.pcomp d a b) s { code := 0x01, eval := wd (1280 + a), info := 1 }) ∧
      (s.perm a ≠ [] → (s.perm b).length ≠ (s.perm a).length → Traps (.pcomp d a b) s { code := 0x01, eval := wd (1280 + b), info := 1 }) ∧
      (s.perm a ≠ [] → (s.perm b).length = (s.perm a).length → ∃ t q, Completes (.pcomp d a b) s t ∧ t.etl.solver = s.etl.solver ++ [q] ∧
        q.d = d ∧ q.perm = (s.perm b).map (fun i => (s.perm a).getD i 0) ∧ t.th.st = .waiting .solver ∧ t.th.pc = (endTest s.th).pc)) ∧
    (∀ d a k, Issues (.prand d a k) s → ∃ t q, Completes (.prand d a k) s t ∧ t.etl.solver = s.etl.solver ++ [q] ∧ q.d = d ∧
      q.perm.Perm (List.range (2 ^ k)) ∧ t.th.st = .waiting .solver ∧ t.th.pc = (endTest s.th).pc) ∧
    (∀ d a b, Issues (.pcyc d a b) s → (s.perm a = [] → Traps (.pcyc d a b) s { code := 0x01, eval := wd (1280 + a), info := 1 }) ∧
      (s.perm a ≠ [] → Completes (.pcyc d a b) s (advance ((start s).wr d (pcyc b (s.perm a) (s.rd d)))))) ∧
    (∀ d a g gs, Issues (.pstore d a) s → (s.perm d = [] → Traps (.pstore d a) s { code := 0x01, eval := wd (1280 + d), info := 1 }) ∧
      (s.perm d ≠ [] → bytesXlate s .wr (s.rd a) 0 (s.perm d).length = .inr (.inr (g :: gs)) → (∀ x ∈ g :: gs, s.hazardAt x.1 1 = false) →
        (regionOf g.1 = 2 → inScratch s.eid g.1 = false → s.storesOut s.th.tid (s.ahead g.1) = false → s.vc0Stalls (scratchOwner g.1) = false →
          ∃ t r, Completes (.pstore d a) s t ∧ t.th.st = .waiting .mem ∧ kget t.etl.reqs s.slot = some r ∧ r.op = .bytes (s.perm d) ∧ r.gpa = g.1 ∧
            r.tid = s.th.tid ∧ t.th.pc = s.th.pc ∧ t.th.g = s.th.g ∧ t.mem = s.mem) ∧
        ((regionOf g.1 = 2 → inScratch s.eid g.1 = true) → s.sbufFull (min 32 (s.perm d).length) = false → (s.perm d).length ≤ 32 ∨ Settled s →
          ∃ t, Completes (.pstore d a) s t ∧ t.th.pc = (endTest s.th).pc ∧ t.th.g = s.th.g ∧
            ((s.perm d).length ≤ 32 → s.holds = false → t.mem = s.mem ∧ ∃ es, t.etl.sbuf = s.etl.sbuf ++ es ∧ es.length = (s.perm d).length ∧
              ∀ i e, es[i]? = some e → e.width = 1 ∧ e.gpa = ((g :: gs).getD i (0, false)).1 ∧ e.data = wd ((s.perm d).getD i 0) ∧ e.tid = s.th.tid)))) ∧
    (∀ d a k g, Issues (.pload d a k) s → bytesXlate s .rd (s.rd a) 0 (2 ^ k) = .inr (.inr g) →
      (∀ x ∈ g, s.abortsR x.1 = false ∧ s.lost x.1 = false ∧ inScratch s.eid x.1 = true ∧ s.readWaits x.1 1 = false) →
      s.etl.buf = [] → s.kern.ckpt.held = [] →
      let bs := g.map (fun x => (memRd s.mem x.1).toNat)
      (∀ i, permBad (2 ^ k) bs = some i → Traps (.pload d a k) s { code := 0x07, eval := wd i }) ∧
      (permBad (2 ^ k) bs = none → ∃ t q, Completes (.pload d a k) s t ∧ t.etl.solver = s.etl.solver ++ [q] ∧ q.d = d ∧ q.perm = bs ∧
        t.th.st = .waiting .solver ∧ t.th.pc = (endTest s.th).pc ∧ t.mem = s.mem)) ∧
    (∀ q rest, s.etl.solver = q :: rest → q.held = false → q.fin = false → q.kid = s.th.kid → q.tid = s.th.tid → s.th.st = .waiting .solver →
      kget s.kern.pmAt q.d ≠ some s.now →
      ∃ t, exec (.solverComplete s.eid) s = .next t ∧ pm t q.d = q.perm ∧ t.etl.solver = rest ∧ t.th.st = .ready ∧ t.th.pc = s.th.pc ∧ t.mem = s.mem)

/-! ### Engines -/

/-- R161, R175, R293, R315: a CPY command with no cause and an idle tag, a PUT or a GET, is queued with its operands and its log
number and goes on; a CPY clears its tag. Nothing is copied yet. With a cause it traps; an earlier store to its die that has not
taken effect, a full engine or a busy tag makes it wait. The model's choices behind it: log entries 53, 54 and 56. -/
def Obligations.CopyCommands : Prop :=
  ∀ (i : Instr) (s : State) (cs : List (Option Cause)) (x : Option Nat) (c : CopyCmd), s.thr.isSome = true → Issues i s →
    Rules.copyCmd i s = some (cs, x, c) → s.dlogFull = false → s.th.pend = [] →
    (∀ y, firstFault cs = some y → Traps i s y) ∧
    (firstFault cs = none → s.storesOut s.th.tid s.before = true → Waits i s .ack) ∧
    (firstFault cs = none → s.storesOut s.th.tid s.before = false → 64 ≤ s.etl.copyq.length → Waits i s (.tagBusy 64)) ∧
    (∀ y, firstFault cs = none → s.storesOut s.th.tid s.before = false → s.etl.copyq.length < 64 → x = some y →
      s.etl.cmds.any (fun d => decide (d.tag = y)) = true → Waits i s (.tagBusy y)) ∧
    (firstFault cs = none → s.etl.copyq.length < 64 → (∀ y, x = some y → s.etl.cmds.any (fun d => decide (d.tag = y)) = false) →
      s.storesOut s.th.tid s.before = false →
      ∃ t, Completes i s t ∧ t.etl.copyq = s.etl.copyq ++ [{ c with seq := s.etl.dnext, tag := x.getD 64 }] ∧
        t.etl.tags = (match x with | some y => s.etl.tags &&& ~~~(wd (2 ^ y)) | none => s.etl.tags) ∧
        t.etl.dnext = (s.etl.dnext + 1) % 65536 ∧ t.th.pc = (endTest s.th).pc ∧ t.th.g = s.th.g ∧ t.mem = s.mem)

/-- R161, R159, R160, R166, R207, R205: COPY_START starts the command that may start. COPY_COMPLETE of a CPY, CPYF, CPYG, CPYS or CPYP whose words
all lie in the own scratchpad writes every word at its place, no other byte changing, takes the command out and sets its tag; the words of
a CPYF are then FULL. That of a CPYR fills its reserved ring slot and completes the tile. PUT_ARRIVAL of a PUT whose data can go writes its
words and marks it arrived, and PUT_COMPLETE ends an arrived PUT, or a GET whose packets can go, its words written, and advances the local
counter by one. The model's choices behind it: log entries 51 and 52. -/
def Obligations.CopyEvents : Prop :=
  ∀ (s : State) (c : CopyCmd), s.thr.isSome = true → MemOk s → s.etl.fired = [] →
    let is := fun (x : CopyCmd) => decide (x = c)
    ((s.etl.copyq.filter (·.running)).length < 8 → s.etl.copyq.find? (fun x => decide (x.seq = c.seq ∧ x.arrived = false) && x.running) = none →
      startable s [] s.etl.copyq = some c → c.kind ≠ .cpyr →
      ∃ t, exec (.copyStart s.eid c.seq) s = .next t ∧ t.th = s.th ∧ t.mem = s.mem ∧
        t.etl.copyq = mapFirst is (fun x => { x with running := true }) s.etl.copyq) ∧
    (s.etl.copyq.find? (fun x => decide (x.seq = c.seq) && x.running && decide (x.kind ≠ .put ∧ x.kind ≠ .get)) = some c → c.tag < 64 →
      (c.kind ≠ .cpyr → ∀ G H I ix, Rules.copyReady c s G H I ix →
        ∃ t, exec (.copyComplete s.eid c.seq) s = .next t ∧ t.etl.tags.getLsbD c.tag = true ∧ t.etl.copyq = s.etl.copyq.erase c ∧
          Rules.copied (Rules.copyCount c) G H s t ∧ (c.kind = .cpyf → ∀ k, k < Rules.copyCount c → t.isEmpty 0 (H k) = false)) ∧
      (c.kind = .cpyr → ∀ G r y, c.mc = false → c.len % 8 = 0 → c.moved = [] → kget s.etl.rings c.ring = some r →
        r.q.find? (fun q => decide (q.src = c.name s.eid ∧ q.complete = false)) = some y →
        let D := scratch s.eid + r.base + y.slot * r.slotBytes
        Rules.copyFrom c s (fun k => c.src + wd (8 * k)) (c.len / 8) G → Rules.copyTo s (c.len / 8) G (fun k => D + 8 * k) →
        ∃ t z, exec (.copyComplete s.eid c.seq) s = .next t ∧ t.etl.tags.getLsbD c.tag = true ∧ t.etl.copyq = s.etl.copyq.erase c ∧
          Rules.copied (c.len / 8) G (fun k => D + 8 * k) s t ∧ kget t.etl.rings c.ring = some z ∧
          z.q = r.q.map (fun q => if q.src = c.name s.eid ∧ q.complete = false then { q with complete := true, faulted := false, bytes := c.len } else q))) ∧
    (∀ G H, s.etl.copyq.find? (fun x => decide (x.seq = c.seq ∧ x.kind = .put ∧ x.arrived = false) && x.running) = some c → c.rc = none →
      Rules.copyReady c s G H (fun _ => 0) (fun _ => 0) → (c.carry s).isSome = true →
      ∃ t k, exec (.putArrival s.eid c.seq) s = .next t ∧ Rules.copied (c.len / 8) G H s t ∧ t.th.g = s.th.g ∧
        t.etl.copyq = mapFirst is (fun x => { x with arrived := true, scope := k }) s.etl.copyq) ∧
    (∀ k, s.etl.copyq.find? (fun x => decide (x.seq = c.seq) && x.running && (decide (x.kind = .get) || x.arrived)) = some c →
      c.lc = some k → s.etl.trigs = [] → kgetD s.etl.scWait k [] = [] →
      let ends := fun (t : State) => kgetD t.etl.sc k 0 = (kgetD s.etl.sc k 0 + 1) % 2 ^ 32 ∧ t.etl.copyq = s.etl.copyq.erase c
      (c.kind = .put → ∃ t, exec (.putComplete s.eid c.seq) s = .next t ∧ ends t ∧ t.mem = s.mem) ∧
      (∀ G H, c.kind = .get → Rules.copyReady c s G H (fun _ => 0) (fun _ => 0) → (c.carry s).isSome = true →
        ∃ t, exec (.putComplete s.eid c.seq) s = .next t ∧ ends t ∧ Rules.copied (c.len / 8) G H s t))

/-- R162, R362, R205, R208, R347, R348, R361, R367, outside a hand-off slot: TWALL and TWANY answer the tags of their mask where it is
satisfied and else wait; TFFR answers the lowest set tag or 64; TCLR clears tags, but for those that a command set in its cycle (R178); SCRD
reads a counter, SCSET and SCADD change it and answer the old value, SCWAIT answers it or waits on its list; TSEND arms trigger 0 of an etlet
with none where its counter is not reached, and answers 32 where none is free; TCANCEL disarms a trigger of the kernel with 0, and answers 1
for none. The model's choices behind it: log entry 55. -/
def Obligations.TagsAndCounters : Prop :=
  ∀ (s : State) (d a b : Nat), s.thr.isSome = true → s.handoff = false →
    (∀ all i, (all = true ∧ i = .twall d a ∨ all = false ∧ i = .twany d a) → Issues i s →
      let m := s.rd a
      let v := s.rd 118 &&& m
      let ok := if all then v = m else v ≠ 0 ∨ m = 0
      (ok → ∃ u : State, Completes i s (advance (u.wr d v)) ∧ u.thr = s.thr ∧ u.mem = s.mem) ∧
      (¬ok → ∃ t, exec i s = .next t ∧ t.th.st = .waiting (.tags all m) ∧ t.th.waitD = d ∧ t.th.pc = s.th.pc ∧ t.mem = s.mem)) ∧
    (Issues (.tffr d a) s → ∃ u : State, Completes (.tffr d a) s (advance (u.wr d (wd (((List.range 64).find? (fun x => (s.rd 118 &&& s.rd a).getLsbD x)).getD 64)))) ∧
      u.thr = s.thr ∧ u.mem = s.mem) ∧
    (Issues (.tclr a) s → ∃ t, Completes (.tclr a) s t ∧
      t.etl.tags = s.etl.tags &&& ~~~(if s.etl.tagAt = s.now then s.rd a &&& ~~~s.etl.tagNew else s.rd a) ∧ t.th.pc = (endTest s.th).pc ∧ t.th.g = s.th.g ∧ t.mem = s.mem) ∧
    (Issues (.scrd d b) s → Completes (.scrd d b) s (advance ((start s).wr d (s.seen (wd (kgetD s.etl.sc b 0)))))) ∧
    (∀ i v, (i = .scset d a b ∧ v = bits (s.rd a) 31 0 ∨ i = .scadd d a b ∧ v = (kgetD s.etl.sc b 0 + bits (s.rd a) 31 0) % 2 ^ 32) →
      Issues i s → s.etl.trigs = [] → kgetD s.etl.scWait b [] = [] → d < 112 → s.th.kill = none →
      ∃ t, Completes i s t ∧ kgetD t.etl.sc b 0 = v ∧ (∀ k, k ≠ b → kgetD t.etl.sc k 0 = kgetD s.etl.sc k 0) ∧
        t.live d = wd (kgetD s.etl.sc b 0) ∧ t.th.pc = (endTest s.th).pc ∧ t.mem = s.mem) ∧
    (Issues (.scwait d a b) s → let c := kgetD s.etl.sc b 0; let n := bits (s.rd a) 31 0
      (reaches c n = true → ∃ u : State, Completes (.scwait d a b) s (advance (u.wr d (wd c))) ∧ u.thr = s.thr) ∧
      (reaches c n = false → ∃ t, exec (.scwait d a b) s = .next t ∧ t.th.st = .waiting .counter ∧ t.th.waitD = d ∧
        kgetD t.etl.scWait b [] = kgetD s.etl.scWait b [] ++ [(s.th.tid, n)] ∧ t.th.pc = s.th.pc ∧ t.mem = s.mem)) ∧
    (Issues (.tsend d a b) s → firstFault (putCause false a s) = none → bits (s.rd b) 63 36 = 0 → s.th.pend = [] →
      s.storesOut s.th.tid s.before = false → s.etl.trigs = [] →
      reaches (kgetD s.etl.sc (bits (s.rd b) 35 32) 0) (bits (s.rd b) 31 0) = false → d < 112 → s.th.kill = none →
      ∃ t g, Completes (.tsend d a b) s t ∧ t.live d = 0 ∧ kget t.etl.trigs 0 = some g ∧ g.kid = s.th.kid ∧ g.word = (s.rd b).toNat ∧
        g.cmd = s.putCmd .put a ∧ t.etl.copyq = s.etl.copyq ∧ t.th.pc = (endTest s.th).pc ∧ t.mem = s.mem) ∧
    (Issues (.tsend d a b) s → firstFault (putCause false a s) = none → bits (s.rd b) 63 36 = 0 → s.th.pend = [] →
      s.storesOut s.th.tid s.before = false → (∀ i, i < 32 → (kget s.etl.trigs i).isSome = true) →
      Completes (.tsend d a b) s (advance ((start s).wr d 32))) ∧
    (Issues (.tcancel d a) s →
      (∀ g, (s.rd a).toNat < 32 → kget s.etl.trigs (s.rd a).toNat = some g → g.kid = s.th.kid → ∃ t, Completes (.tcancel d a) s t ∧
        t.etl.trigs = kdel s.etl.trigs (s.rd a).toNat ∧ (d < 112 → s.th.kill = none → t.live d = 0) ∧ t.mem = s.mem) ∧
      (kget s.etl.trigs (s.rd a).toNat = none → Completes (.tcancel d a) s (advance ((start s).wr d 1))))

/-! ### Rings, the matrix engine, accumulators and blocks -/

/-- R163 to R172, R273, R332, R344, R151, outside a hand-off slot: RDEF defines a ring and answers 0 where the descriptor is
well formed, the ring free and its bytes inside the scratchpad and apart from other rings; RQRY, RDROP and RRESET act on the
kernel's ring; MMA is queued and its thread waits; MMA_START claims its tiles and MMA_COMPLETE puts its result into the
accumulator, pops both tiles and lets the thread go on; ACLR clears once what was issued before it has completed, and waits till then,
ASTO stores and ALD loads cells. An INT8 element is the sum of its products modulo 2^48. The model's choices behind it: log entries 57, 59 and 61.
-/
def Obligations.MatrixUnit : Prop :=
  (∀ (n acc : Nat) (xs ys : List Nat), xs.length = 32 * n → ys.length = 32 * n → (∀ x ∈ xs, x < 256) → (∀ y ∈ ys, y < 256) → acc < 2 ^ 48 →
    mmaCell 6 32 n (xs.map int8) (ys.map int8) acc 0 =
      (((Int.ofNat acc + (List.zipWith (fun x y => Rules.signed 8 x * Rules.signed 8 y) xs ys).sum) % 2 ^ 48).toNat, 0)) ∧
  ∀ s : State, s.thr.isSome = true → s.handoff = false →
    let first := ∀ m, s.etl.mmas.head? = some m → m.tid = s.th.tid ∧ m.aux.isSome = true
    let alone := (∀ e ∈ s.etl.buf, e.tid ≠ s.th.tid) ∧ s.storesOut s.th.tid (fun e => decide (e.ssn < s.th.ssn)) = false
    (∀ d a b, Issues (.rdef d a b) s → (descOk (s.rd a) (s.rd (a + 1)) = false → Completes (.rdef d a b) s (advance ((start s).wr d 1))) ∧
      (let r := ringOf s.lkey (s.rd a) (s.rd (a + 1))
       descOk (s.rd a) (s.rd (a + 1)) = true → (kget s.etl.rings b = none ∨ ∃ o, kget s.etl.rings b = some o ∧ o.kid = s.lkey ∧ o.q = [] ∧ s.cpyrPending b = false) →
        r.base + r.tiles * r.slotBytes ≤ 0x30000 →
        (∀ p ∈ s.etl.rings, p.1 ≠ b → r.base + r.tiles * r.slotBytes ≤ p.2.base ∨ p.2.base + p.2.tiles * p.2.slotBytes ≤ r.base) →
        ∃ u : State, Completes (.rdef d a b) s (advance (u.wr d 0)) ∧ kget u.etl.rings b = some r ∧
          (∀ k, k ≠ b → kget u.etl.rings k = kget s.etl.rings k) ∧ u.thr = s.thr ∧ u.mem = s.mem)) ∧
    (∀ d b r, kget s.etl.rings b = some r → r.kid = s.lkey →
      (Issues (.rqry d b) s → Completes (.rqry d b) s (advance ((start s).wr d (s.seen (wd r.query))))) ∧
      (Issues (.rdrop d b) s → (∀ x, r.q.head? = some x → x.complete = true → x.claimed = false →
          ∃ u : State, Completes (.rdrop d b) s (advance (u.wr d 0)) ∧ kget u.etl.rings b = some r.pop ∧ r.pop.q.length + 1 = r.q.length ∧
            u.thr = s.thr ∧ u.mem = s.mem) ∧
        ((∀ x, r.q.head? = some x → x.complete = false ∨ x.claimed = true) → Completes (.rdrop d b) s (advance ((start s).wr d 1)))) ∧
      (Issues (.rreset b) s → (∀ x ∈ r.q, x.claimed = false) → s.mmaWaits b = false → s.cpyrPending b = false →
        ∃ t, Completes (.rreset b) s t ∧ kget t.etl.rings b = none ∧ t.th.pc = (endTest s.th).pc ∧ t.th.g = s.th.g ∧ t.mem = s.mem) ∧
      (Issues (.rreset b) s → ((∃ x ∈ r.q, x.claimed = true) ∨ s.mmaWaits b = true ∨ s.cpyrPending b = true) → Waits (.rreset b) s (.ring b))) ∧
    (∀ i b, (∃ d, i = .rqry d b ∨ i = .rdrop d b) ∨ i = .rreset b → Issues i s → kget s.etl.rings b = none →
      Traps i s { code := 0x01, eval := wd (768 + b), info := 1 }) ∧
    (∀ r q c f p z w m A B, Issues (.mma r q c f p z w m) s → s.dlogFull = false → r ≠ q → s.kring r = some A → s.kring q = some B →
      A.fmt ∈ (mmaFmt f).1 → B.fmt ∈ (mmaFmt f).2 → A.lines ∈ [32, 64, 128] → B.lines ∈ [16, 32, 64] → A.sp = p → B.sp = 0 → A.k = B.k →
      (z = 0 → s.accType c = mmaType f) → (w = 1 → A.lines = (s.perm m).length) → s.th.pend = [] →
      s.storesOut s.th.tid s.before = false →
      ∃ t x, Completes (.mma r q c f p z w m) s t ∧ t.etl.mmas = s.etl.mmas ++ [x] ∧ x.tid = s.th.tid ∧ x.ra = r ∧ x.rb = q ∧ x.ac = c ∧ x.fm = f ∧
        x.z = decide (z = 1) ∧ x.perm = (if w = 1 then some (s.perm m) else none) ∧ x.started = none ∧ x.aux = none ∧ t.th.st = .waiting .mma ∧
        t.th.pc = s.th.pc ∧ t.th.g = s.th.g ∧ t.etl.acc0 = s.etl.acc0 ∧ t.etl.acc1 = s.etl.acc1 ∧ t.mem = s.mem) ∧
    (∀ x A B, (s.etl.mmas.filter (·.started.isSome)).length < 2 → s.etl.mmas.find? (fun m => m.started.isNone) = some x → x.aux = none → x.ra ≠ x.rb →
      kget s.etl.rings x.ra = some A → kget s.etl.rings x.rb = some B → A.claimable.isSome = true → B.claimable.isSome = true →
      ∃ t, exec (.mmaStart s.eid) s = .next t ∧ kget t.etl.rings x.ra = some A.claim ∧ kget t.etl.rings x.rb = some B.claim ∧
        (A.claim.q.filter (·.claimed)).length = (A.q.filter (·.claimed)).length + 1 ∧ t.th = s.th ∧ t.mem = s.mem ∧
        t.etl.mmas = mapFirst (fun y => decide (y = x)) (fun y => { y with started := some s.now }) s.etl.mmas) ∧
    (∀ x A B, s.etl.mmas.find? (fun m => m.started.isSome) = some x → x.tid = s.th.tid → s.th.deferred = none → x.ra ≠ x.rb →
      (kset s.etl.threads s.slot s.thr).find? (fun p => decide (p.2.tid = x.tid)) = some (s.slot, s.th) →
      kget s.etl.rings x.ra = some A → kget s.etl.rings x.rb = some B → A.q ≠ [] → B.q ≠ [] →
      ∃ t y z, exec (.mmaComplete s.eid) s = .next t ∧ A.q.head? = some y ∧ B.q.head? = some z ∧
        (let la := tileLines s A (scratch s.eid + A.base + y.slot * A.slotBytes) y.bytes
         let lb := tileLines s B (scratch s.eid + B.base + z.slot * B.slotBytes) z.bytes
         let r := mmaRun x A.k la.1 lb.1 (s.etl.acc x.ac)
         t.etl.acc x.ac = r.1 ∧ t.th.fcsr = s.th.fcsr ||| wd ((if la.2 || lb.2 then r.2 ||| 16 else r.2) % 32)) ∧
        t.etl.mmas = s.etl.mmas.erase x ∧ kget t.etl.rings x.ra = some A.pop ∧ kget t.etl.rings x.rb = some B.pop ∧
        t.th.st = .ready ∧ t.th.pc = (endTest s.th).pc ∧ t.th.g = s.th.g ∧ t.mem = s.mem) ∧
    (∀ a b, b < 2 → Issues (.aclr a b) s →
      (s.etl.mmas ≠ [] → (∀ m ∈ s.etl.mmas, m.tid = s.th.tid → m.aux = none) →
        ∃ t, exec (.aclr a b) s = .next t ∧ t.th.st = .waiting .mmaDrain ∧ t.etl.acc0 = s.etl.acc0 ∧ t.etl.acc1 = s.etl.acc1 ∧ t.th.pc = s.th.pc ∧
          t.th.g = s.th.g ∧ t.mem = s.mem) ∧
      (first → ∃ t, Completes (.aclr a b) s t ∧ (t.etl.acc b).ty = a ∧ (∀ i j, (t.etl.acc b).cell i j = 0) ∧ t.etl.mmas = s.etl.mmas.tail ∧
        (∀ c, c < 2 → c ≠ b → t.etl.acc c = s.etl.acc c) ∧ t.th.pc = (endTest s.th).pc ∧ t.th.g = s.th.g ∧ t.mem = s.mem)) ∧
    (∀ a b, Issues (.asto a b) s → (∀ x, firstFault (accCause false a b s ++ [astoHazard a s]) = some x → Traps (.asto a b) s x) ∧
      (firstFault (accCause false a b s ++ [astoHazard a s]) = none → first → alone → MemOk s →
        let c := s.rd (a + 1)
        let da := scratch s.eid + bits (s.rd a) 17 0
        let sa := scratch s.eid + bits (s.rd (a + 2)) 17 0
        ∃ t, Completes (.asto a b) s t ∧ t.th.pc = (endTest s.th).pc ∧ t.th.g = s.th.g ∧ t.etl.acc0 = s.etl.acc0 ∧ t.etl.acc1 = s.etl.acc1 ∧
          (∀ g, (∀ i, i < ctlRows c → g < da + i * ctlPitch c ∨ da + i * ctlPitch c + rowBytes (ctlFmt c) (ctlCols c) ≤ g) →
            (ctlMx c = true → g < sa ∨ sa + ctlScales c ≤ g) → memRd t.mem g = memRd s.mem g) ∧
          (∀ i j k, ctlFmt c = 7 → i < ctlRows c → j < ctlCols c → k < 8 →
            memRd t.mem (da + i * ctlPitch c + 8 * j + k) = BitVec.ofNat 8 (((s.etl.acc b).cell i j).toNat / 256 ^ k)))) ∧
    (∀ a b, b < 2 → Issues (.ald a b) s → (∀ x, firstFault (accCause true a b s) = some x → Traps (.ald a b) s x) ∧
      (firstFault (accCause true a b s) = none → first → alone → s.etl.buf = [] → s.etl.benchW = [] →
        let c := s.rd (a + 1)
        let da := scratch s.eid + bits (s.rd a) 17 0
        let w := rowBytes (ctlFmt c) 1
        ∃ t, Completes (.ald a b) s t ∧ t.th.pc = (endTest s.th).pc ∧ t.th.g = s.th.g ∧ t.mem = s.mem ∧
          (∀ k, k < 2 → k ≠ b → t.etl.acc k = s.etl.acc k) ∧ (t.etl.acc b).ty = (s.etl.acc b).ty ∧
          (∀ i j, j < 64 → (t.etl.acc b).cell i j =
            if i < ctlRows c ∧ j < ctlCols c then wd (aldCell (ctlFmt c) (s.scr (da + i * ctlPitch c + j * w) w)).1 else (s.etl.acc b).cell i j)))

/-- R145, R146, R154, R279 to R281, R298, R299, R341 to R343: a block instruction takes the first of its causes, or goes on and waits
for its d and flags; it writes in its destination range of the own scratchpad alone, and for one block of a fixed size
the bytes, d and flags are those of the exact values quantised or rounded once.
The model's choices behind it: log entry 41. -/
def Obligations.BlockQuantisation : Prop :=
  ∀ (i : Instr) (s : State) (cs : List (Option Cause)) (d cyc a n : Nat) (one : Option (List Nat × Nat × Nat)),
    s.thr.isSome = true → MemOk s → Issues i s → Rules.blockOp i s = some (cs, d, cyc, a, n, one) →
    (∀ c, firstFault cs = some c → Traps i s c) ∧
    (firstFault cs = none → s.etl.buf = [] → s.etl.benchW = [] → s.storesOut s.th.tid (fun e => decide (e.ssn < s.th.ssn)) = false →
      ∃ t, Completes i s t ∧ t.th.st = .waiting .alu ∧ t.th.waitD = d ∧ t.th.resAt = s.now + cyc ∧
      t.th.pc = (endTest s.th).pc ∧ t.th.g = s.th.g ∧ t.th.fcsr = s.th.fcsr ∧ MemOk t ∧
      (∀ b, b < a ∨ a + n ≤ b → memRd t.mem b = memRd s.mem b) ∧
      (∀ bs v fl, one = some (bs, v, fl) → t.th.res = wd v ∧ t.th.flags = fl ∧
        ∀ j, j < bs.length → memRd t.mem (a + j) = BitVec.ofNat 8 (bs.getD j 0)))

/-! ### Synchronisation -/

/-- R113 to R116, R128 to R133, R288, R312, R324, R354, R355: outside a hand-off slot, with the thread's stores gone: SNEW
installs an object under the lowest free index, SFREE takes one away and advances its index's generation, SPOKE writes a cell,
LEGQ and FOULC serve the legitimacy flags and FOUL, CKPT switches checkpoint, SOUND waits for verdicts and for confirmed stores.
A handle that fails a check of R116 takes PROT with EVAL = the handle. The model's choices behind it: log entries 76, 77, 79, 83
to 85 and 137. -/
def Obligations.SyncObjects : Prop :=
  ∀ (s : State) (d a b : Nat), s.thr.isSome = true → s.handoff = false → Settled s →
    (∀ h k p o, s.obj (s.objKey b (bits h 16 5)) = some o →
      (bits h 2 0 ≠ b ∨ o.scope ≠ b ∨ o.launch ≠ s.lkey ∨ o.gen ≠ bits h 31 17 ∨ o.kind ≠ bits h 4 3 ∨ b = 1 ∧ bits h 41 32 ≠ s.vetl ∨ k = some (o.kind + 1)) →
      s.handleOk h b k p = none) ∧
    (∀ h k p, s.obj (s.objKey b (bits h 16 5)) = none → s.handleOk h b k p = none) ∧
    (∀ i, i = .sfree d a b ∨ i = .spoke d a b ∧ (BitVec.ofNat 32 s.lnch.modes).getLsbD 4 = true → Issues i s → s.handleOk (s.rd a) b none false = none →
      Traps i s { code := 0x05, eval := s.rd a }) ∧
    (Issues (.snew d a b) s → let v := s.rd a
      (badDesc s.lnch.threads v = true → Completes (.snew d a b) s (advance ((start s).wr d 1))) ∧
      (badDesc s.lnch.threads v = false → (∀ i, i < syncCapacity b → (s.obj (s.objKey b i)).isSome = true) →
        Completes (.snew d a b) s (advance ((start s).wr d 0))) ∧
      (∀ i, badDesc s.lnch.threads v = false → i < syncCapacity b → s.obj (s.objKey b i) = none →
        (∀ j, j < i → (s.obj (s.objKey b j)).isSome = true) →
        ∃ (u : State) (o : SyncObj), Completes (.snew d a b) s (advance (u.wr d (o.handle (s.objKey b i)))) ∧
          kget u.objs (s.objKey b i) = some o ∧ (∀ k, k ≠ s.objKey b i → kget u.objs k = kget s.objs k) ∧
          o.launch = s.lkey ∧ o.kind = bits v 1 0 ∧ o.t = bits v 13 8 ∧ o.scope = b ∧ o.gen = s.gen (s.objKey b i) ∧ o.home = s.home b ∧
          (∀ n ∈ o.nodes, n.2.ph = 0 ∧ n.2.arr = 0 ∧ n.2.cnt = 0 ∧ n.2.x = 0 ∧ n.2.c = 0) ∧ u.thr = s.thr ∧ u.mem = s.mem)) ∧
    (∀ k o, Issues (.sfree d a b) s → s.handleOk (s.rd a) b none false = some k → s.obj k = some o →
      (s.verdictsPending k = true → Waits (.sfree d a b) s (.sfree k)) ∧
      (s.verdictsPending k = false → o.waited = true → Completes (.sfree d a b) s (advance ((start s).wr d 1))) ∧
      (s.verdictsPending k = false → o.waited = false → (∀ n ∈ o.nodes, n.2.grant = none) →
        ∃ u : State, Completes (.sfree d a b) s (advance (u.wr d 0)) ∧ u.obj k = none ∧ (∀ j, j ≠ k → u.obj j = s.obj j) ∧
          u.gen k = (if 32767 ≤ o.gen then 1 else o.gen + 1) ∧ u.thr = s.thr ∧ u.mem = s.mem)) ∧
    (Issues (.spoke d a b) s → (BitVec.ofNat 32 s.lnch.modes).getLsbD 4 = false → Traps (.spoke d a b) s { code := 0x05, eval := s.rd a }) ∧
    (∀ k o n x, Issues (.spoke d a b) s → (BitVec.ofNat 32 s.lnch.modes).getLsbD 4 = true → s.handleOk (s.rd a) b none false = some k →
      s.obj k = some o → s.lnch.stationOf (bits (s.rd (a + 1)) 63 32) = some n → kget o.nodes n = some x →
      let c := bits (s.rd (a + 1)) 7 0
      let sub := bits (s.rd (a + 1)) 15 8
      let y := x.poke n c sub (s.rd (a + 2)).toNat
      (o.hasCell n c sub = false → Traps (.spoke d a b) s { code := 0x05, eval := s.rd (a + 1) }) ∧
      (o.hasCell n c sub = true → (o.kind = 0 → y.cnt < ({ o with nodes := kput o.nodes n y } : SyncObj).expect n) →
        ∃ u : State, Completes (.spoke d a b) s (advance (u.wr d (wd (x.cell n c sub)))) ∧ (u.obj k).map (fun p => p.node n) = some y ∧
          (∀ j, j ≠ k → u.obj j = s.obj j) ∧ u.thr = s.thr ∧ u.mem = s.mem)) ∧
    (Issues (.legq d b) s → Completes (.legq d b) s (advance ((start s).wr d
      (s.seen (wd (kgetD (kgetD s.stations (s.home b * 8 + b) {}).bad s.lkey 0 * 2 ^ 32) ||| s.legitBits))))) ∧
    ((∀ p ∈ s.objs, p.2.launch ≠ s.lkey) → s.legitBits = 63) ∧
    (Issues (.foulc a) s → ∃ t, Completes (.foulc a) s t ∧ t.th.foul = s.th.foul &&& ~~~(s.rd a &&& 0x3F) ∧ t.th.pc = (endTest s.th).pc ∧
      t.th.g = s.th.g ∧ t.mem = s.mem) ∧
    (Issues (.ckpt d a) s → let on := s.kern.ckpt.on; let want := (s.rd a).getLsbD 0
      (want = on → Completes (.ckpt d a) s (advance ((start s).wr d (if on then 1 else 0)))) ∧
      (want = true → on = false → ∃ u : State, Completes (.ckpt d a) s (advance (u.wr d 0)) ∧ u.kern.ckpt = { on := true } ∧ u.thr = s.thr ∧ u.mem = s.mem) ∧
      (want = false → on = true → s.teamPending s.th.kid = true → Waits (.ckpt d a) s .ckptOff) ∧
      (want = false → on = true → s.teamPending s.th.kid = false → s.kern.ckpt.held = [] → s.etl.drainq = [] →
        ∃ u : State, Completes (.ckpt d a) s (advance (u.wr d 1)) ∧ u.kern.ckpt = {} ∧ u.thr = s.thr ∧ u.mem = s.mem)) ∧
    (Issues (.sound d b) s → (s.soundWaits b = true → Completes (.sound d b) s (waitFor (.sound b) d (start s))) ∧
      (s.soundWaits b = false → ∃ u : State, Completes (.sound d b) s (advance (u.wr d s.th.foul)) ∧ u.thr = s.thr ∧ u.mem = s.mem))

/-- R116, R121, R125 to R127, R282, R357, R364, R365: with the thread's stores gone, BAR counts its participant in and waits, and the last
arrival of a one-etlet barrier releases it with the next phase; BARA counts it in without a wait; BARW joins or answers; TOKA queues for the
token or takes it, TOKR passes it on from the node where it was granted; STEP waits for its neighbours or advances the clock; STEPR reads it.
The model's choices behind it: log entry 77. -/
def Obligations.SyncWaits : Prop :=
  ∀ (s : State) (d a b k : Nat) (o : SyncObj) (x : Node), s.thr.isSome = true → Settled s → s.th.pend = [] →
    s.obj k = some o → kget o.nodes s.eid = some x →
    let me := (s.th.tid, s.bit, true)
    let core := fun (t : State) => (t.obj k).map (fun p => p.node s.eid)
    let asleep := fun (i : Instr) (n : Node) => ∃ t, Completes i s t ∧ t.th.st = .waiting .sync ∧ t.th.waitD = d ∧ t.th.pc = s.th.pc ∧
      t.th.g = s.th.g ∧ t.mem = s.mem ∧ core t = some n
    let awake := fun (i : Instr) (v : Word) (n : Node → Prop) => ∃ t, Completes i s t ∧ t.th.st = .ready ∧ t.live d = v ∧
      (∀ r, r < 112 → r ≠ d → t.live r = s.live r) ∧ t.th.pc = (endTest s.th).pc ∧ t.mem = s.mem ∧ ∃ y, core t = some y ∧ n y
    (∀ i kd, (kd = 0 ∧ (i = .bar d a b ∨ i = .bara d a b ∨ i = .barw d a b) ∨ kd = 1 ∧ (i = .toka d a b ∨ i = .tokr d a b) ∨
        kd = 2 ∧ (i = .step d a b ∨ i = .stepr d a b)) → Issues i s → s.handleOk (s.rd a) b (some kd) true = none →
      Traps i s { code := 0x05, eval := s.rd a }) ∧
    (s.handleOk (s.rd a) b (some 0) true = some k → x.waits.any (fun w => decide (w.1 = s.th.tid)) = false →
      (Issues (.bar d a b) s → (x.cnt + 1) % 256 < o.expect s.eid →
        asleep (.bar d a b) { x with waits := x.waits ++ [me], arr := x.arr ||| 2 ^ s.bit, cnt := (x.cnt + 1) % 256 }) ∧
      (Issues (.bar d a b) s → o.nodes = [(s.eid, x)] → o.par s.eid = none → 0 < o.expect s.eid → o.expect s.eid ≤ (x.cnt + 1) % 256 → x.waits = [] →
        (∀ p ∈ s.etl.kernels, p.2.ckpt.on = false) → s.th.kill = none → s.th.deferred = none → d < 112 →
        awake (.bar d a b) (wd ((x.ph + 1) % 4)) (fun y => y.ph = (x.ph + 1) % 4 ∧ y.cnt = 0 ∧ y.arr = 0 ∧ y.waits = [])) ∧
      (Issues (.bara d a b) s → (x.cnt + 1) % 256 < o.expect s.eid → ∃ u : State, Completes (.bara d a b) s (advance (u.wr d (wd x.ph))) ∧
        core u = some { x with waits := x.waits ++ [(s.th.tid, s.bit, false)], arr := x.arr ||| 2 ^ s.bit, cnt := (x.cnt + 1) % 256 } ∧
        u.thr = s.thr ∧ u.mem = s.mem) ∧
      (Issues (.barw d a b) s → s.arrivedAt k = none → Completes (.barw d a b) s (advance ((start s).wr d (wd x.ph))))) ∧
    (s.handleOk (s.rd a) b (some 0) true = some k → s.arrivedAt k = some s.eid → Issues (.barw d a b) s →
      asleep (.barw d a b) { x with waits := x.waits.map (fun w => if w.1 = s.th.tid then (w.1, w.2.1, true) else w) }) ∧
    (s.handleOk (s.rd a) b (some 1) true = some k →
      (Issues (.toka d a b) s → s.holder k = true → Completes (.toka d a b) s (advance ((start s).wr d 0))) ∧
      (Issues (.toka d a b) s → s.holder k = false → o.priv s.eid = false → asleep (.toka d a b) { x with tokq := x.tokq ++ [s.th.tid] }) ∧
      (Issues (.toka d a b) s → s.holder k = false → o.priv s.eid = true → x.grant = none → x.tokq = [] → s.th.kill = none → s.th.deferred = none →
        d < 112 → awake (.toka d a b) 0 (fun y => y.grant = some s.th.tid ∧ y.tokq = [])) ∧
      (Issues (.tokr d a b) s → s.holder k = false → Completes (.tokr d a b) s (advance ((start s).wr d 1))) ∧
      (∀ m, Issues (.tokr d a b) s → s.holder k = true → s.grantNode k = some m → (∀ n ∈ o.nodes, n.2.tokq = []) → d < 112 → s.th.kill = none →
        ∃ t, Completes (.tokr d a b) s t ∧ t.live d = 0 ∧ (∀ r, r < 112 → r ≠ d → t.live r = s.live r) ∧
          t.th.grants = s.th.grants.filter (fun g => decide (g ≠ k)) ∧ t.th.pc = (endTest s.th).pc ∧ t.mem = s.mem ∧
          ∃ y, (t.obj k).map (fun p => p.node m) = some y ∧ y.grant = none)) ∧
    (s.handleOk (s.rd a) b (some 2) true = some k →
      let o' := { o with nodes := kput o.nodes s.eid { x with waits := x.waits ++ [me] } }
      (Issues (.step d a b) s → o'.canStep s.eid = false → asleep (.step d a b) { x with waits := x.waits ++ [me] }) ∧
      (Issues (.step d a b) s → o'.canStep s.eid = true → x.waits = [] → s.th.kill = none → s.th.deferred = none → d < 112 →
        awake (.step d a b) (wd ((x.c + 1) % 65536)) (fun y => y.c = (x.c + 1) % 65536 ∧ y.waits = [])) ∧
      (Issues (.stepr d a b) s → Completes (.stepr d a b) s (advance ((start s).wr d (wd x.c)))))

/-- R117 to R129, R133, R135: the events of stations and umpires. A completion report counts its child in; a phase message moves
a node on and tells its children; an unused token passes on; a station's clock advances where its neighbours allow it; a round's
start takes a clock more than 1 from its parent's to it; a round's end sets the legitimacy flags and judges the decisions; a
verdict leaves its thread, and a failed one sets its FOUL bit and raises FOUL; rounds wait while their unit is tested; a
rolled-back thread goes on where its scope is legitimate; an absent member leaves its node empty. The model's choices behind it:
log entries 35, 36, 78 and 81 to 83. -/
def Obligations.SyncEvents : Prop :=
  ∀ (s : State) (k : Nat) (o : SyncObj), s.obj k = some o →
    let node := fun (t : State) n => (t.obj k).map (fun p => p.node n)
    (∀ m c ph p x, s.smsgs[m]? = some (.report k c ph) → (∀ j, j < m → ∀ q, s.smsgs[j]? ≠ some (.report k c q)) → o.par c = some p →
      (o.node c).parent = some p → kget o.nodes p = some x → (BitVec.ofNat 64 x.arr).getLsbD (o.childIx p c) = false →
      (x.cnt + 1) % 256 < o.expect p →
      ∃ t y, exec (.completionReport m) s = .next t ∧ node t p = some y ∧ y.arr = x.arr ||| 2 ^ o.childIx p c ∧ y.cnt = (x.cnt + 1) % 256 ∧ y.ph = x.ph ∧
        t.smsgs = s.smsgs.eraseIdx m ∧ t.thr = s.thr ∧ t.mem = s.mem) ∧
    (∀ m c ph dec x, s.smsgs[m]? = some (.phase k c ph dec) → (∀ j, j < m → ∀ q r, s.smsgs[j]? ≠ some (.phase k c q r)) → kget o.nodes c = some x →
      (ph ≠ (x.ph + 1) % 4 → ∃ t, exec (.phaseMessage m) s = .next t ∧ t.objs = s.objs ∧ t.smsgs = s.smsgs.eraseIdx m ∧ t.thr = s.thr ∧ t.mem = s.mem) ∧
      (ph = (x.ph + 1) % 4 → x.absent = false → x.waits = [] → classOf c ≠ 0 → 0 < o.expect c →
        ∃ t y, exec (.phaseMessage m) s = .next t ∧ node t c = some y ∧ y.ph = ph ∧ y.arr = 0 ∧ y.cnt = 0 ∧
          t.smsgs = s.smsgs.eraseIdx m ++ (o.children c).map (fun n => .phase k n ph dec) ∧ t.thr = s.thr ∧ t.mem = s.mem)) ∧
    (∀ n x i, o.kind = 1 → kget o.nodes n = some x → o.priv n = true → x.grant = none → (∀ p ∈ o.nodes, p.2.tokq = []) →
      o.order.findIdx? (fun m => decide (m = n)) = some i →
      ∃ t, exec (.tokenPass k n) s = .next t ∧ node t n = some { x with x := if i = 0 then (x.x + 1) % 65536 else (o.node (o.order.getD (i - 1) n)).x } ∧
        t.thr = s.thr ∧ t.mem = s.mem) ∧
    (∀ n x, o.kind = 2 → kget o.nodes n = some x → o.canStep n = true → x.waits = [] →
      ∃ t, exec (.stepAdvance k n) s = .next t ∧ node t n = some { x with c := (x.c + 1) % 65536 } ∧ t.thr = s.thr ∧ t.mem = s.mem) ∧
    (∀ st, s.now < (kgetD s.stations st {}).roundAt + roundLen (st % 8) ∨ s.stationTested (st / 8) = true → exec (.syncRoundStart st) s = .next s) ∧
    (∀ st x p, (kgetD s.stations st {}).roundAt + roundLen (st % 8) ≤ s.now → s.stationTested (st / 8) = false → s.objs = [(k, o)] →
      o.scope = st % 8 → o.scope < 5 → o.kind = 2 → kget o.nodes (st / 8) = some x → x.absent = false → x.up = some p → p ≠ st / 8 →
      (o.node p).absent = false →
      let v := o.view s.now p
      1 < (diff16 x.c v.c).natAbs →
      ∃ t y, exec (.syncRoundStart st) s = .next t ∧ node t (st / 8) = some y ∧ y.c = v.c ∧ y.root = v.root ∧ y.dist = min 63 (v.dist + 1) ∧
        y.parent = some p ∧ (kgetD t.stations st {}).roundAt = s.now ∧ t.thr = s.thr ∧ t.mem = s.mem) ∧
    (∀ st, let r := kgetD s.stations st {}
      (s.now + 1 < r.roundAt + roundLen (st % 8) ∨ s.stationTested (st / 8) = true → exec (.umpireRoundEnd st) s = .next s) ∧
      (r.roundAt + roundLen (st % 8) ≤ s.now + 1 → r.endAt ≤ r.roundAt → s.stationTested (st / 8) = false → (∀ j, s.th.st ≠ .waiting (.sfree j)) → ∃ t, exec (.umpireRoundEnd st) s = .next t ∧
        (kgetD t.stations st {}).endAt = s.now + 1 ∧ t.thr = s.thr ∧ t.mem = s.mem ∧
        (∀ p ∈ s.objs, p.2.home = st / 8 → p.2.scope = st % 8 → kget (kgetD t.stations st {}).legit p.2.launch =
          some (s.objs.all (fun q => decide (q.2.home ≠ st / 8 ∨ q.2.scope ≠ st % 8 ∨ q.2.launch ≠ p.2.launch) || q.2.legit s))) ∧
        (s.objs = [(k, o)] → o.home = st / 8 → o.scope = st % 8 → o.kind = 0 →
          ∀ e ∈ o.decisions, e.verdict = none → e.made + 2 ≤ s.now →
            let tree := e.tree.getD (o.treesOk s)
            ∃ o', t.obj k = some o' ∧ ({ e with tree := some tree, verdict := some (e.ok && tree) } : Decision) ∈ o'.decisions))) ∧
    (∀ m dec ok, s.smsgs[m]? = some (.verdict s.th.tid k o.scope dec ok) → s.thr.isSome = true → s.th.st = .ready → s.th.pend = [(dec, k)] →
      s.etlets = [] → s.etl.threads = [] → s.etl.bench = [] → s.images = [] → s.kern.ckpt.bounds = [] → 1 ≤ o.scope → o.scope ≤ 6 →
      (ok = true → ∃ t, exec (.verdictDelivery m) s = .next t ∧ t.th.pend = [] ∧ t.th.foul = s.th.foul ∧ t.th.events = s.th.events ∧
        t.smsgs = s.smsgs.eraseIdx m ∧ t.th.pc = s.th.pc ∧ t.th.g = s.th.g ∧ t.mem = s.mem) ∧
      (ok = false → s.th.policy.toNat % 4 = 0 → s.th.events.length < 8 → ∃ t, exec (.verdictDelivery m) s = .next t ∧ t.th.pend = [] ∧
        t.th.foul = s.th.foul ||| wd (2 ^ (o.scope - 1)) ∧
        t.th.events = s.th.events ++ [{ code := 0x0C, eval := o.handle k, info := o.scope, level := 0, imp := true }] ∧ t.th.pc = s.th.pc ∧
        t.th.g = s.th.g ∧ t.mem = s.mem)) ∧
    (∀ b, s.thr.isSome = true → s.etl.threads = [] → s.th.st = .waiting (.rollback b) →
      ∃ t, exec (.rollbackResume s.eid s.th.kid) s = .next t ∧ t.th.st = (if s.legitAt b then .ready else .waiting (.rollback b)) ∧
        t.th.pc = s.th.pc ∧ t.th.g = s.th.g ∧ t.mem = s.mem) ∧
    (∀ st x, (kgetD s.stations st {}).roundAt + 3 * roundLen (st % 8) ≤ s.now → s.objs = [(k, o)] → o.scope = st % 8 → o.kind ≠ 0 →
      kget o.nodes (st / 8) = some x → x.absent = false → (∀ p ∈ o.nodes, p.2.grant = none) → o.par (st / 8) ≠ some (st / 8) → ∃ t y, exec (.memberAbsent st) s = .next t ∧ node t (st / 8) = some y ∧ y.absent = true ∧ y.waits = [] ∧
        y.tokq = [] ∧ y.arr = 0 ∧ y.cnt = 0 ∧ (classOf (st / 8) = 0 → y.gone = List.range o.t) ∧ t.thr = s.thr ∧ t.mem = s.mem)

/-! ### Messages, loop ports and migration -/

/-- R39 to R47, R105, R224, R301, R316, R350: SEND queues its words at the etlet named, a cause
traps, an earlier store to come or a stalled VC0 makes it wait; an arriving
message starts its handler in a free hand-off slot with its sender, words and count in registers, or waits; the 4,096th issue
of a message handler is its last; a held wake raises ABSENT in a hand-off slot, with EVAL = the slot of the benched thread; a loop-port word
and a credit reach their slot; GO takes its thread out of its gang and to the etlet that holds the address, once no store of it is to come
and no vector instruction is in flight; an arriving or parked thread takes a slot and windows that fit (no
gang is forming);
a forwarded item arrives.
The model's choices behind it: log entries 33, 86 to 89, 126, 133 and 142. -/
def Obligations.Messages : Prop :=
  ∀ s : State,
    let at_ := fun (t : State) (e : Nat) => if e = s.eid then t.etl else kgetD t.etlets e {}
    let runs := fun (t : State) (l kid : Nat) (m : Msg) => ∃ h, t.threadAt l = some h ∧ h.kid = kid ∧ h.pc = m.words.headD 0 ∧ h.st = .ready ∧
      h.handler = 1 ∧ h.status = 0 ∧ h.limit = 16 ∧ kgetD h.g 1 0 = m.sender ∧ kgetD h.g 10 0 = wd m.words.length ∧
      (∀ i, 1 ≤ i → i < 8 → kgetD h.g (i + 2) 0 = m.words.getD i 0)
    let sits := fun (t : State) (x : Thread) (kid : Nat) => ∃ l y, s.freeThreadSlot = some l ∧ t.threadAt l = some y ∧ y.tid = x.tid ∧ y.kid = kid ∧
      y.pc = x.pc ∧ y.g = x.g ∧ y.limit = x.limit ∧ y.status = x.status ∧ y.rank = x.rank ∧ y.base + y.limit ≤ s.etl.regCap ∧
      (∀ p ∈ s.seated, overlap y.base y.limit p.2.base p.2.limit = false) ∧ t.mem = s.mem
    let fits := fun (x : Thread) => Calm s ∧ (firstFit s.etl.regCap x.limit (s.seated.map (fun p => (p.2.base, p.2.limit)))).isSome = true ∧
      (firstFit 256 x.vlimit (s.seated.map (fun p => (p.2.vbase, p.2.vlimit)))).isSome = true ∧ s.freeThreadSlot.isSome = true
    (∀ a b, Issues (.send a b) s → (∀ c, sendCause a b s = some c → Traps (.send a b) s c) ∧
      (∀ e, sendCause a b s = none → s.lnch.chanEtlet (s.rd a) = some e → s.th.pend = [] →
        (s.storesOut s.th.tid s.before = true → Waits (.send a b) s .ack) ∧
        (s.storesOut s.th.tid s.before = false → s.vc0Stalls e = true → Waits (.send a b) s .stall) ∧
        (s.storesOut s.th.tid s.before = false → s.vc0Stalls e = false → s.thr.isSome = true → ∃ t m, Completes (.send a b) s t ∧
          (at_ t e).msgs = (at_ s e).msgs ++ [m] ∧ m.launch = s.lkey ∧ m.sender = s.myVirt ∧ m.words.length = bits (s.rd b) 3 0 ∧
          m.scope = scopeBetween s.eid e ∧ m.src = s.eid ∧
          (∀ i, i < m.words.length → m.words.getD i 0 = s.rd (a + 1 + i)) ∧ t.th.pc = (endTest s.th).pc ∧ t.th.g = s.th.g ∧ t.mem = s.mem))) ∧
    (∀ m rest, s.etl.msgs = m :: rest → s.heldBack s.eid m.launch = false → s.etlets = [] → pkgOf m.src = pkgOf s.eid →
      (∀ l kid k, s.etl.inbox = [] → s.freeHandoff = some l → s.kernelOf m.launch = some (kid, k) →
        ∃ t, exec (.activeMessageArrival s.eid) s = .next t ∧ t.etl.msgs = rest ∧ t.etl.inbox = [] ∧ runs t l kid m ∧ t.mem = s.mem) ∧
      (s.freeHandoff = none → s.msgRoom = true →
        ∃ t, exec (.activeMessageArrival s.eid) s = .next t ∧ t.etl.msgs = rest ∧ t.etl.inbox = s.etl.inbox ++ [m] ∧ t.mem = s.mem) ∧
      (s.msgRoom = false → exec (.activeMessageArrival s.eid) s = .next s)) ∧
    (∀ m rest l kid k, s.etl.inbox = m :: rest → s.etlets = [] → Quiet s → s.freeHandoff = some l → s.kernelOf m.launch = some (kid, k) →
      ∃ t, exec (.handlerStart s.eid) s = .next t ∧ t.etl.inbox = rest ∧ runs t l kid m ∧ t.mem = s.mem) ∧
    ((s.handoff = false ∨ s.th.handler ≠ 1 ∨ s.th.issues < 4096 ∨ s.th.st = .waiting .exitDrain) → exec (.handlerIssueLimit s.eid s.slot) s = .next s) ∧
    (s.thr.isSome = true → s.handoff = true → s.th.handler = 1 → 4096 ≤ s.th.issues → s.th.st ≠ .waiting .exitDrain → s.th.gangN = 0 → s.etlets = [] → s.lnch.policy / 4 % 4 = 0 →
      ∃ t, exec (.handlerIssueLimit s.eid s.slot) s = .next t ∧ t.thr = none ∧ t.mem = s.mem) ∧
    (∀ a rest l kid k, s.etl.absent = a :: rest → s.freeHandoff = some l → s.kernelOf a.lk = some (kid, k) →
      ∃ t h, exec (.absent s.eid) s = .next t ∧ t.etl.absent = rest ∧ t.threadAt l = some h ∧ h.kid = kid ∧ h.pc = s.etl.schedvec ∧ h.st = .ready ∧
        bits h.status 0 0 = 1 ∧ bits h.status 4 4 = 1 ∧ bits h.ecause 7 0 = 0x10 ∧ h.eval = wd a.slot ∧ t.mem = s.mem) ∧
    (∀ w rest, s.thr.isSome = true → s.etl.lpIn = w :: rest → w.slot = s.slot → s.handoff = false → w.lk = s.lkey → s.heldBack s.eid w.lk = false →
      pkgOf w.srcE = pkgOf s.eid →
      (16 ≤ (kgetD s.th.inq w.port []).length → exec (.loopPortWordArrival s.eid) s = .next s) ∧
      ((kgetD s.th.inq w.port []).length < 16 → ∃ t, exec (.loopPortWordArrival s.eid) s = .next t ∧ t.etl.lpIn = rest ∧
        kgetD t.th.inq w.port [] = kgetD s.th.inq w.port [] ++ [w] ∧ (∀ k, k ≠ w.port → kgetD t.th.inq k [] = kgetD s.th.inq k []) ∧
        t.th.st = (if s.th.st = .waiting .lport then .ready else s.th.st) ∧ t.th.pc = s.th.pc ∧ t.th.g = s.th.g ∧ t.mem = s.mem)) ∧
    (∀ k i, s.thr.isSome = true → s.etl.crIn.findIdx? (fun c => decide (c.1 = s.slot ∧ c.2.1 = k)) = some i → (s.etl.crIn.getD i (0, 0, 0)).2.2 = s.th.tid →
      ∃ t, exec (.loopPortCreditReturn s.eid s.slot k) s = .next t ∧ kgetD t.th.credits k 16 = min 16 (kgetD s.th.credits k 16 + 1) ∧
        t.etl.crIn = s.etl.crIn.eraseIdx i ∧ t.th.st = (if s.th.st = .waiting .lport ∨ s.th.st = .waiting (.credit k) then .ready else s.th.st) ∧
        t.th.pc = s.th.pc ∧ t.th.g = s.th.g ∧ t.mem = s.mem) ∧
    (∀ a, s.thr.isSome = true → s.handoff = false → Issues (.go a) s →
      (canonical (s.rd a) = false → Traps (.go a) s { code := 0x04, eval := s.rd a }) ∧
      (canonical (s.rd a) = true → (inWindow (s.rd a) = false ∨ 0x30000 ≤ bits (s.rd a) 17 0 ∨ s.windowEtlet (s.rd a) = none ∨ s.kern.battery = true) →
        Traps (.go a) s { code := 0x05, eval := s.rd a }) ∧
      (∀ e, canonical (s.rd a) = true → inWindow (s.rd a) = true → bits (s.rd a) 17 0 < 0x30000 → s.kern.battery = false →
        s.windowEtlet (s.rd a) = some e → s.th.pend = [] →
        (s.vectorOut = true → Waits (.go a) s .bench) ∧
        (s.vectorOut = false → Settled s → s.kern.ckpt.held = [] →
        (e = s.eid → ∃ t, Completes (.go a) s t ∧ t.th.pc = (endTest s.th).pc ∧ t.th.gangN = 0 ∧ t.th.g = s.th.g ∧ t.mem = s.mem) ∧
        (e ≠ s.eid → s.th.gangN = 0 → Calm s → ∃ t x, exec (.go a) s = .next t ∧ t.thr = none ∧ (kgetD t.etlets e {}).goIn = (kgetD s.etlets e {}).goIn ++ [x] ∧
          x.tid = s.th.tid ∧ x.lk = s.lkey ∧ x.pc = (endTest s.th).pc ∧ x.st = .ready ∧ (∀ n, n < 16 → kgetD x.g n 0 = kgetD s.th.g n 0) ∧
          (∀ n, 16 ≤ n → kgetD x.g n 0 = 0) ∧ x.chan = [] ∧ x.from_ = s.eid ∧ x.epc = s.th.epc ∧ x.foul = s.th.foul ∧ t.mem = s.mem)))) ∧
    (∀ x rest kid k, s.etl.goIn = x :: rest → s.heldBack s.eid x.lk = false → s.etl.parked = [] → pkgOf x.from_ = pkgOf s.eid →
      s.kernelOf x.lk = some (kid, k) →
      (fits x → ∃ t, exec (.goArrival s.eid) s = .next t ∧ t.etl.goIn = rest ∧ t.etl.parked = [] ∧ sits t x kid) ∧
      (s.freeThreadSlot = none → s.dugoutRoom = true → ∃ t, exec (.goArrival s.eid) s = .next t ∧ t.etl.goIn = rest ∧ t.etl.parked = [x] ∧ t.thr = s.thr ∧ t.mem = s.mem)) ∧
    (∀ x rest kid k, s.etl.parked = x :: rest → Quiet s → s.kernelOf x.lk = some (kid, k) →
      (fits x → ∃ t, exec (.parkedThreadPlace s.eid) s = .next t ∧ t.etl.parked = rest ∧ sits t x kid) ∧
      (s.freeThreadSlot = none → exec (.parkedThreadPlace s.eid) s = .next s)) ∧
    (∀ m rest l kid k, s.etl.fwd = (s.eid, .msg m) :: rest → s.etl.inbox = [] → Quiet s → s.freeHandoff = some l →
      s.kernelOf m.launch = some (kid, k) →
      ∃ t, exec (.mapsetForward s.eid) s = .next t ∧ t.etl.fwd = rest ∧ runs t l kid m ∧ t.mem = s.mem)

/-! ### Midfield memory and the network engine -/

/-- R210 to R216, R330, R331, R368, R369, outside a hand-off slot: the midfield instructions ask the switches and wait, an MFFREE unmapping
its region at once; the replies allocate, free, report quota and state; a switch loss leaves regions degraded or lost. WRQ
queues a request and answers its number, 0 with a full queue; WRCQ takes a record, UESTAT reports; packets place bytes; a request of no
counter that ends leaves the queue with its record, while the kernel's record queue has room: with the status and length of its completion
where the engine is ready and the local buffer can be read, UNREACHABLE where it is not, NORECV at the timeout.
The model's choices behind it: log entries 69 to 75, 146 and 159. -/
def Obligations.MidfieldAndNetwork : Prop :=
  ∀ s : State,
    let dom := kgetD s.domains s.myDom {}
    let quota := kgetD dom.quota
    (∀ d i op, s.thr.isSome = true → s.handoff = false → Issues i s →
      ((∃ a b, let n := bits (s.rd a) 31 0
          i = .mfalloc d a b ∧ op = .mfalloc (if n = 0 ∨ 65536 < n ∨ bits (s.rd a) 63 33 ≠ 0 then 0 else n) ((s.rd a).getLsbD 32) b) ∨
        (∃ a, i = .mffree d a ∧ op = .mffree (if (s.midRegion s.lkey (s.rd a).toNat).any (fun x => decide (x.2.va = (s.rd a).toNat)) then s.rd a else 0)) ∨
        (i = .mfquota d ∧ op = .mfquota) ∨ (∃ a, i = .mfstat d a ∧ op = .mfstat (s.rd a))) →
      ∃ t q, Completes i s t ∧ kget t.etl.reqs s.slot = some q ∧ q.op = op ∧ q.tid = s.th.tid ∧ q.key = s.kern.key ∧ q.reply = none ∧
        t.th.st = .waiting .mem ∧ t.th.waitD = d ∧ t.th.pc = s.th.pc ∧ t.th.g = s.th.g ∧ t.mem = s.mem ∧
        (∀ a n r, i = .mffree d a → s.midRegion s.lkey (s.rd a).toNat = some (n, r) → r.va = (s.rd a).toNat →
          (kgetD t.domains n {}).regions = (kgetD s.domains n {}).regions.map (fun y => if y = r then { y with unmapped := true } else y))) ∧
    (∀ q d, s.thr.isSome = true → s.th.st = .waiting .mem → s.th.kill = none → s.th.deferred = none → s.th.waitD = d → d < 112 →
      kget s.etl.reqs s.slot = some q → q.tid = s.th.tid → q.reply = none →
      let answers := fun (v : Word) (more : State → Prop) => ∃ t, exec (.memoryReply s.eid s.slot) s = .next t ∧ t.live d = v ∧ t.th.st = .ready ∧
        t.th.pc = (endTest s.th).pc ∧ t.mem = s.mem ∧ more t
      let mine := quota q.key (0, 0)
      (q.op = .mfquota → answers (wd (mine.1 * 2 ^ 32 + mine.2)) (fun _ => True)) ∧
      (∀ v, q.op = .mfstat v → answers (wd (match s.midRegion s.lkey v.toNat with | some r => r.2.state | none => 3)) (fun _ => True)) ∧
      (∀ n m b, q.op = .mfalloc n m b → b < 112 → b ≠ d →
        (n = 0 → answers 0 (fun t => t.live b = 3 ∧ t.domains = s.domains)) ∧
        (0 < n → m = false → mine.1 < mine.2 + n → answers 0 (fun t => t.live b = 1 ∧ t.domains = s.domains)) ∧
        (∀ c, 0 < n → m = false → mine.2 + n ≤ mine.1 → dom.placeOn (if dieOf s.eid % 4 < 2 then 0 else 1) n = some c →
          ∃ r : Region, r.launch = s.lkey ∧ r.granules = n ∧ r.copies = [c] ∧ r.state = 0 ∧ r.key = q.key ∧ r.va % 65536 = 0 ∧
            answers (wd r.va) (fun t => t.live b = 0 ∧ (kgetD t.domains s.myDom {}).regions = dom.regions ++ [r] ∧
              kgetD (kgetD t.domains s.myDom {}).quota q.key (0, 0) = (mine.1, mine.2 + n)))) ∧
      (let freed := fun (v : Word) => s.domains.findSome? (fun d =>
          (d.2.regions.find? (fun r => decide (r.launch = s.lkey ∧ r.unmapped ∧ r.va = v.toNat))).map (fun r => (d.1, r)))
       (∀ v, q.op = .mffree v → freed v = none → answers 1 (fun _ => True)) ∧
       (∀ v n r, q.op = .mffree v → freed v = some (n, r) → s.feq = [] →
        (s.regionBusy n r = true → exec (.memoryReply s.eid s.slot) s = .next s) ∧
        (s.regionBusy n r = false → answers 0 (fun t => r ∉ (kgetD t.domains n {}).regions ∧
          kgetD (kgetD t.domains n {}).quota r.key (0, 0) =
            ((kgetD (kgetD s.domains n {}).quota r.key (0, 0)).1, (kgetD (kgetD s.domains n {}).quota r.key (0, 0)).2 - r.charged)))))) ∧
    (∀ dm sw, s.feq = [] → ∃ t, exec (.switchLossNotice dm sw) s = .next t ∧ t.thr = s.thr ∧ t.mem = s.mem ∧
      (kgetD t.domains dm {}).switches = (kgetD s.domains dm {}).switches.filter (fun w => decide (w ≠ sw)) ∧
      (∀ p k, kget s.pkgs p = some k → kget t.pkgs p = some (if p / 1024 = dm then k.hear (dm * 128 + sw) (kgetD (kgetD s.domains dm {}).crit sw 0) (some (.switch sw)) else k)) ∧
      (kgetD t.domains dm {}).regions = (kgetD s.domains dm {}).regions.map (fun r =>
        if r.copies.any (fun c => decide (c.1 = sw)) && decide (r.state ≠ 2) then
          (if r.copies.length = 1 then { r with state := 2 }
           else { r with state := 1, copies := r.copies.filter (fun c => decide (c.1 ≠ sw)), gone := r.gone ++ r.copies.filter (fun c => decide (c.1 = sw)) })
        else r)) ∧
    (∀ d a, Issues (.wrq d a) s → s.dlogFull = false → s.thr.isSome = true → (∀ c, firstFault (wrqCause a s) = some c → Traps (.wrq d a) s c) ∧
      (firstFault (wrqCause a s) = none → s.th.pend = [] → 1024 ≤ s.myDie.ueSend.length → Completes (.wrq d a) s (advance ((start s).wr d 0))) ∧
      (firstFault (wrqCause a s) = none → s.th.pend = [] → s.myDie.ueSend.length < 1024 → s.storesOut s.th.tid s.before = true → Waits (.wrq d a) s .ack) ∧
      (firstFault (wrqCause a s) = none → s.th.pend = [] → s.myDie.ueSend.length < 1024 → s.storesOut s.th.tid s.before = false →
        ∃ (u : State) (w : Wrq), Completes (.wrq d a) s (advance (u.wr d (wd s.myDie.ueNext))) ∧ u.thr = s.thr ∧ u.mem = s.mem ∧ w.id = s.myDie.ueNext ∧
          w.op = bits (s.rd a) 3 0 ∧ w.peer = (s.rd (a + 3)).toNat ∧ w.rkey = bits (s.rd (a + 4)) 63 48 ∧ w.off = bits (s.rd (a + 4)) 47 0 ∧
          w.cmd.len = (s.rd (a + 2)).toNat ∧ w.cmd.src = s.rd (a + 1) ∧
          u.myDie.ueSend = (if bits (s.rd a) 3 0 = 2 then s.myDie.ueSend else s.myDie.ueSend ++ [w]) ∧
          u.myDie.ueRecv = (if bits (s.rd a) 3 0 = 2 then s.myDie.ueRecv ++ [w] else s.myDie.ueRecv) ∧
          u.myDie.ueNext = (if 65535 ≤ s.myDie.ueNext then 1 else s.myDie.ueNext + 1))) ∧
    (∀ d, s.handoff = false → Issues (.wrcq d) s → (kgetD s.myDie.ueRecs s.lkey [] = [] → Completes (.wrcq d) s (advance ((start s).wr d 0))) ∧
      (∀ r rest, kgetD s.myDie.ueRecs s.lkey [] = r :: rest → ∃ u : State, Completes (.wrcq d) s (advance (u.wr d r)) ∧
        kgetD u.myDie.ueRecs s.lkey [] = rest ∧ u.thr = s.thr ∧ u.mem = s.mem)) ∧
    (∀ d b, s.handoff = false → Issues (.uestat d b) s → b < 4 → Completes (.uestat d b) s (advance ((start s).wr d (s.seen (match b with
      | 0 => wd (s.myDie.ueSend.length + s.myDie.ueRecv.length)
      | 1 => wd (1024 - s.myDie.ueSend.length)
      | 2 => wd (min (2 ^ 64 - 1) s.myDie.ueResent)
      | _ => if s.readyBit (pkgOf s.eid) (56 + dieOf s.eid % 4) && !s.tested (dieOf s.eid / 4) (0x3C + dieOf s.eid % 4) &&
          Config.uePortUp (dieOf s.eid) s.now then 1 else 0))))) ∧
    (∀ die key off x r, kget (kgetD s.dies die {}).ueRegions key = some r →
      (r.len < off + 1 → exec (.uePacketArrival die 0 key off [x]) s = .next s) ∧
      (off + 1 ≤ r.len → s.tested (die / 4) (0x3C + die % 4) = false → r.sc = none → MemOk s → regionOf (r.base + off) = 2 → s.migCopy (r.base + off) = none →
        ∃ t, exec (.uePacketArrival die 0 key off [x]) s = .next t ∧ memRd t.mem (r.base + off) = BitVec.ofNat 8 x ∧
          (∀ b, b ≠ r.base + off → memRd t.mem b = memRd s.mem b) ∧ t.thr = s.thr)) ∧
    (∀ die id w, (kgetD s.dies die {}).ueSend.find? (fun y => decide (y.id = id)) = some w → w.sc = none →
      (kgetD (kgetD s.dies die {}).ueRecs w.cmd.lk []).length < 4096 →
      let ends := fun (i : Instr) (status n : Nat) => ∃ t, exec i s = .next t ∧ t.mem = s.mem ∧
        (s.save.etlets.any (fun p => p.2.threads.any (fun t => decide (t.2.st = .waiting .reach))) = false → t.thr = s.thr ∧ t.etl = s.etl) ∧
        (kgetD t.dies die {}).ueSend = (kgetD s.dies die {}).ueSend.filter (fun y => decide (y.id ≠ w.id)) ∧
        (w.record = true → kgetD (kgetD t.dies die {}).ueRecs w.cmd.lk [] =
          kgetD (kgetD s.dies die {}).ueRecs w.cmd.lk [] ++ [wd (w.id * 2 ^ 48 + status * 2 ^ 40 + w.op * 2 ^ 36 + n % 2 ^ 31)])
      let sent := ({ s with free := s.free + 1 } : State).modDie die (fun x => { x with
        ueResent := min (2 ^ 64 - 1) (x.ueResent + Config.uePackets s.free) })
      (∀ st, s.readyBit (die / 4) (56 + die % 4) = false → ends (.wrqComplete die id st) 4 0) ∧
      (∀ st, s.readyBit (die / 4) (56 + die % 4) = true → w.down = false → w.localFault sent = none →
        ends (.wrqComplete die id st) (st % 5) (if st % 5 = 0 then w.cmd.len else Config.uePlaced s.free)) ∧
      ((kgetD s.dies die {}).ueSend.find? (fun y => decide (y.id = id ∧ y.op = 1) && !y.down) = some w → ends (.norecvTimeout die id) 2 0))

/-! ### Sweepers and queues -/

/-- R36, R179 to R184, R190 to R192, R340, R345, R360, outside a hand-off slot: SWB takes the lowest free sweeper, clears its
map and answers its handle; SWN hands out a ready point, waits, or answers -1; SWE frees it; SWSTAT reports; RESQ counts
resident lines; the sweep examines points, starts passes and forces late points. QNEW, QENQ, QDEQ, QTRY and QFREE serve the
slice queues, queue 63 with the two pointers of its packet; a store of the thread to come holds back an access of a queue. A
handle that does not name a unit of the launch takes PROT. The model's choices behind it: log entries 65 to 68 and 88. -/
def Obligations.SweepersAndQueues : Prop :=
  (∀ s : State, s.thr.isSome = true → s.handoff = false →
    let cl := clusterOf s.eid
    let wr := fun (i : Instr) (d : Nat) (v : Word) (p : State → Prop) => ∃ u : State, Completes i s (advance (u.wr d v)) ∧ u.thr = s.thr ∧ p u
    (∀ d a, Issues (.swb d a) s → (∀ c, firstFault (swbCause a s) = some c → Traps (.swb d a) s c) ∧
      (firstFault (swbCause a s) = none → (∀ i, i < 4 → (s.sweeper cl i).launch.isSome = true) → Completes (.swb d a) s (advance ((start s).wr d 0))) ∧
      (∀ i, firstFault (swbCause a s) = none → i < 4 → (s.sweeper cl i).launch = none → (∀ j, j < i → (s.sweeper cl j).launch.isSome = true) → MemOk s →
        let map := scratch s.eid + bits (s.rd (a + 4)) 17 0
        let n := ((s.rd (a + 1)).toNat + 63) / 64 * 8
        wr (.swb d a) d (wd (nextGen (s.sweeper cl i).gen * 256 + i)) (fun u => (u.sweeper cl i).launch = some s.lkey ∧
          (u.sweeper cl i).gen = nextGen (s.sweeper cl i).gen ∧ (u.sweeper cl i).todo = List.range (s.rd (a + 1)).toNat ∧ (u.sweeper cl i).out = 0 ∧
          (u.sweeper cl i).first = (s.rd a).toNat ∧ (u.sweeper cl i).base = (s.rd (a + 2)).toNat ∧ (u.sweeper cl i).stride = (s.rd (a + 3)).toNat ∧
          (u.sweeper cl i).ready = [] ∧ (u.sweeper cl i).pending = [] ∧
          (∀ g, memRd u.mem g = if map ≤ g ∧ g < map + n then 0 else memRd s.mem g)))) ∧
    (∀ i d a, (i = .swn d a ∨ i = .swe d a ∨ i = .swstat d a) → Issues i s →
      ((s.sweeper cl (bits (s.rd a) 1 0)).launch ≠ some s.lkey ∨ (s.sweeper cl (bits (s.rd a) 1 0)).gen ≠ bits (s.rd a) 15 8) →
      Traps i s { code := 0x05, eval := s.rd a }) ∧
    (∀ d a, let i := bits (s.rd a) 1 0
      let w := s.sweeper cl i
      w.launch = some s.lkey → w.gen = bits (s.rd a) 15 8 →
      (∀ p rest, Issues (.swn d a) s → w.ready = p :: rest →
        wr (.swn d a) d (wd (w.first + p)) (fun u => (u.sweeper cl i).ready = rest ∧ (u.sweeper cl i).out = w.out + 1 ∧
          (MemOk s → s.hazardAt (w.map + p / 64 * 8) 8 = false → regionOf (w.map + p / 64 * 8) = 2 → w.map % 8 = 0 →
            memRd u.mem (w.map + p / 64 * 8 + p % 64 / 8) = memRd s.mem (w.map + p / 64 * 8 + p % 64 / 8) ||| BitVec.ofNat 8 (2 ^ (p % 8))))) ∧
      (Issues (.swn d a) s → w.ready = [] → w.todo = [] → w.pending = [] → Completes (.swn d a) s (advance ((start s).wr d (BitVec.allOnes 64)))) ∧
      (Issues (.swn d a) s → w.ready = [] → (w.todo ≠ [] ∨ w.pending ≠ []) → ∃ t, exec (.swn d a) s = .next (popPorts (Instr.swn d a).fields t) ∧
        t.th.st = .waiting .sweep ∧ t.th.waitD = d ∧ t.th.pc = s.th.pc ∧ (t.sweeper cl i).waiters = w.waiters ++ [s.th.tid] ∧ t.mem = s.mem) ∧
      (Issues (.swe d a) s → w.waiters = [] → ∃ t, Completes (.swe d a) s t ∧ (t.sweeper cl i).launch = none ∧ (d < 112 → s.th.kill = none →
        t.live d = wd (w.count - w.out)) ∧ t.th.pc = (endTest s.th).pc ∧ t.mem = s.mem) ∧
      (Issues (.swstat d a) s → Completes (.swstat d a) s (advance ((start s).wr d
        (s.seen (wd (min 255 w.pass * 2 ^ 56 + w.deferred % 2 ^ 18 * 2 ^ 38 + w.out % 2 ^ 17 * 2 ^ 21 + w.forced % 2 ^ 17 * 2 ^ 4))))))) ∧
    (∀ d a, Issues (.resq d a) s → (65536 < (s.rd (a + 1)).toNat → Traps (.resq d a) s { code := 0x01, eval := wd (a + 1), info := 1 }) ∧
      ((s.rd (a + 1)).toNat ≤ 65536 → Completes (.resq d a) s (advance ((start s).wr d (s.seen (wd ((vlines (s.rd a) (s.rd (a + 1)).toNat).filter
        (fun v => s.resident (dieOf s.eid) s.kern.key s.kern.root s.user v)).length)))))) ∧
    (∀ d a, Issues (.qnew d a) s → let n := (s.rd a).toNat
      (n = 0 ∨ 4096 < n → Completes (.qnew d a) s (advance ((start s).wr d 1))) ∧
      (1 ≤ n → n ≤ 4096 → (∀ q, q < 63 → (s.queue cl q).launch.isSome = true) → Completes (.qnew d a) s (advance ((start s).wr d 0))) ∧
      (∀ q, 1 ≤ n → n ≤ 4096 → q < 63 → (s.queue cl q).launch = none → (∀ j, j < q → (s.queue cl j).launch.isSome = true) →
        wr (.qnew d a) d (wd (nextGen (s.queue cl q).gen * 256 + q)) (fun u =>
          u.queue cl q = { launch := some s.lkey, gen := nextGen (s.queue cl q).gen, cap := n } ∧ u.mem = s.mem))) ∧
    (∀ i d a b, (i = .qenq a b ∨ i = .qdeq d a ∨ i = .qtry d a b ∨ i = .qfree d a) → Issues i s →
      let q := bits (s.rd a) 5 0
      let x := s.queue cl q
      ((x.launch ≠ some s.lkey ∧ q ≠ 63 ∨ x.gen ≠ bits (s.rd a) 15 8) → Traps i s { code := 0x05, eval := s.rd a }) ∧
      ((x.launch = some s.lkey ∨ q = 63) → x.gen = bits (s.rd a) 15 8 → s.th.pend = [] →
        (i ≠ .qfree d a → s.storesOut s.th.tid s.before = true → Waits i s .ack) ∧
        (s.storesOut s.th.tid s.before = false → (∀ e ∈ s.etl.buf, e.tid ≠ s.th.tid) →
        (i = .qenq a b → x.deqs = [] → x.items.length < x.cap → ∃ u : State, Completes i s (advance u) ∧ u.thr = s.thr ∧ u.mem = s.mem ∧
          u.queue cl q = { x with items := x.items ++ [s.rd b] }) ∧
        (i = .qenq a b → x.deqs = [] → x.cap ≤ x.items.length → ∃ t, Completes i s t ∧ t.th.st = .waiting .queue ∧ t.th.pc = s.th.pc ∧ t.th.g = s.th.g ∧
          t.mem = s.mem ∧ t.queue cl q = { x with enqs := x.enqs ++ [(s.th.tid, s.rd b)] }) ∧
        (∀ v rest, i = .qdeq d a → x.items = v :: rest → x.enqs = [] → q ≠ 63 → wr i d v (fun u => u.queue cl q = { x with items := rest } ∧ u.mem = s.mem)) ∧
        (∀ v rest p, i = .qdeq d a → x.items = v :: rest → x.enqs = [] → q = 63 → packetPtrs v s = .inr p → d < 112 → s.th.kill = none →
          ∃ t, Completes i s t ∧ t.live d = v ∧ t.th.ftab = p.1 ∧ t.th.stab = p.2 ∧ t.queue cl q = { x with items := rest } ∧
            t.th.pc = (endTest s.th).pc ∧ t.mem = s.mem) ∧
        (i = .qdeq d a → x.items = [] → ∃ t, Completes i s t ∧ t.th.st = .waiting .queue ∧ t.th.waitD = d ∧ t.th.pc = s.th.pc ∧ t.th.g = s.th.g ∧
          t.mem = s.mem ∧ t.queue cl q = { x with deqs := x.deqs ++ [s.th.tid] }) ∧
        (i = .qtry d a b → (x.items = [] ∨ x.deqs ≠ []) → wr i b 0 (fun u => u.clusters = s.clusters ∧ u.mem = s.mem)) ∧
        (∀ v rest, i = .qtry d a b → x.items = v :: rest → x.deqs = [] → x.enqs = [] → q ≠ 63 → ∃ u : State, Completes i s (advance ((u.wr d v).wr b 1)) ∧
          u.thr = s.thr ∧ u.mem = s.mem ∧ u.queue cl q = { x with items := rest }) ∧
        (i = .qfree d a → q = 63 → Traps i s { code := 0x05, eval := s.rd a }) ∧
        (i = .qfree d a → q ≠ 63 → (x.deqs ≠ [] ∨ x.enqs ≠ []) → Completes i s (advance ((start s).wr d 1))) ∧
        (i = .qfree d a → q ≠ 63 → x.deqs = [] → x.enqs = [] → wr i d 0 (fun u => (u.queue cl q).launch = none ∧ u.mem = s.mem)))))) ∧
  ∀ (s : State) (cl sw : Nat),
    let w := s.sweeper cl sw
    w.launch.isSome = true → w.waiters = [] →
    let walked := fun (i : Nat) (rest : List Nat) => (s.modSw cl sw (fun w => { w with todo := rest })).lineTouch w.key w.root (w.points i)
    (∀ i rest, w.todo = i :: rest → w.ready.length < 64 → w.pending.find? (fun p => decide (p.1 = i)) = none →
      (w.residentPt (walked i rest) i = true → ∃ t, exec (.sweeperExamine cl sw) s = .next t ∧ t.sweeper cl sw = { w with todo := rest, ready := w.ready ++ [i] } ∧
        t.thr = s.thr ∧ t.mem = s.mem) ∧
      (w.residentPt (walked i rest) i = false → ∃ t, exec (.sweeperExamine cl sw) s = .next t ∧
        t.sweeper cl sw = { w with todo := rest, pending := w.pending ++ [(i, 1, s.now)], deferred := w.deferred + 1 } ∧ t.thr = s.thr ∧ t.mem = s.mem)) ∧
    (∀ i rest k c, w.todo = i :: rest → w.ready.length < 64 → w.pending.find? (fun p => decide (p.1 = i)) = some (i, k, c) →
      let out := { w with todo := rest, pending := w.pending.filter (fun p => decide (p.1 ≠ i)), ready := w.ready ++ [i] }
      ∃ t, exec (.sweeperExamine cl sw) s = .next t ∧ t.thr = s.thr ∧ t.mem = s.mem ∧ t.sweeper cl sw = (
        if s.now < c + 16384 ∧ w.residentPt (walked i rest) i = true then out
        else if k = 3 ∨ c + 16384 ≤ s.now then { out with forced := w.forced + 1 }
        else { w with todo := rest, pending := w.pending.map (fun p => if p.1 = i then (i, k + 1, p.2.2) else p), deferred := w.deferred + 1 })) ∧
    ((w.todo ≠ [] ∨ w.pending = [] ∨ s.now < w.passAt + 512) → exec (.sweeperPassStart cl sw) s = .next s) ∧
    (w.todo = [] → w.pending ≠ [] → w.passAt + 512 ≤ s.now → ∃ t, exec (.sweeperPassStart cl sw) s = .next t ∧ t.thr = s.thr ∧ t.mem = s.mem ∧
      t.sweeper cl sw = { w with pass := w.pass + 1, passAt := s.now, todo := w.pending.map (·.1) }) ∧
    ((∀ p ∈ w.pending, s.now < p.2.2 + 16384) → exec (.sweeperForce cl sw) s = .next s) ∧
    (∀ p, w.pending = [p] → p.2.2 + 16384 ≤ s.now → ∃ t, exec (.sweeperForce cl sw) s = .next t ∧ t.thr = s.thr ∧ t.mem = s.mem ∧
      t.sweeper cl sw = { w with pending := [], todo := w.todo.filter (fun i => decide (i ≠ p.1)), forced := w.forced + 1, ready := w.ready ++ [p.1] })

/-! ### Control and status registers, and the supervisor -/

/-- R61, R62, R138, R217, R242, R243, R294, R295: a CSR number that is not there takes ILLEGAL, one that the mode may not reach PRIV, with
EVAL = the number. CSRR writes d with the value; CSRW leaves the writable fields of its operand (in FCSR with the flags of vector completions
of that cycle, R139) and changes no other CSR of the thread; CSRX does both. A read of FCSR waits for the thread's vector instructions, a
write of CHANk for its credits. The model's choices behind it: log entries 14, 18, 105, 106 and 140. -/
def Obligations.ControlRegisters : Prop :=
  ∀ (s : State) (c : Nat), s.thr.isSome = true → c < 256 →
    (∀ i w, ((∃ d, i = .csrr d c ∧ w = false) ∨ (∃ a, i = .csrw a c ∧ w = true) ∨ (∃ d a, i = .csrx d a c ∧ w = true)) →
      (c = 6 → s.fcsrHeld = false) → Issues i s →
      (c < 0x80 → csrListed c = false → Traps i s { code := 0x01, eval := wd c, info := 2 }) ∧
      (c < 0x80 → csrListed c = true → s.user = true → csrUserPriv c w = true → Traps i s { code := 0x02, eval := wd c, info := 2 }) ∧
      (0x80 ≤ c → s.user = true → Traps i s { code := 0x02, eval := wd c, info := 2 }) ∧
      (0x8C ≤ c → s.user = false → Traps i s { code := 0x01, eval := wd c, info := 2 }) ∧
      (w = true → csrCause s.user c w = none → s.chanBusy c = true → (s.handoff = true → Traps i s { code := 0x11 }) ∧
        (s.handoff = false → Waits i s (.credit (c - 0x14))))) ∧
    (∀ d, s.fcsrHeld = true → Issues (.csrr d 6) s → exec (.csrr d 6) s = .next (start s)) ∧
    (∀ d, Issues (.csrr d c) s → csrCause s.user c false = none → (c = 6 → s.fcsrHeld = false) → (c = 0x29 → s.th.dpart ≠ 1) →
      Completes (.csrr d c) s (advance ((start s).wr d (s.seen (s.csr c))))) ∧
    (s.csr 0x00 = s.th.status ∧ s.csr 0x02 = s.th.epc ∧ s.csr 0x03 = s.th.ecause ∧ s.csr 0x04 = s.th.eval ∧ s.csr 0x06 = s.th.fcsr ∧
      s.csr 0x10 = s.th.teamix ∧ s.csr 0x20 = s.legitBits ∧ s.csr 0x21 = 0x1E1A0C140604 ∧ s.csr 0x22 = 0x22E5A4C3) ∧
    (∀ i r, ((∃ a, i = .csrw a c ∧ r = s.rd a) ∨ (∃ d a, i = .csrx d a c ∧ r = s.rd a ∧ d < 112 ∧ s.th.kill = none)) → Issues i s →
      csrCause s.user c true = none → s.chanBusy c = false → (c = 6 → s.fcsrHeld = false) → (kget s.pkgs (pkgOf s.eid)).isSome = true → s.ph = 0 →
      (c ≠ 0x29 ∨ s.th.dpart ≠ 1) →
      (c ≠ 0 → c ≠ 0x8A → ∃ t, Completes i s t ∧ t.csr c = Rules.csrPut c s r ∧ (∀ k, k < 0x20 → k ≠ c → k ≠ 0 → t.csr k = s.csr k) ∧
        (∀ d a, i = .csrx d a c → t.live d = s.seen (s.csr c)) ∧ (∀ n, n < 112 → (∀ d a, i = .csrx d a c → n ≠ d) → t.live n = s.live n) ∧
        (c < 8 ∨ 0x0B < c → t.th.pc = (endTest s.th).pc) ∧ t.mem = s.mem) ∧
      (c = 0 → ∃ t, Completes i s t ∧ t.th.status = wd (bits r 4 4 * 16 + bits s.th.status 3 3 * 8 + bits r 2 0) ∧ t.th.pc = (endTest s.th).pc ∧
        (∀ k, k < 0x20 → k ≠ 0 → t.csr k = s.csr k) ∧ (∀ d a, i = .csrx d a c → t.live d = s.seen (s.csr c)) ∧ t.mem = s.mem) ∧
      (c = 0x8A → s.myDie.testUnit = none → unitExists (bits r 7 0) = true → ∃ t, Completes i s t ∧ t.myDie.testUnit = some (bits r 7 0) ∧
        t.th.pc = (endTest s.th).pc ∧ (∀ d a, i = .csrx d a c → t.live d = s.seen (s.csr c)) ∧ t.mem = s.mem))

/-- R33, R34: a placement on an etlet takes a free kernel ID and creates every thread of the launch there: READY at the entry point in
user mode, with its rank, arguments and stack pointer. No gang is forming.
The model's choices behind it: log entries 3, 94 and 95. -/
def Obligations.Placement : Prop :=
  ∀ (s u : State) (lk : Nat) (l : Launch) (v : Virt), l.mode 0 = false →
    Calm s → placeHere lk l v s = some u →
    ∃ kid k, kget s.etl.kernels kid = none ∧ kget u.etl.kernels kid = some k ∧ k.launch = lk ∧ k.key = l.key ∧ k.pregs = l.pregs ∧
      bits k.right 11 0 = l.key % 4096 ∧ (∀ j, j ≠ kid → kget u.etl.kernels j = kget s.etl.kernels j) ∧
      (∀ i, i < 64 → l.slotmask.getLsbD i = true → kget u.etl.slots i = some kid) ∧
      (∀ n, n < l.threads → ∃ p ∈ u.seated, p.2.kid = kid ∧ p.2.pc = l.entry ∧ p.2.st = .ready ∧ p.2.status = 0 ∧ p.2.limit = l.regs ∧
        p.2.rank = wd (l.rankOf v n) ∧ kgetD p.2.g 3 0 = l.args ∧ kgetD p.2.g 2 0 = 0xFFF000000FFC0000 + wd (0x30000 - l.stack * n)) ∧
      (∀ p ∈ s.seated, p ∈ u.seated)

/-- R47, R88, R225, R226, R231, R283, R313, R318, R319, R328, R349, R383, for a thread none of whose stores is to come: GANG answers its
status, waits for its members or forms the gang: every member receives d = 0, has STATUS.GANG and goes on. A bundle of a gang in which a
member traps is undone in every member, each that trapped takes its own trap there and the gang disbands; one that a member must wait to issue
is undone too; one that completes leaves every member at the leader's next bundle (R38). LAUNCH answers the status or index of its launch,
traps, or waits for earlier engine commands or a test of what it reads; BENCHO benches a thread, its own or another's, with its image to be
written, or waits for it; BENCHI restores one from the bench or from its image; both wait first for a test of what they translate or read;
MAPSET moves a virtual etlet; XINV drops translations and waits for the accesses that used them; KEYSET loads a key, or waits for a test of
what it reads; SELFT starts a self-test. No gang is forming where BENCHO benches. The model's choices behind it: log entries 28, 85, 90 to 93,
98 to 104, 107, 143 and 144. -/
def Obligations.SupervisorInstructions : Prop :=
  ∀ (s : State) (d a b : Nat), s.thr.isSome = true → Settled s →
    let fenced := (start s).acquire (dieOf s.eid)
    let wr := fun (i : Instr) (v : Word) (p : State → Prop) => ∃ u : State, Completes i s (advance (u.wr d v)) ∧ u.thr = s.thr ∧ p u
    (s.handoff = false → Issues (.gang d a) s → let n := (s.rd a).toNat
      (n ≠ 2 → n ≠ 4 → n ≠ 8 → Completes (.gang d a) s (advance ((start s).wr d 2))) ∧
      ((n = 2 ∨ n = 4 ∨ n = 8) → bits s.th.status 3 3 = 1 → Completes (.gang d a) s (advance ((start s).wr d 3))) ∧
      (let others := (s.gangEtlets n).filter (fun e => decide (e ≠ s.eid))
       (n = 2 ∨ n = 4 ∨ n = 8) → bits s.th.status 3 3 = 0 →
        (others.all s.gangMate = false → (∀ e ∈ others, s.gangWaits e n = false) → Completes (.gang d a) s (advance ((start s).wr d 1))) ∧
        (others.all s.gangMate = true → others.all (fun e => s.gangWaits e n) = false → Completes (.gang d a) s (waitFor (.gang n) d (start s))) ∧
        (others.all s.gangMate = true → others.all (fun e => s.gangWaits e n) = true → d < 112 → s.th.kill = none →
          (∀ e ∈ others, let m := (s.focus e s.slot).th; m.waitD < 112 ∧ m.kill = none ∧ m.deferred = none) →
          ∃ t, exec (.gang d a) s = .next t ∧ t.mem = s.mem ∧ ∀ e ∈ s.gangEtlets n, let x := s.focus e s.slot; let y := t.focus e s.slot
            y.live (if e = s.eid then d else x.th.waitD) = 0 ∧ bits y.th.status 3 3 = 1 ∧ y.th.gang = s.gangEtlets n ∧ y.th.st = .ready ∧
              y.th.pc = (endTest x.th).pc))) ∧
    (∀ (es : List Nat) (w : Nat), s.slot < 62 → es.Nodup → s.eid ∈ es → s.th.gang = es →
      (∀ e ∈ es, (s.focus e s.slot).thr.isSome = true ∧ (s.focus e s.slot).th.gang = es ∧ (s.focus e s.slot).th.status.getLsbD 4 = false) →
      let r := runMembers es w s
      let t := gangBundle es w s
      let old := fun (e : Nat) => (s.focus e s.slot).th
      let new := fun (e : Nat) => (t.focus e s.slot).th
      ((∃ p ∈ r.2.traps, p.2.code ≠ 0x0A) → t.mem = s.mem ∧ ∀ e ∈ es, (new e).g = (old e).g ∧ (new e).gangN = 0 ∧
        (∀ c, (e, c) ∈ r.2.traps → c.code ≠ 0x0A → (new e).ecause = c.pack ∧ (new e).eval = c.eval ∧ (new e).epc = (old e).pc ∧ (new e).pc = (old e).svec) ∧
        ((∀ c, (e, c) ∈ r.2.traps → c.code = 0x0A) → (new e).pc = (old e).pc ∧ (new e).st = (old e).st)) ∧
      (r.2.traps = [] → r.2.waits ≠ [] → t.mem = s.mem ∧ ∀ e ∈ es, (new e).g = (old e).g ∧ (new e).pc = (old e).pc ∧ (new e).gangN = (old e).gangN ∧
        (∀ x, (e, x) ∈ r.2.waits → (new e).st = .waiting x)) ∧
      (r.2.traps = [] → r.2.waits = [] → r.1.eid = s.eid → r.1.slot = s.slot → r.1.thr.isSome = true → r.1.th.st = .ready →
        r.1.th.deferred = none → t.mem = r.1.mem ∧
        ∀ e ∈ es, let x := (r.1.focus e s.slot).th; x.st = .ready → x.deferred = none → (new e).pc = r.1.th.pc ∧ (new e).skip = r.1.th.skip ∧ (new e).g = x.g)) ∧
    (s.handoff = false → Issues (.launch d a) s →
      (∀ v u, launchThread (s.rd a) fenced = some (.inr (v, u)) → Completes (.launch d a) s (advance (u.wr d (wd v)))) ∧
      (∀ c, launchThread (s.rd a) fenced = some (.inl c) → exec (.launch d a) s = .next (takeTrap c fenced)) ∧
      (launchThread (s.rd a) fenced = none → exec (.launch d a) s = .next (waitFor .reach 112 fenced)) ∧
      ((s.rd a).toNat % 64 ≠ 0 → wr (.launch d a) 1 (fun u => u.mem = s.mem ∧ u.launches = s.launches)) ∧
      (∀ l c, s.launchCheck l (some s.kern.right) (pkgOf s.eid) s.eid = .inl c → c ∈ [1, 3, 4, 5, 6, 7])) ∧
    (Issues (.bencho d a b) s → let l := bits (s.rd a) 5 0
      let n := imageBytes (((if 62 ≤ l then none else s.threadAt l : Option Thread).map (fun t => t.partner.isSome)).getD false)
      let image := fun (t : State) (x : Thread) => t.etl.bench = s.etl.bench ++ [x] ∧ x.img = s.gpaOf .wr (s.rd b) ∧ x.lastSlot = l ∧
        ∃ w, t.etl.benchW = s.etl.benchW ++ [w] ∧ w.no = x.imgNo ∧ w.va = s.rd b ∧ w.tid = s.th.tid ∧ w.parts = imageParts .wr (s.rd b) 16384 s
      (imageWait .wr (s.rd b) n s = true → Waits (.bencho d a b) s .reach) ∧
      (∀ c, imageWait .wr (s.rd b) n s = false → imageCause .wr (s.rd b) n s = some c → Traps (.bencho d a b) s c) ∧
      (imageWait .wr (s.rd b) n s = false → imageCause .wr (s.rd b) n s = none →
        (62 ≤ l → Completes (.bencho d a b) s (advance ((start s).wr d 2))) ∧
        (l < 62 → s.threadAt l = none → Completes (.bencho d a b) s (advance ((start s).wr d 1))) ∧
        (l < 62 → (s.threadAt l).isSome = true → (if l = s.slot then s.vectorOut else (s.focus s.eid l).benchWaits) = true → Waits (.bencho d a b) s .bench) ∧
        (l = s.slot → l < 62 → s.th.partner = none → s.th.gangN = 0 → s.vectorOut = false → s.etl.bench.length < 32 → d < 112 → s.th.kill = none → Calm s →
          ∃ t x, exec (.bencho d a b) s = .next t ∧ t.thr = none ∧ image t x ∧ x.tid = s.th.tid ∧ x.st = .ready ∧
            x.pc = (endTest s.th).pc ∧ kgetD x.g d 0 = 0 ∧ (∀ n, n < 112 → n ≠ d → kgetD x.g n 0 = kgetD s.th.g n 0) ∧ x.lk = s.lkey ∧ t.mem = s.mem) ∧
        (∀ y, l ≠ s.slot → l < 62 → s.threadAt l = some y → y.partner = none → y.gangN = 0 → (s.focus s.eid l).benchWaits = false →
          s.etl.bench.length < 32 → d < 112 → s.th.kill = none → Calm s →
          ∃ t x, exec (.bencho d a b) s = .next (popPorts [.src a, .src b] t) ∧ t.threadAt l = none ∧ image t x ∧ x.tid = y.tid ∧ x.st = y.st.saved ∧
            x.pc = y.pc ∧ x.g = y.g ∧ t.live d = 0 ∧ t.th.pc = (endTest s.th).pc ∧ t.mem = s.mem))) ∧
    (Issues (.benchi d a b) s → let c := s.benchAt (s.gpaOf .rd (s.rd a))
      let n := if c.isSome then 1 else 16384
      let ps := imageParts .rd (s.rd a) 16384 s
      (imageWait .rd (s.rd a) n s = true → Waits (.benchi d a b) s .reach) ∧
      (∀ x, imageWait .rd (s.rd a) n s = false → imageCause .rd (s.rd a) n s = some x → Traps (.benchi d a b) s x) ∧
      (imageWait .rd (s.rd a) n s = false → imageCause .rd (s.rd a) n s = none →
        (s.rd b ≠ 0 → Completes (.benchi d a b) s (advance ((start s).wr d 65))) ∧
        (∀ t, s.rd b = 0 → c = some t → (s.allBenched.filter (fun x => decide (x.imgNo = t.imgNo))).find? (fun x => !x.trail) = some t →
          (s.kernelOf t.lk = none → Completes (.benchi d a b) s (advance ((start s).wr d 65))) ∧
          (∀ k, s.kernelOf t.lk = some k → s.storesElsewhere t.tid = true → Waits (.benchi d a b) s .reach) ∧
          (∀ kid k, s.kernelOf t.lk = some (kid, k) → s.storesElsewhere t.tid = false → t.partner = none →
            (s.freeThreadSlot = none → Completes (.benchi d a b) s (advance ((start s).wr d 64))) ∧
            (∀ l u, restore t none kid (start s) = some (l, u) → s.freeThreadSlot = some l ∧ Completes (.benchi d a b) s (advance (u.wr d (wd l)))))) ∧
        (s.rd b = 0 → c = none → ps.any s.partTested = true → Waits (.benchi d a b) s .reach) ∧
        (s.rd b = 0 → c = none → ps.any s.partTested = false → (∀ q ∈ ps, s.readWaits q.1 q.2 = false ∧ s.otherSlotMatch q.1 q.2 = false ∧ s.abortsR q.1 = false) →
          (s.imageAt (s.rd a) = none → Completes (.benchi d a b) s (advance ((start s).wr d 65))) ∧
          (∀ no t kid k l u, s.imageAt (s.rd a) = some no → s.imageOf no = ([t], false) → t.trail = false → t.partner = none →
            s.kernelOf t.lk = some (kid, k) → s.storesElsewhere t.tid = false → restore t none kid (touchImage s.kern.key ps (start s)) = some (l, u) →
            Completes (.benchi d a b) s (advance (u.wr d (wd l))))))) ∧
    (Issues (.mapset d a) s →
      (s.mapped = none → Completes (.mapset d a) s (advance ((start s).wr d 3))) ∧
      (∀ lk l vp ix, s.mapped = some (lk, l, vp, ix) →
        let p := pkgOf s.eid
        let pl := kgetD l.cmap (vp * 65536 + ix) (l.place.getD ix 0)
        let e0 := etletEid (4 * p + pl / 1024) (pl % 1024)
        let e1 := etletEid (4 * p + bits (s.rd a) 11 10) (bits (s.rd a) 9 0)
        (bits (s.rd a) 63 12 ≠ 0 → Completes (.mapset d a) s (advance ((start s).wr d 3))) ∧
        (bits (s.rd a) 63 12 = 0 → s.etlets = [] → e0 = s.eid → s.lkey = lk → (kget s.etl.kernels s.th.kid).isSome = true → wr (.mapset d a) 1 (fun u => u.mem = s.mem)) ∧
        (bits (s.rd a) 63 12 = 0 → s.etlets = [] → e0 ≠ s.eid → (s.placeable e1 = false ∨ e1 ≠ s.eid ∧ l.mode 1 = true) →
          wr (.mapset d a) 2 (fun u => u.mem = s.mem)) ∧
        (bits (s.rd a) 63 12 = 0 → s.etlets = [] → e0 ≠ s.eid → s.placeable e1 = true → e1 ≠ s.eid → l.mode 1 = false →
          wr (.mapset d a) 0 (fun u => u.mem = s.mem ∧ kget u.launches lk = some { l with
            cmap := kput l.cmap (vp * 65536 + ix) (s.rd a).toNat, live := l.live.map (fun e => if e = e0 then e1 else e) })))) ∧
    (Issues (.xinv d a b) s → let c := s.rd b
      (canonical (s.rd a) = false → c.getLsbD 2 = false → Traps (.xinv d a b) s { code := 0x04, eval := s.rd a }) ∧
      ((canonical (s.rd a) = true ∨ c.getLsbD 2 = true) → (bits c 63 30 ≠ 0 ∨ bits c 15 3 ≠ 0 ∨ bits c 1 0 = 3) →
        Traps (.xinv d a b) s { code := 0x01, eval := wd b, info := 1 }) ∧
      ((canonical (s.rd a) = true ∨ c.getLsbD 2 = true) → bits c 63 30 = 0 → bits c 15 3 = 0 → bits c 1 0 ≠ 3 →
        let r := bits c 29 28
        let t := dropEntries r (dieOf s.eid) (xinvHits (s.rd a) c) (if r = 0 then start s else fenced)
        let out := t.accessOut r (dieOf s.eid) (fun _ v k => xinvHits (s.rd a) c ⟨v.toNat / pageBytes 3, 3, 0, k⟩)
        (out = true → exec (.xinv d a b) s = .next (waitFor .reach 112 t)) ∧
        (out = false → Completes (.xinv d a b) s (advance (t.wr d 0))) ∧ t.thr = s.thr ∧ t.mem = s.mem ∧
          (∀ x ∈ t.etl.tcache, x ∈ s.etl.tcache ∧ xinvHits (s.rd a) c x = false) ∧
          (∀ x ∈ s.etl.tcache, xinvHits (s.rd a) c x = false → x ∈ t.etl.tcache))) ∧
    (Issues (.keyset d a) s → ((s.rd a).toNat % 64 ≠ 0 → Traps (.keyset d a) s { code := 0x03, eval := s.rd a }) ∧
      ((s.rd a).toNat % 64 = 0 → wordsWait 8 (s.rd a) fenced = true → exec (.keyset d a) s = .next (waitFor .reach 112 fenced)) ∧
      (∀ c, (s.rd a).toNat % 64 = 0 → wordsWait 8 (s.rd a) fenced = false → readWords 8 (s.rd a) fenced = .inl c →
        exec (.keyset d a) s = .next (takeTrap c fenced)) ∧
      (∀ m, (s.rd a).toNat % 64 = 0 → wordsWait 8 (s.rd a) fenced = false → readWords 8 (s.rd a) fenced = .inr m →
        (s.keyInUse (pkgOf s.eid) s.etl.keyslot = true → wr (.keyset d a) 1 (fun u => u.mem = s.mem ∧ u.pkgs = s.pkgs)) ∧
        (s.keyInUse (pkgOf s.eid) s.etl.keyslot = false → (kget s.pkgs (pkgOf s.eid)).isSome = true →
          wr (.keyset d a) 0 (fun u => u.mem = s.mem ∧ kget (u.pkg (pkgOf s.eid)).keys s.etl.keyslot = some m ∧
            kget (kgetD u.domains (pkgOf s.eid / 1024) {}).keys s.etl.keyslot = some m ∧
            (∀ k, k ≠ s.etl.keyslot → kget (u.pkg (pkgOf s.eid)).keys k = kget (s.pkg (pkgOf s.eid)).keys k) ∧
            (∀ x ∈ u.etl.l1, x.key ≠ s.etl.keyslot))))) ∧
    (s.handoff = false → Issues (.selft d a) s → let u := bits (s.rd a) 7 0
      let ok := bits (s.rd a) 63 8 = 0 ∧ unitExists u = true ∧ unitReady (s.pkg (pkgOf s.eid)) (dieOf s.eid) u = true
      (¬ok → Completes (.selft d a) s (advance ((start s).wr d 3))) ∧
      (ok → u = 0x40 + clusterOf s.eid % 64 → Completes (.selft d a) s (advance ((start s).wr d 4))) ∧
      (ok → u ≠ 0x40 + clusterOf s.eid % 64 → s.myDie.testUnit.isSome = true → Completes (.selft d a) s (advance ((start s).wr d 2))) ∧
      (ok → u ≠ 0x40 + clusterOf s.eid % 64 → s.myDie.testUnit = none → ∃ t, Completes (.selft d a) s t ∧ t.th.st = .waiting .mem ∧ t.th.waitD = d ∧
        t.th.pc = s.th.pc ∧ t.myDie.testUnit = some u ∧ t.myDie.testTid = some s.th.tid ∧ t.mem = s.mem))

/-! ### The host port and the platform -/

/-- R6, R234 to R239, R241, R244 to R246: power-on reset; a function becomes ready once, when its firmware passed, a die's measurement
registers being extended by SHA-256, and STATE reads 2 where a check failed; commands are fetched in sequence, one out of sequence stops
the queue, which STATE shows as 3; INIT, LAUNCH, RSTAT, FRESET, ATTEST (with its report in host memory) and FWLOAD end with a response in
the ring, DSEQISS counting it; CDOOR, QSTART, the bases and RHEAD are written; the queues run on the bases of their last start.
The model's choices behind it: log entries 96, 97, 98, 108 to 115, 155 and 163. -/
def Obligations.HostEvents : Prop :=
  ∀ (s : State) (p : Nat) (k : Pkg), kget s.pkgs p = some k → MemOk s →
    let posted := fun (rq t : State) (h : Word) (st : Nat) (v : Word) =>
      let a := hostAddr p ((rq.pkg p).rqrun.toNat + 32 * ((rq.pkg p).dseqiss.toNat % 4096))
      t.rdMem 0 a 8 = ((rq.pkg p).dseqiss + 1).toNat ∧ t.rdMem 0 (a + 8) 8 = h.toNat ∧ t.rdMem 0 (a + 16) 2 = st % 2 ^ 16 ∧ t.rdMem 0 (a + 24) 8 = v.toNat
    let room := k.ringFull = false ∧ k.backlog = [] ∧ k.restart = false ∧ k.dseqiss.toNat + 1 < 2 ^ 64
    let ends := fun (i : Instr) (h : Word) (st : Nat) (v : Word) (f : State → Prop) => room → ∃ t, exec i s = .next t ∧ posted s t h st v ∧
      (t.pkg p).dseqiss = k.dseqiss + 1 ∧ (t.pkg p).cmd = none ∧ (t.pkg p).hseqacc = k.hseqacc ∧ f t
    (∃ t, exec .powerOnReset s = .next t ∧ t.thr = none ∧ t.etl = {} ∧ t.etlets = [] ∧ t.mem = [] ∧ t.fe = [] ∧ t.launches = [] ∧ t.objs = [] ∧ t.dies = [] ∧
      t.clusters = [] ∧ (t.pkg p).ready = 0 ∧ (t.pkg p).clusters = [] ∧ (t.pkg p).dies = 0 ∧ (t.pkg p).cqbase = 0 ∧ (t.pkg p).rqbase = 0 ∧ (t.pkg p).running = false ∧
      (t.pkg p).retired = k.retireTable.flatMap rowPages ∧ (t.pkg p).retireTable = k.retireTable ∧ (t.pkg p).flash = k.flash ∧ (t.pkg p).booted = k.flash ∧ (t.pkg p).uvEn = 0xFFFFF ∧ (t.pkg p).ports = []) ∧
    (k.bar0 0x0000 = (if k.stopped then 3 else wd (k.state % 256)) ∧ k.bar0 0x0008 = k.rhead ∧ k.bar0 0x0010 = k.dseqiss ∧ k.bar0 0x0018 = k.hseqacc ∧
      k.bar0 0x2000 = k.cqbase ∧ k.bar0 0x2008 = k.rqbase) ∧
    (∀ f, (324 ≤ f ∨ k.isReady f = true ∨ 1 < s.bootOf p (functionDie f) → exec (.functionReady p f) s = .next s) ∧
      (f < 324 → k.isReady f = false → s.bootOf p (functionDie f) = 1 → ∃ t, exec (.functionReady p f) s = .next t ∧ (t.pkg p).state = 2 ∧
        (t.pkg p).ready = k.ready ∧ t.dies = s.dies ∧ t.mem = s.mem ∧ t.thr = s.thr) ∧
      (f < 324 → k.isReady f = false → s.bootOf p (functionDie f) = 0 → ∃ t, exec (.functionReady p f) s = .next t ∧ (t.pkg p).isReady f = true ∧
        (∀ g, g < 324 → g ≠ f → (t.pkg p).isReady g = k.isReady g) ∧ t.mem = s.mem ∧ t.thr = s.thr ∧
        (∀ i, 320 ≤ f → i < 4 → (kgetD t.dies (4 * p + (f - 320)) {}).meas.getD i 0 =
          sha256 (beBytes 32 ((kgetD s.dies (4 * p + (f - 320)) {}).meas.getD i 0) ++
            beBytes 32 (Config.stageDigest k.boot (4 * p + (f - 320)) i k.booted))))) ∧
    (let a := hostAddr p (k.cqrun.toNat + 64 * (k.hseqacc.toNat % 4096))
     let h := wd (s.rdMem 0 a 8)
     let op := (s.byte 0 (a + 8)).toNat
     let go := k.running = true ∧ k.stopped = false ∧ k.restart = false ∧ k.cmd = none ∧ k.hseqacc.toNat < k.cdoor.toNat
     (¬go → exec (.commandFetch p) s = .next s) ∧
     (go → h = k.hseqacc + 1 → 1 ≤ op → op ≤ 6 → ∃ t bs, exec (.commandFetch p) s = .next t ∧ (t.pkg p).cmd = some (h, bs) ∧ (t.pkg p).hseqacc = h ∧
       (∀ i, i < 64 → bs.getD i 0 = s.byte 0 (a + i)) ∧ t.mem = s.mem) ∧
     (go → h ≠ k.hseqacc + 1 → room → ∃ t, exec (.commandFetch p) s = .next t ∧ (t.pkg p).stopped = true ∧ (t.pkg p).hseqacc = k.hseqacc ∧
       (t.pkg p).dseqiss = k.dseqiss + 1 ∧ posted s t h (Config.hostCode 1) 0) ∧
     (go → h = k.hseqacc + 1 → (op = 0 ∨ 6 < op) → room → ∃ t, exec (.commandFetch p) s = .next t ∧ (t.pkg p).cmd = none ∧ (t.pkg p).hseqacc = h ∧
       (t.pkg p).dseqiss = k.dseqiss + 1 ∧ posted s t h (Config.hostCode 2) 0)) ∧
    (∀ h bs, s.command p 1 = some (h, bs) → room → ∃ t, exec (.init p) s = .next t ∧ posted s t h (Config.hostCode 0) 0 ∧
      (t.pkg p).cqbase = Config.operand 1 0 bs / 4096 * 4096 ∧ (t.pkg p).rqbase = Config.operand 1 1 bs / 4096 * 4096 ∧
      (t.pkg p).cqrun = (t.pkg p).cqbase ∧ (t.pkg p).rqrun = (t.pkg p).rqbase ∧ (t.pkg p).hseqacc = 0 ∧
      (t.pkg p).dseqiss = 0 ∧ (t.pkg p).rhead = 0 ∧ (t.pkg p).running = true ∧ (t.pkg p).cmd = none ∧ (t.pkg p).stopped = false) ∧
    (∀ h bs, s.command p 2 = some (h, bs) →
      (Config.operand 2 0 bs % 64 ≠ 0 → ends (.hostLaunch p) h (Config.hostCode 0) 1 (fun t => t.launches = s.launches)) ∧
      (∀ v u, hostLaunchRun p (Config.operand 2 0 bs) s = some (.inl (v, u)) → exec (.hostLaunch p) s = .next (endCommand p h (Config.hostCode 0) (wd v) u)) ∧
      (hostLaunchRun p (Config.operand 2 0 bs) s = some (.inr ()) → exec (.hostLaunch p) s = .next (endCommand p h (Config.hostCode 6) 0 s)) ∧
      (hostLaunchRun p (Config.operand 2 0 bs) s = none → exec (.hostLaunch p) s = .next s)) ∧
    (∀ h bs, s.command p 3 = some (h, bs) → ends (.rstat p) h (Config.hostCode 0) (wd (match s.launchOn p (Config.operand 3 0 bs) with
      | none => Config.hostCode 3
      | some (_, x) => if x.done then Config.hostCode 5 else Config.hostCode 4)) (fun t => t.launches = s.launches)) ∧
    (∀ h bs, s.command p 4 = some (h, bs) → Config.operand 4 0 bs < 60 → ends (.freset p) h (Config.hostCode 0) 0 (fun t =>
      let f := Config.operand 4 0 bs
      (t.pkg p).isReady f = false ∧ (20 ≤ f → f < 56 → kget (t.pkg p).ports (f - 20) = none) ∧
        (56 ≤ f → (kgetD t.dies (4 * p + (f - 56)) {}).ueSend = [] ∧ (kgetD t.dies (4 * p + (f - 56)) {}).ueRecv = []))) ∧
    (∀ h bs, s.command p 5 = some (h, bs) →
      let r := s.report p ((List.range 32).map (fun i => Config.operand 5 (i + 1) bs))
      let ring := hostAddr p (k.rqrun.toNat + 32 * (k.dseqiss.toNat % 4096))
      ends (.attest p) h (Config.hostCode 0) (wd (r.length + Config.signatureLen p)) (fun t => t.launches = s.launches ∧
        ∀ i, i < r.length → let a := hostAddr p (Config.operand 5 0 bs) + i
          encrypted a = false → (a < ring ∨ ring + 32 ≤ a) → t.byte 0 a = BitVec.ofNat 8 (r.getD i 0))) ∧
    (∀ h bs, s.command p 6 = some (h, bs) → ends (.fwload p) h (Config.hostCode 0) 0 (fun t =>
      kget (t.pkg p).flash 0 = some (s.rdMem 0 (hostAddr p (Config.operand 6 0 bs)) (Config.operand 6 1 bs)))) ∧
    (∀ i op, (i = .init p ∧ op = 1 ∨ i = .hostLaunch p ∧ op = 2 ∨ i = .rstat p ∧ op = 3 ∨ i = .freset p ∧ op = 4 ∨ i = .attest p ∧ op = 5 ∨ i = .fwload p ∧ op = 6) →
      s.command p op = none → exec i s = .next s) ∧
    (∀ v, v < 2 ^ 64 → ∃ t, exec (.cdoor p v) s = .next t ∧ t.mem = s.mem ∧ (t.pkg p).cdoor =
      if v ≤ k.hseqacc.toNat ∨ k.hseqacc.toNat + 4096 < v then k.cdoor else wd (max k.cdoor.toNat v)) ∧
    (∀ v, (v % 2 = 0 → exec (.qstart p v) s = .next s) ∧
      (v % 2 = 1 → (k.cmd.isSome = true ∨ k.backlog ≠ []) → ∃ t, exec (.qstart p v) s = .next t ∧ (t.pkg p).restart = true ∧ (t.pkg p).cmd = k.cmd) ∧
      (v % 2 = 1 → k.cmd = none → k.backlog = [] → ∃ t, exec (.qstart p v) s = .next t ∧ (t.pkg p).running = true ∧ (t.pkg p).cqrun = k.cqbase ∧ (t.pkg p).rqrun = k.rqbase ∧ (t.pkg p).hseqacc = 0 ∧ (t.pkg p).dseqiss = 0 ∧
        (t.pkg p).rhead = 0 ∧ (t.pkg p).cdoor = 0 ∧ (t.pkg p).stopped = false ∧ (t.pkg p).cqbase = k.cqbase ∧ t.mem = s.mem)) ∧
    (∀ v, ∃ t u, exec (.registerWrite p 0x2000 v) s = .next t ∧ (t.pkg p).cqbase = wd v &&& ~~~(0xFFF : Word) ∧ (t.pkg p).cqrun = k.cqrun ∧ t.mem = s.mem ∧
      exec (.registerWrite p 0x2008 v) s = .next u ∧ (u.pkg p).rqbase = wd v &&& ~~~(0xFFF : Word) ∧ (u.pkg p).rqrun = k.rqrun ∧ u.mem = s.mem) ∧
    (∀ off v, (off < 0x10000 ∨ 2 ^ 38 ≤ off) → off ≠ 0x2000 → off ≠ 0x2008 → exec (.registerWrite p off v) s = .next s) ∧
    (∀ v, k.backlog = [] → k.restart = false → ∃ t, exec (.rheadAdvance p v) s = .next t ∧ (t.pkg p).rhead = wd v ∧ t.mem = s.mem) ∧
    (∀ v r, k.backlog = [r] → (k.dseqiss - wd v).toNat < 4096 → k.dseqiss.toNat + 1 < 2 ^ 64 → ∃ t, exec (.rheadAdvance p v) s = .next t ∧
      (t.pkg p).backlog = [] ∧ posted s t r.1 r.2.1 r.2.2 ∧
      (k.restart = false → (t.pkg p).rhead = wd v ∧ (t.pkg p).dseqiss = k.dseqiss + 1) ∧
      (k.restart = true → k.cmd = none → (t.pkg p).rhead = 0 ∧ (t.pkg p).dseqiss = 0 ∧ (t.pkg p).hseqacc = 0 ∧ (t.pkg p).cqrun = k.cqbase ∧
        (t.pkg p).restart = false))

/-- R15, R90, R91, R94, R231, R242, R247 to R249: a migration starts or is refused, has its new leaf written, and ends with its counter
advanced once no access to the source is under way; a self-test starts on a free engine, its result reaches its thread and the next test that
is due starts; undervolting domains freeze, step and measure; quotas are set; a power sample is kept and moves the limit; page heat halves;
the loop stops that the die has sleep once idle, wake and are reserved; a detected error counts, or aborts the requests for its line, and
starts a test, once the engine is free. The model's choices behind it: log entries 22, 46, 107, 116 to 119, 123, 130, 139 and 154. -/
def Obligations.PlatformEvents : Prop :=
  ∀ (s : State) (p : Nat) (k : Pkg), kget s.pkgs p = some k →
    (∀ die v, let m := (kgetD s.dies die {}).mig
      (m.busy = true ∨ v % 2 = 0 → exec (.migrationGo die v) s = .next s) ∧
      (m.busy = false → v % 2 = 1 → m.bad die = true → ∃ t, exec (.migrationGo die v) s = .next t ∧
        (kgetD t.dies die {}).mig = { m with busy := false, moved := false, status := 2 } ∧ t.mem = s.mem) ∧
      (m.busy = false → v % 2 = 1 → m.bad die = false → s.feq = [] → ∃ t, exec (.migrationGo die v) s = .next t ∧
        (kgetD t.dies die {}).mig = { m with busy := true, moved := false }) ∧
      (m.busy = false → exec (.migrationComplete die) s = .next s) ∧
      (m.busy = true → m.moved = false → MemOk s → s.migCopy m.entry.toNat = none →
        ∃ t, exec (.migrationComplete die) s = .next t ∧ (kgetD t.dies die {}).mig = { m with moved := true } ∧
          (∀ j, j < 8 → memRd t.mem (m.entry.toNat + j) = BitVec.ofNat 8 (m.newleaf.toNat / 256 ^ j)) ∧
          (∀ b, b < m.entry.toNat ∨ m.entry.toNat + 8 ≤ b → memRd t.mem b = memRd s.mem b) ∧ t.thr = s.thr) ∧
      (m.busy = true → m.moved = true →
        let out := s.accessOut 2 die (fun g _ _ => decide (m.src.toNat ≤ g ∧ g < m.src.toNat + m.bytes))
        (out = true → exec (.migrationComplete die) s = .next s) ∧
        (∀ c, out = false → s.scoreOf m = some (s.eid, c) → s.etl.trigs = [] → kgetD s.etl.scWait c [] = [] →
          ∃ t, exec (.migrationComplete die) s = .next t ∧ (kgetD t.dies die {}).mig = { m with busy := false, moved := false, status := 0 } ∧
            kgetD t.etl.sc c 0 = (kgetD s.etl.sc c 0 + 1) % 2 ^ 32 ∧ t.mem = s.mem))) ∧
    (∀ die u, ((kgetD s.dies die {}).testUnit.isSome = true ∨ unitExists u = false → exec (.stestStart die u) s = .next s) ∧
      ((kgetD s.dies die {}).testUnit = none → unitExists u = true → ∃ t, exec (.stestStart die u) s = .next t ∧ (kgetD t.dies die {}).testUnit = some u ∧
        (kgetD t.dies die {}).testTid = none ∧ t.thr = s.thr ∧ t.mem = s.mem) ∧
      ((kgetD s.dies die {}).testUnit = none → exec (.selfTestComplete die true) s = .next s) ∧
      ((kgetD s.dies die {}).testUnit = some u → (kgetD s.dies die {}).testTid = none → ∃ t, exec (.selfTestComplete die true) s = .next t ∧
        (s.save.etlets.any (fun p => p.2.threads.any (fun t => decide (t.2.st = .waiting .reach))) = false → t.thr = s.thr) ∧ t.mem = s.mem ∧
        ((kgetD s.dies die {}).testsDue = [] → (kgetD t.dies die {}).testUnit = none ∧ (kgetD t.dies die {}).testFailed = false) ∧
        (∀ v g rest, (kgetD s.dies die {}).testsDue = (v, g) :: rest → unitExists v = true →
          (kgetD t.dies die {}).testUnit = some v ∧ (kgetD t.dies die {}).testGpa = some g ∧ (kgetD t.dies die {}).testsDue = rest)) ∧
      ((kgetD s.dies die {}).testUnit = some u → (kgetD s.dies die {}).testTid = some s.th.tid → s.thr.isSome = true → s.th.st = .waiting .mem →
        s.th.waitD < 112 → s.th.kill = none → s.th.deferred = none → 0x38 ≤ u → u < 0x40 → (kgetD s.dies die {}).testsDue = [] →
        ∀ pass, ∃ t, exec (.selfTestComplete die pass) s = .next t ∧ (kgetD t.dies die {}).testUnit = none ∧ (kgetD t.dies die {}).testFailed = !pass ∧
          t.th.st = .ready ∧ t.live s.th.waitD = (if pass then 0 else 1) ∧ t.th.pc = (endTest s.th).pc ∧ t.mem = s.mem)) ∧
    (∀ d, let uv := fun (x : State) => kgetD (x.pkg p).uv d {}
      let frozen := fun (x : State) => (wd (x.pkg p).uvFrozen).getLsbD d
      let enabled := fun (x : State) => (wd (x.pkg p).uvEn).getLsbD d
      (20 ≤ d → exec (.uvFreeze p d) s = .next s ∧ exec (.uvUnfreeze p d) s = .next s ∧ exec (.uvEnableWrite p d true) s = .next s ∧ exec (.uvStep p d true) s = .next s) ∧
      (d < 20 → k.uvFrozen < 2 ^ 20 → k.uvEn < 2 ^ 20 →
        (∃ t, exec (.uvFreeze p d) s = .next t ∧ frozen t = true ∧ enabled t = enabled s ∧ t.thr = s.thr ∧ t.mem = s.mem) ∧
        (∃ t, exec (.uvUnfreeze p d) s = .next t ∧ frozen t = false ∧ enabled t = enabled s ∧ (uv t).raised = false ∧ t.thr = s.thr ∧ t.mem = s.mem) ∧
        (∀ en, ∃ t, exec (.uvEnableWrite p d en) s = .next t ∧ enabled t = en ∧ frozen t = frozen s ∧ uv t = uv s ∧ t.thr = s.thr ∧ t.mem = s.mem) ∧
        (∀ down, ∃ t, exec (.uvStep p d down) s = .next t ∧ t.thr = s.thr ∧ t.mem = s.mem ∧ (uv t).step =
          if enabled s = false then 0 else if frozen s then (uv s).step else if down then (uv s).step + 1 else (uv s).step - 1)) ∧
      (∀ ex, let past := decide (Config.errorThreshold d < ((uv s).errors.filter (fun c => decide (s.now < c + 2 ^ 20))).length)
        ∃ t, exec (.uvMeasureEnd p d ex) s = .next t ∧ t.thr = s.thr ∧ t.mem = s.mem ∧
          (∀ c, (uv s).measuring = some c → c + 2 ^ 20 ≤ s.now → ex = past → uv t =
            { uv s with measuring := none, errors := [], failures := if past = true ∧ (uv s).step = 0 then (uv s).failures + 1 else (uv s).failures }) ∧
          ((∀ c, (uv s).measuring = some c → s.now < c + 2 ^ 20 ∨ ex ≠ past) → uv t = uv s))) ∧
    (∀ v key, ∃ t, exec (.mfqset p (v * 2 ^ 32 + key)) s = .next t ∧ t.mem = s.mem ∧ (v < 2 ^ 32 → key < 4096 →
      kgetD (kgetD t.domains (p / 1024) {}).quota key (0, 0) = (v, (kgetD (kgetD s.domains (p / 1024) {}).quota key (0, 0)).2))) ∧
    (∀ i mw, i < 8 → mw < 2 ^ 32 → ∃ t, exec (.powerSample p i mw) s = .next t ∧ kgetD (t.pkg p).power i 0 = mw ∧ t.thr = s.thr ∧ t.mem = s.mem ∧
      (let w := kgetD (t.pkg p).power (i % 4) 0 + kgetD (t.pkg p).power (i % 4 + 4) 0
       let x := (kgetD s.dies (4 * p + i % 4) {}).limit
       (kgetD t.dies (4 * p + i % 4) {}).limit = if 700000 ≤ w then min 7 (x + 1) else x - 1)) ∧
    (∀ die, let d := kgetD s.dies die {}
      ∃ t, exec (.pageHeatHalve die) s = .next t ∧ t.thr = s.thr ∧ t.mem = s.mem ∧
        (2 ^ 20 ≤ d.accesses → (kgetD t.dies die {}).accesses = d.accesses - 2 ^ 20 ∧ ∀ g, kgetD (kgetD t.dies die {}).heat g 0 = kgetD d.heat g 0 / 2) ∧
        (d.accesses < 2 ^ 20 → kgetD t.dies die {} = d)) ∧
    (∀ die l n, let off := fun (x : State) => (kgetD x.dies die {}).stopsOff
      let kept := fun (x : State) => (kgetD x.dies die {}).reserved
      (stopExists die l n = false → exec (.loopSlotReserve die l n) s = .next s ∧ exec (.loopStopPowerDown die l n) s = .next s ∧
        exec (.loopStopWake die l n) s = .next s) ∧
      (stopExists die l n = true →
        (∃ t, exec (.loopSlotReserve die l n) s = .next t ∧ (l, n) ∈ kept t ∧ off t = off s ∧ t.thr = s.thr ∧ t.mem = s.mem) ∧
        (∃ t, exec (.loopStopPowerDown die l n) s = .next t ∧ kept t = kept s ∧ t.thr = s.thr ∧ t.mem = s.mem ∧
          ((kgetD s.dies die {}).stopAt l n + 4096 ≤ s.now → (l, n) ∈ off t) ∧ (s.now < (kgetD s.dies die {}).stopAt l n + 4096 → off t = off s)) ∧
        (∃ t, exec (.loopStopWake die l n) s = .next t ∧ (l, n) ∉ off t ∧ (l, n) ∉ kept t ∧ (kgetD t.dies die {}).stopAt l n = s.now ∧
          t.thr = s.thr ∧ t.mem = s.mem))) ∧
    (∀ die u g, (kgetD s.dies die {}).testUnit.isSome = true → unitExists u = true → ∃ t, exec (.errorDetected die u g true) s = .next t ∧
      (kgetD t.dies die {}).testUnit = (kgetD s.dies die {}).testUnit ∧ (kgetD t.dies die {}).testsDue = (kgetD s.dies die {}).testsDue ++ [(u, g)] ∧
      t.thr = s.thr ∧ t.mem = s.mem) ∧
    (∀ die u g, (kgetD s.dies die {}).testUnit = none → unitExists u = true →
      (∃ t, exec (.errorDetected die u g true) s = .next t ∧ (kgetD t.dies die {}).corrected = (kgetD s.dies die {}).corrected + 1 ∧
        (kgetD t.dies die {}).irq = (kgetD s.dies die {}).irq ∧ (kgetD t.dies die {}).testUnit = some u ∧ t.thr = s.thr ∧ t.mem = s.mem) ∧
      (s.etlets = [] → ∃ t, exec (.errorDetected die u g false) s = .next t ∧ (kgetD t.dies die {}).irq = true ∧ (kgetD t.dies die {}).testUnit = some u ∧
        t.thr = s.thr ∧ t.mem = s.mem ∧ (∀ l q, kget s.etl.reqs l = some q →
          kget t.etl.reqs l = some (if q.gpa / 64 = g / 64 ∧ q.reply = none then { q with reply := some .abort } else q)) ∧
        t.etl.posted = s.etl.posted.map (fun x => if x.gpa / 64 = g / 64 ∧ x.done = 0 then { x with done := 2 } else x) ∧
        t.etl.fagg = s.etl.fagg.map (fun x => if x.gpa / 64 = g / 64 ∧ x.sent.isSome = true ∧ x.reply = none then { x with reply := some .abort } else x)))

/-! ### What completes instructions, and the fabric -/

/-- R25, R26, R35, R54, R74, R75, R82, R110, R194, R204, R223, R225, R301, R305, R386: the part's steps that end what instructions began. An
illegal encoding, a fetch fault and an event, the last not in the middle of a bundle or past annulled ones, enter a trap at the bundle; a
walk fills the translation caches, and the bundle issues again, or XLATE, with a DABORT event too where what it read failed its check; a posted store
takes effect, and a failed one raises its event; a drained EXIT frees its slot; a launch's completion is written once; a bench image is
written part by part, behind the earlier stores of its thread; a closed FAGG group acts at its home, is sent or is aborted; a request that
reaches its target, not older than 50 microseconds or held there, is answered, from the dedup table where it was executed before, or held;
resends, timeouts and dedup entries take their course.
The model's choices behind it: log entries 4, 10, 24, 34, 42, 48 to 50, 100 and 165. -/
def Obligations.CompletionEvents : Prop :=
  ∀ s : State,
    let plain := s.thr.isSome = true ∧ s.handoff = false ∧ s.th.status.getLsbD 4 = false ∧ s.th.gangN = 0
    let traps := fun (i : Instr) (c : Cause) => ∃ t, exec i s = .next t ∧ t.th.ecause = c.pack ∧ t.th.eval = c.eval ∧ t.th.epc = s.th.pc ∧ t.th.pc = s.th.svec ∧
      t.th.estatus = s.th.status ∧ bits t.th.status 0 0 = 1 ∧ bits t.th.status 4 4 = 1 ∧ t.th.st = .ready ∧ t.th.g = s.th.g ∧ t.mem = s.mem
    (∀ w, plain → traps (.illegalEncoding w) { code := 0x01, eval := wd w }) ∧
    (∀ c, plain → traps (.fetchFault c) { code := c, eval := s.th.pc }) ∧
    let place := s.etl.mmas.any (fun m => decide (m.tid = s.th.tid) && m.aux.isSome)
    ((s.th.events = [] ∨ s.th.st ≠ .ready ∨ s.th.deferred.isSome = true ∨ s.th.votes ≠ [] ∨ s.th.skip ≠ 0 ∨ place = true) →
      exec (.eventDelivery s.eid s.slot) s = .next s) ∧
    (∀ c rest, plain → s.th.events = c :: rest → s.th.st = .ready → s.th.deferred = none → s.th.votes = [] → s.th.skip = 0 → place = false →
      s.th.partner = none →
      traps (.eventDelivery s.eid s.slot) c ∧ ∃ t, exec (.eventDelivery s.eid s.slot) s = .next t ∧ t.th.events = rest) ∧
    (∀ c l, s.thr.isSome = true → s.th.yieldAt = some (c, l) → ∃ t, exec (.yieldExpiry s.eid s.slot) s = .next t ∧
      t.th.yieldAt = (if c + 64 ≤ s.now then none else some (c, l)) ∧ t.th.pc = s.th.pc ∧ t.th.g = s.th.g ∧ t.mem = s.mem) ∧
    (∀ va, plain → s.th.st = .waiting (.walk va) →
      let near := (kgetD s.clusters (clusterOf s.eid) {}).tcache.any (fun t => t.hits s.kern.key (wd va))
      let tested := (s.walkReads s.kern.key (wd va) s.kern.root.toNat walkLevels).any s.homeTested
      let bad := s.walkAborts s.kern.key (wd va) s.kern.root.toNat walkLevels
      (near = false → tested = true → exec (.translationWalkComplete s.eid s.slot) s = .next s) ∧
      ((near = true ∨ tested = false ∧ bad = false) → walkResult (wd va) s = none →
        traps (.translationWalkComplete s.eid s.slot) { code := 0x04, eval := wd va }) ∧
      (near = false → tested = false → bad = true → walkResult (wd va) s = none → s.etlets = [] → s.etl.threads = [] → s.th.events.length < 8 →
        s.th.policy.toNat % 4 = 0 → traps (.translationWalkComplete s.eid s.slot) { code := 0x04, eval := wd va } ∧
          ∃ t, exec (.translationWalkComplete s.eid s.slot) s = .next t ∧ t.th.events = s.th.events ++ [{ code := 0x06, eval := wd va, imp := true }]) ∧
      (∀ x, (near = true ∨ tested = false) → walkResult (wd va) s = some x → ∃ t, exec (.translationWalkComplete s.eid s.slot) s = .next t ∧ t.th.st = .ready ∧ x ∈ t.etl.tcache ∧
        x ∈ (kgetD t.clusters (clusterOf s.eid) {}).tcache ∧ t.th.pc = s.th.pc ∧ t.th.g = s.th.g ∧ t.mem = s.mem)) ∧
    (∀ x, s.etl.posted.find? (fun y => decide (y.done ≠ 0)) = some x → onPkg s.eid x.gpa = false → x.went = true →
      usePort 2 (homeEid x.gpa) (pkgOf s.eid) s = none → exec (.storeReply s.eid) s = .next s) ∧
    let carried := fun (x : SEntry) => onPkg s.eid x.gpa = true ∨ x.went = false ∨ (usePort 2 (homeEid x.gpa) (pkgOf s.eid) s).isSome = true
    (∀ x, s.etl.posted.find? (fun y => decide (y.done ≠ 0)) = none → s.etl.posted.find? (fun y => onPkg s.eid y.gpa) = some x →
      (s.storeHeld x = true ∨ s.queuedBehind s.eid x.seq x.gpa = true → exec (.storeReply s.eid) s = .next s) ∧
      (s.storeHeld x = false → s.queuedBehind s.eid x.seq x.gpa = false → MemOk s → Quiet s → regionOf x.gpa ≤ 2 → s.aborts x.gpa = false →
        s.migCopy x.gpa = none → (∀ j, j < x.width → s.owns x.key (x.gpa + j) = true) → ∃ t, exec (.storeReply s.eid) s = .next t ∧
        t.etl.posted = s.etl.posted.erase x ∧ (∀ j, j < x.width → memRd t.mem (x.gpa + j) = BitVec.ofNat 8 (x.data.toNat / 256 ^ j)) ∧
        (∀ b, b < x.gpa ∨ x.gpa + x.width ≤ b → memRd t.mem b = memRd s.mem b))) ∧
    (∀ x, s.etl.posted.find? (fun y => decide (y.done ≠ 0)) = some x → carried x → x.done = 1 → Quiet s → ∃ t, exec (.storeReply s.eid) s = .next t ∧
      t.etl.posted = s.etl.posted.erase x ∧ t.mem = s.mem) ∧
    (∀ x, s.etl.posted.find? (fun y => decide (y.done ≠ 0)) = some x → carried x → (x.done = 2 ∨ x.done = 3) → s.thr.isSome = true → x.tid = s.th.tid →
      Quiet s → s.etlets = [] → s.etl.threads = [] → s.th.st = .ready → s.th.events.length < 8 → s.th.policy.toNat % 4 = 0 →
      ∃ t, exec (.storeReply s.eid) s = .next t ∧ t.etl.posted = s.etl.posted.erase x ∧ t.mem = s.mem ∧ t.th.pc = s.th.pc ∧ t.th.g = s.th.g ∧
        t.th.events = s.th.events ++ [{ code := if x.done = 2 then 0x06 else 0x0D, eval := x.va, imp := true }]) ∧
    (s.th.st ≠ .waiting .exitDrain → exec (.exitComplete s.eid s.slot) s = .next s) ∧
    (s.thr.isSome = true → s.th.st = .waiting .exitDrain → s.th.gangN = 0 → s.th.partner = none →
      let u := if s.pending then s else drainMine s
      ((u.focus s.eid s.slot).exitReady = false → exec (.exitComplete s.eid s.slot) s = .next u) ∧
      ((u.focus s.eid s.slot).exitReady = true → s.etlets = [] → s.objs = [] → ∃ t, exec (.exitComplete s.eid s.slot) s = .next t ∧ t.thr = none ∧
        (∀ l, l ≠ s.slot → (t.threadAt l).isSome = (s.threadAt l).isSome) ∧ t.mem = s.mem)) ∧
    (∀ p l x, kget s.launches (64 * p + l) = some x →
      (x.ended = false ∨ x.done = true ∨ s.drained (64 * p + l) = false → exec (.launchCompletionWrite p l) s = .next s) ∧
      (x.ended = true → x.done = false → s.drained (64 * p + l) = true → x.doneAddr = 0 → ∃ t, exec (.launchCompletionWrite p l) s = .next t ∧
        kget t.launches (64 * p + l) = some { x with done := true } ∧ t.mem = s.mem ∧ t.thr = s.thr) ∧
      (x.ended = true → x.done = false → s.drained (64 * p + l) = true → x.doneAddr ≠ 0 → s.aborts x.doneAddr = false → MemOk s →
        regionOf x.doneAddr ∈ [2, 4] → x.doneAddr % 8 = 0 → s.migCopy x.doneAddr = none → ∃ t, exec (.launchCompletionWrite p l) s = .next t ∧
        kget t.launches (64 * p + l) = some { x with done := true } ∧ t.thr = s.thr ∧
        (∀ j, j < 8 → memRd t.mem (x.doneAddr + j) = BitVec.ofNat 8 (x.doneVal.toNat / 256 ^ j)) ∧
        (∀ b, b < x.doneAddr ∨ x.doneAddr + 8 ≤ b → memRd t.mem b = memRd s.mem b)) ∧
      (x.ended = true → x.done = false → s.drained (64 * p + l) = true → x.doneAddr ≠ 0 → s.aborts x.doneAddr = true →
        ∃ t y, exec (.launchCompletionWrite p l) s = .next t ∧ kget t.launches (64 * p + l) = some y ∧ y.done = true ∧ t.mem = s.mem ∧ t.thr = s.thr)) ∧
    (∀ b rest g n ps, s.etl.benchW = b :: rest → b.parts = (g, n) :: ps → s.imageWaits b g n = true → ∃ t, exec (.benchImageWrite s.eid) s = .next t ∧ t.mem = s.mem) ∧
    (∀ b rest g n ps, s.etl.benchW = b :: rest → b.parts = (g, n) :: ps → s.imageWaits b g n = false → n % 8 = 0 → MemOk s →
      (kset s.etl.threads s.slot s.thr).any (fun x => match x.2.st with | .waiting (.benchSelf _) => true | _ => false) = false → s.survivor g = g → s.aborts g = false → s.lost g = false →
      (∀ j, j < n → s.owns b.key (g + j) = true ∧ s.migCopy (g + j) = none ∧ regionOf (g + j) < 3) →
      ∃ t, exec (.benchImageWrite s.eid) s = .next t ∧
        t.etl.benchW = (if ps = [] then rest else s.etl.benchW.map (fun x => if x = b then { b with parts := ps, off := b.off + n } else x)) ∧
        (∀ j, j < n → memRd t.mem (g + j) = Config.benchByte b.no (b.off + j)) ∧ (∀ a, a < g ∨ g + n ≤ a → memRd t.mem a = memRd s.mem a)) ∧
    (s.etl.fagg.find? (fun g => g.reply.isSome) = none → s.etl.fagg.find? (fun g => g.closed s.now && g.sent.isNone) = none →
      exec (.faggGroupClose s.eid) s = .next s) ∧
    (∀ x m, s.etl.fagg.find? (fun g => g.reply.isSome) = none → s.etl.fagg.find? (fun g => g.closed s.now && g.sent.isNone) = some x →
      (onPkg s.eid x.gpa = true → s.requestHeld s.eid (x.req s.now) = true → exec (.faggGroupClose s.eid) s = .next s) ∧
      (onPkg s.eid x.gpa = false → s.cutOff s.eid x.gpa = true → x.members = [m] → plain → Quiet s → m.tid = s.th.tid →
        traps (.faggGroupClose s.eid) { code := 0x06, eval := m.va }) ∧
      (onPkg s.eid x.gpa = false → s.cutOff s.eid x.gpa = false → ∃ t, exec (.faggGroupClose s.eid) s = .next t ∧ { x with seq := s.etl.reqSeq, sent := some s.now } ∈ t.etl.fagg ∧
        t.etl.reqSeq = (s.etl.reqSeq + 1) % 2 ^ 24 ∧ t.thr = s.thr ∧ t.mem = s.mem) ∧
      (onPkg s.eid x.gpa = true → s.requestHeld s.eid (x.req s.now) = false → x.members = [m] → m.tid = s.th.tid → s.thr.isSome = true → Quiet s →
        s.th.waitD < 112 → s.th.kill = none → s.th.deferred = none → MemOk s → regionOf x.gpa = 2 → x.gpa % x.width = 0 → (x.width = 4 ∨ x.width = 8) →
        s.abortsR x.gpa = false → s.hazardAt x.gpa x.width = false → s.migCopy x.gpa = none →
        ∃ t, exec (.faggGroupClose s.eid) s = .next t ∧ t.live s.th.waitD = sext (s.rdMem 0 x.gpa x.width) (8 * x.width) ∧ t.th.st = .ready ∧
          t.th.pc = (endTest s.th).pc ∧ (∀ j, j < x.width → memRd t.mem (x.gpa + j) = BitVec.ofNat 8 ((s.rdMem 0 x.gpa x.width + m.y.toNat) / 256 ^ j)) ∧
          (∀ b, b < x.gpa ∨ x.gpa + x.width ≤ b → memRd t.mem b = memRd s.mem b))) ∧
    (∀ n q, s.etl.reqs.find? (fun r => decide (r.2.seq = n) && !r.2.op.mf && !onPkg s.eid r.2.gpa) = some (q.slot, q) →
      let p := { q with went := true }
      (q.come = false → (q.sent + 55000 < s.now ∨ usePort 0 s.eid (gpaPkg q.gpa) s = none) → exec (.requestArrival s.eid n) s = .next s) ∧
      (∀ v, (q.come = true ∧ v = s ∨ q.come = false ∧ q.sent + 55000 ≥ s.now ∧ usePort 0 s.eid (gpaPkg q.gpa) s = some v) →
        let u : State := v.modE (fun x => { x with reqs := kput x.reqs q.slot p })
        let left := fun (y : Req) (m : List Host.Cell) => ∃ t, exec (.requestArrival s.eid n) s = .next t ∧ kget t.etl.reqs q.slot = some y ∧ t.thr = s.thr ∧ t.mem = m
        let replied := fun (r : Reply) => left { p with reply := some r, come := false } s.mem
        let die := homeDie q.gpa
        (∀ r, u.dedupOf die s.eid q.seq = some r → r ≠ .joined → replied r) ∧
        (u.dedupOf die s.eid q.seq = none → (q.op.recorded = true ∧ u.dedupRoom die = false ∨ u.requestHeld s.eid p = true) →
          left { p with come := true } s.mem) ∧
        (∀ w sg, q.op = .load w sg → u.dedupOf die s.eid q.seq = none → u.requestHeld s.eid p = false → regionOf q.gpa ≤ 1 → u.abortsR q.gpa = false →
          replied (.val (extend w sg (overlayFor (u.etletAt s.eid) ((u.threadAt q.slot).getD {}).kid q.tid q.gpa w (s.rdMem q.key q.gpa w))))) ∧
        (∀ f w y, q.op = .amo f w y → u.dedupOf die s.eid q.seq = none → u.dedupRoom die = true → u.requestHeld s.eid p = false → regionOf q.gpa ≤ 1 →
          u.abortsR q.gpa = false → u.hazardAt q.gpa w = false → MemOk s → s.migCopy q.gpa = none → (∀ j, j < w → s.owns q.key (q.gpa + j) = true) →
          ∃ t, exec (.requestArrival s.eid n) s = .next t ∧
            kget t.etl.reqs q.slot = some { p with reply := some (.val (extend w true (s.rdMem q.key q.gpa w))), come := false } ∧
            t.dedupOf die s.eid q.seq = some (.val (extend w true (s.rdMem q.key q.gpa w))) ∧
            (∀ j, j < w → memRd t.mem (q.gpa + j) = BitVec.ofNat 8 (amoNew f (8 * w) (s.rdMem q.key q.gpa w) (y.toNat % 256 ^ w) / 256 ^ j)) ∧
            (∀ b, b < q.gpa ∨ q.gpa + w ≤ b → memRd t.mem b = memRd s.mem b)))) ∧
    (∀ n, let due := fun (q sends sent : Nat) => q = n ∧ sends < 3 ∧ sent + 22000 * sends ≤ s.now
      ∃ t, exec (.requestResend s.eid n) s = .next t ∧ t.thr = s.thr ∧ t.mem = s.mem ∧
        (∀ l q, kget s.etl.reqs l = some q → kget t.etl.reqs l = some (
          if due q.seq q.sends q.sent ∧ q.op.mf = false ∧ onPkg s.eid q.gpa = false then { q with sends := q.sends + 1 } else q)) ∧
        t.etl.posted = s.etl.posted.map (fun x => if due x.seq x.sends x.sent ∧ onPkg s.eid x.gpa = false then { x with sends := x.sends + 1 } else x) ∧
        t.etl.fagg = s.etl.fagg.map (fun g => if g.sent.any (fun c => decide (g.seq = n ∧ g.sends < 3 ∧ c + 22000 * g.sends ≤ s.now)) = true then { g with sends := g.sends + 1 } else g)) ∧
    (∀ n, let late := s.etl.reqs.find? (fun r => decide (r.2.seq = n ∧ r.2.sent + 110000 ≤ s.now) && !r.2.op.mf && !onPkg s.eid r.2.gpa)
      (∀ q, late = some (s.slot, q) → plain → Quiet s → q.tid = s.th.tid → s.th.st = .waiting .mem →
        (∀ w d, q.op ≠ .store w d) → (∀ l, q.op ≠ .bytes l) → (∀ d l, q.op ≠ .read d l) →
        traps (.requestTimeout s.eid n) { code := 0x06, eval := q.va }) ∧
      (late = none → s.etl.posted = [] → s.etl.fagg = [] → exec (.requestTimeout s.eid n) s = .next s)) ∧
    (∀ die, ∃ t, exec (.dedupExpiry die) s = .next t ∧ t.thr = s.thr ∧ t.mem = s.mem ∧
      (kgetD t.dies die {}).dedup = (kgetD s.dies die {}).dedup.filter (fun x => decide (s.now < x.at_ + 70400))) ∧
    (∀ cl n, ∃ t, exec (.memoryWriteComplete cl n) s = .next t ∧ n ∉ (kgetD t.clusters cl {}).writes ∧
      (∀ l, l ≠ n → l ∈ (kgetD s.clusters cl {}).writes → l ∈ (kgetD t.clusters cl {}).writes) ∧ t.thr = s.thr ∧ t.mem = s.mem)

/-- R195, R199 to R203, Table 10.3: flits are accepted in sequence, the receiver keeps which it lacks after a bad one, authentication
failures take a port out; a replay resends from a flit
on; a critical packet is kept once, with what it says; training ends in UP where the records agree, in MISMATCH or OUT where they do not,
and not while the port is under test; a command leads out of OUT; the flows of a dead port move and stall, and the stall ends when every
packet of the flow is answered or 50 microseconds after its last.
The model's choices behind it: log entries 51, 120 to 122 and 145. -/
def Obligations.FabricEvents : Prop :=
  ∀ (s : State) (p : Nat) (k : Pkg) (n : Nat), kget s.pkgs p = some k → n < 36 →
    let x := kgetD k.ports n {}
    let port := fun (i : Instr) (y : Port) => ∃ t, exec i s = .next t ∧ kgetD (t.pkg p).ports n {} = y ∧ (∀ m, m ≠ n → kget (t.pkg p).ports m = kget k.ports m) ∧
      t.thr = s.thr ∧ t.mem = s.mem
    (∀ q good ok, (x.state ≠ 1 → port (.flitReceive p n q good ok) x) ∧
      (x.state = 1 → ok = false → port (.flitReceive p n q good ok)
        { x with auth := x.auth + 1, state := if 3 ≤ x.auth + 1 then 3 else 1, lacks := some x.rxNext }) ∧
      (x.state = 1 → ok = true → good = true → q = x.rxNext → port (.flitReceive p n q good ok)
        { x with auth := 0, rxNext := (x.rxNext + 1) % 2 ^ 32, lacks := none }) ∧
      (x.state = 1 → ok = true → good = true → q ≠ x.rxNext → port (.flitReceive p n q good ok) { x with auth := 0 }) ∧
      (x.state = 1 → ok = true → good = false → port (.flitReceive p n q good ok) { x with auth := 0, lacks := some x.rxNext })) ∧
    (∀ q, ∃ y : Port, port (.replayRequest p n q) y ∧ ∀ f, f < 2 ^ 32 → q < 2 ^ 32 → (f ∈ y.resend ↔ f ∈ x.unacked ∧ (f + 2 ^ 32 - q) % 2 ^ 32 < 2 ^ 31)) ∧
    (∀ src q, q < 2 ^ 32 → (q ∈ kgetD k.crit src [] → ∃ t, exec (.criticalPacketReceive p src q) s = .next t ∧ kgetD (t.pkg p).crit src [] = kgetD k.crit src []) ∧
      (q ∉ kgetD k.crit src [] → (kgetD k.crit src []).length ≤ 1024 → ∃ t, exec (.criticalPacketReceive p src q) s = .next t ∧ q ∈ kgetD (t.pkg p).crit src [] ∧
        (kgetD (t.pkg p).crit src []).length ≤ 1024 ∧ ((kgetD k.crit src []).length < 1024 → kgetD (t.pkg p).crit src [] = kgetD k.crit src [] ++ [q]) ∧
        (t.pkg p).critIn = k.critIn ++ (((s.pkg src).critSent.find? (fun c => decide (c.no = q))).map (fun c => (src, c.what))).toList ∧ t.mem = s.mem)) ∧
    (∀ sp la ok, s.tested p (0x10 + n) = true → port (.portTrainingEnd p n sp la ok) x ∧ port (.trainingTimeout p n) x) ∧
    (∀ sp la ok, s.tested p (0x10 + n) = false → (x.state = 1 ∨ x.state = 3 → port (.portTrainingEnd p n sp la ok) x ∧ port (.trainingTimeout p n) x) ∧
      (x.state = 2 → port (.portTrainingEnd p n sp la ok) { x with state := 0 } ∧ port (.trainingTimeout p n) x) ∧
      (x.state = 0 → let y := { x with recSeq := (x.recSeq + 1) % 2 ^ 32 }
        (ok = true → sp = x.speed → la = x.lanes → x.lanes ≠ 0 → port (.portTrainingEnd p n sp la ok) { y with
          state := 1, fails := 0, auth := 0, lacks := none, plain := if Config.sameEnclosure p n then Config.plainChannels p n % 256 else 0 }) ∧
        (ok = true → (sp ≠ x.speed ∨ la ≠ x.lanes) → 2 ≤ x.fails → port (.portTrainingEnd p n sp la ok) { y with state := 3, fails := x.fails + 1 }) ∧
        (ok = true → sp < x.speed → x.fails < 2 → x.lanes &&& la ≠ 0 →
          port (.portTrainingEnd p n sp la ok) { y with state := 2, fails := x.fails + 1, speed := sp, lanes := x.lanes &&& la }) ∧
        (ok = false → x.fails < 2 → x.lanes ≠ 0 →
          port (.portTrainingEnd p n sp la ok) { y with state := 2, fails := x.fails + 1, speed := max 1 (x.speed - 1) }) ∧
        (2 ≤ x.fails → port (.trainingTimeout p n) { x with state := 3, fails := x.fails + 1 }) ∧
        (x.fails < 2 → x.lanes ≠ 0 → port (.trainingTimeout p n) { x with state := 2, fails := x.fails + 1, speed := max 1 (x.speed - 1) }))) ∧
    port (.portCommand p n) { x with state := 0, fails := 0 } ∧
    (∃ t, exec (.flowMove p n) s = .next t ∧ t.mem = s.mem ∧ t.thr = s.thr ∧ (x.state ≠ 3 → (t.pkg p).flows = k.flows) ∧
      (x.state = 3 → ∀ f y, kget k.flows f = some y →
        kget (t.pkg p).flows f = some (if y.port = n then { y with port := (k.pin f).getD n, stalled := true } else y))) ∧
    (∀ f y, kget k.flows f = some y → (s.unanswered f = true → s.now < y.last + 55000 → exec (.flowStallEnd p f) s = .next s) ∧
      ((s.unanswered f = false ∨ y.last + 55000 ≤ s.now) → ∃ t, exec (.flowStallEnd p f) s = .next t ∧
        kget (t.pkg p).flows f = some { y with stalled := false } ∧ t.thr = s.thr ∧ t.mem = s.mem))
end

