-- ==== Sys2Proof/Laws/Maps.lean ====
section
/-! SUPPORT. What the operations on keyed collections do: reading after putting, removing and changing. -/

namespace Sys2Proof.Laws

open Machine

@[simp] theorem kget_kput {α : Type} (m : KMap α) (k : Nat) (v : α) : kget (kput m k v) k = some v := by
  induction m with
  | nil => simp [kput, kget]
  | cons p m ih =>
    obtain ⟨j, w⟩ := p
    unfold kput
    split_ifs with h h2 <;> simp [kget, *]

theorem kget_kput_ne {α : Type} (m : KMap α) {k j : Nat} (v : α) (h : j ≠ k) : kget (kput m k v) j = kget m j := by
  induction m with
  | nil => simp [kput, kget, Ne.symm h]
  | cons p m ih =>
    obtain ⟨i, w⟩ := p
    unfold kput
    split_ifs with hi h2
    · subst hi; simp [kget, Ne.symm h]
    · simp [kget, Ne.symm h]
    · simp [kget, ih]

@[simp] theorem kget_kdel {α : Type} (m : KMap α) (k : Nat) : kget (kdel m k) k = none := by
  induction m with
  | nil => rfl
  | cons p m ih => obtain ⟨i, w⟩ := p; by_cases hi : i = k <;> simp [kdel, kget, hi, ih]

theorem kget_kdel_ne {α : Type} (m : KMap α) {k j : Nat} (h : j ≠ k) : kget (kdel m k) j = kget m j := by
  induction m with
  | nil => rfl
  | cons p m ih =>
    obtain ⟨i, w⟩ := p
    unfold kdel
    split_ifs with hi
    · subst hi; simp [kget, ih, Ne.symm h]
    · simp [kget, ih]

@[simp] theorem kgetD_kput {α : Type} (m : KMap α) (k : Nat) (v d : α) : kgetD (kput m k v) k d = v := by simp [kgetD]

theorem kgetD_kput_ne {α : Type} (m : KMap α) {k j : Nat} (v d : α) (h : j ≠ k) : kgetD (kput m k v) j d = kgetD m j d := by
  simp [kgetD, kget_kput_ne m v h]

@[simp] theorem kget_kmod {α : Type} (m : KMap α) (k : Nat) (d : α) (f : α → α) :
    kget (kmod m k d f) k = some (f (kgetD m k d)) := by simp [kmod]

theorem kget_kmod_ne {α : Type} (m : KMap α) {k j : Nat} (d : α) (f : α → α) (h : j ≠ k) :
    kget (kmod m k d f) j = kget m j := by simp [kmod, kget_kput_ne m _ h]

@[simp] theorem kgetD_kmod {α : Type} (m : KMap α) (k : Nat) (d : α) (f : α → α) :
    kgetD (kmod m k d f) k d = f (kgetD m k d) := by simp [kgetD]

theorem kget_kmap {α : Type} (m : KMap α) (k : Nat) (f : α → α) : kget (kmap m f) k = (kget m k).map f := by
  induction m with
  | nil => rfl
  | cons p m ih =>
    obtain ⟨i, w⟩ := p
    by_cases hi : i = k
    · simp [kmap, kget, hi]
    · have := ih; simp only [kmap] at this; simp [kmap, kget, hi, this]

@[simp] theorem kset_some {α : Type} (m : KMap α) (k : Nat) (v : α) : kset m k (some v) = kput m k v := rfl

@[simp] theorem kset_none {α : Type} (m : KMap α) (k : Nat) : kset m k none = kdel m k := rfl

theorem kget_kset {α : Type} (m : KMap α) (k : Nat) (v : Option α) : kget (kset m k v) k = v := by cases v <;> simp [kset]

end Sys2Proof.Laws
end

