-- ==== Sys2Proof/Laws/Memory.lean ====
section
/-! SUPPORT. Memory: reading after writing, and that every operation on memory keeps its canonical form. -/

namespace Sys2Proof.Laws

open Machine

/-! ### Bytes -/

theorem memRd_below {m : Memory} {lo a : Nat} (h : Memory.wfFrom lo m = true) (ha : a < lo) : memRd m a = 0 := by
  cases m with
  | nil => rfl
  | cons p m =>
    obtain ⟨b, v⟩ := p
    simp only [Memory.wfFrom, Bool.and_eq_true, decide_eq_true_eq] at h
    simp [memRd, show ¬b = a by omega, show a < b by omega]

theorem wfFrom_mono {m : Memory} {lo k : Nat} (h : Memory.wfFrom lo m = true) (hk : k ≤ lo) : Memory.wfFrom k m = true := by
  cases m with
  | nil => rfl
  | cons p m =>
    obtain ⟨b, v⟩ := p
    simp only [Memory.wfFrom, Bool.and_eq_true, decide_eq_true_eq] at h ⊢
    exact ⟨⟨by omega, h.1.2⟩, h.2⟩

theorem wfFrom_cons {lo a : Nat} {v : Byte} {m : Memory} :
    Memory.wfFrom lo ((a, v) :: m) = true ↔ (lo ≤ a ∧ v ≠ 0) ∧ Memory.wfFrom (a + 1) m = true := by
  simp only [Memory.wfFrom, Bool.and_eq_true, decide_eq_true_eq]

theorem wfFrom_memWr {m : Memory} {lo : Nat} (a : Nat) (v : Byte) (h : Memory.wfFrom lo m = true) :
    Memory.wfFrom (min lo a) (memWr m a v) = true := by
  induction m generalizing lo with
  | nil =>
    unfold memWr
    split_ifs with hv
    · rfl
    · exact wfFrom_cons.2 ⟨⟨by omega, hv⟩, rfl⟩
  | cons p m ih =>
    obtain ⟨b, w⟩ := p
    obtain ⟨⟨hb, hw⟩, hm⟩ := wfFrom_cons.1 h
    unfold memWr
    split_ifs with h1 h2 h3 h4
    · exact wfFrom_mono hm (by omega)
    · exact wfFrom_cons.2 ⟨⟨by omega, h2⟩, wfFrom_mono hm (by omega)⟩
    · exact wfFrom_mono h (by omega)
    · exact wfFrom_cons.2 ⟨⟨by omega, h4⟩, wfFrom_cons.2 ⟨⟨by omega, hw⟩, hm⟩⟩
    · exact wfFrom_cons.2 ⟨⟨by omega, hw⟩, wfFrom_mono (ih hm) (by omega)⟩

/-- A byte written keeps the canonical form. -/
theorem wf_memWr {m : Memory} (a : Nat) (v : Byte) (h : Memory.wf m = true) : Memory.wf (memWr m a v) = true := by
  simpa [Memory.wf] using wfFrom_memWr a v h

theorem memRd_cons (c b : Nat) (w : Byte) (m : Memory) :
    memRd ((c, w) :: m) b = if c = b then w else if b < c then 0 else memRd m b := rfl

theorem memRd_memWr_from {m : Memory} {lo : Nat} (a : Nat) (v : Byte) (b : Nat) (h : Memory.wfFrom lo m = true) :
    memRd (memWr m a v) b = if b = a then v else memRd m b := by
  induction m generalizing lo with
  | nil =>
    unfold memWr
    split_ifs with hv hb hb
    · exact hv.symm
    · rfl
    · rw [memRd_cons, if_pos hb.symm]
    · rw [memRd_cons, if_neg (Ne.symm hb)]; split_ifs <;> rfl
  | cons p m ih =>
    obtain ⟨c, w⟩ := p
    obtain ⟨⟨hc, hw⟩, hm⟩ := wfFrom_cons.1 h
    have below : ∀ x, x ≤ c → memRd m x = 0 := fun x hx => memRd_below hm (by omega)
    unfold memWr
    split_ifs with h1 h2 hb hb h3 h4 hb hb hb
    · rw [hb, ← h1, below c le_rfl, h2]
    · rw [memRd_cons, if_neg (by omega)]
      split_ifs with hx
      · exact below b (by omega)
      · rfl
    · rw [memRd_cons, if_pos hb.symm]
    · rw [memRd_cons, memRd_cons, h1, if_neg (Ne.symm hb), if_neg (Ne.symm hb)]
    · rw [memRd_cons, if_neg (by omega), if_pos (by omega), h4]
    · rfl
    · rw [memRd_cons, if_pos hb.symm]
    · rw [memRd_cons a, if_neg (Ne.symm hb)]
      split_ifs with hx
      · rw [memRd_cons, if_neg (by omega), if_pos (by omega)]
      · rfl
    · rw [memRd_cons, if_neg (by omega), if_neg (by omega), ih hm, if_pos hb]
    · rw [memRd_cons, memRd_cons, ih hm, if_neg hb]

/-- Reading a byte after writing one. -/
theorem memRd_memWr {m : Memory} (a : Nat) (v : Byte) (b : Nat) (h : Memory.wf m = true) :
    memRd (memWr m a v) b = if b = a then v else memRd m b := memRd_memWr_from a v b h

/-- Two memories in canonical form that read alike are equal. -/
theorem wfFrom_ext {m n : Memory} {lo : Nat} (hm : Memory.wfFrom lo m = true) (hn : Memory.wfFrom lo n = true)
    (h : ∀ a, memRd m a = memRd n a) : m = n := by
  induction m generalizing n lo with
  | nil =>
    cases n with
    | nil => rfl
    | cons q n =>
      obtain ⟨b, w⟩ := q
      simp only [Memory.wfFrom, Bool.and_eq_true, decide_eq_true_eq] at hn
      have := h b; simp [memRd] at this; exact absurd this.symm hn.1.2
  | cons p m ih =>
    obtain ⟨a, v⟩ := p
    simp only [Memory.wfFrom, Bool.and_eq_true, decide_eq_true_eq] at hm
    cases n with
    | nil => have := h a; simp [memRd] at this; exact absurd this hm.1.2
    | cons q n =>
      obtain ⟨b, w⟩ := q
      simp only [Memory.wfFrom, Bool.and_eq_true, decide_eq_true_eq] at hn
      have hab : a = b := by
        rcases Nat.lt_trichotomy a b with hlt | rfl | hgt
        · have := h a; simp [memRd, show ¬b = a by omega, hlt] at this; exact absurd this hm.1.2
        · rfl
        · have := h b; simp [memRd, show ¬a = b by omega, hgt] at this; exact absurd this.symm hn.1.2
      subst hab
      have hv : v = w := by simpa [memRd] using h a
      subst hv
      have : m = n := ih hm.2 hn.2 fun c => by
        rcases Nat.lt_trichotomy c a with hc | rfl | hc
        · rw [memRd_below hm.2 (by omega), memRd_below hn.2 (by omega)]
        · rw [memRd_below hm.2 (by omega), memRd_below hn.2 (by omega)]
        · have := h c; simpa [memRd, show ¬a = c by omega, show ¬c < a by omega] using this
      rw [this]

theorem wf_loop {f : Nat → Memory → Memory} (hf : ∀ i m, Memory.wf m = true → Memory.wf (f i m) = true) (n i : Nat) (m : Memory)
    (h : Memory.wf m = true) : Memory.wf (loop f i n m) = true := by
  induction n generalizing i m with
  | zero => exact h
  | succ n ih => exact ih _ _ (hf _ _ h)

theorem wfFrom_filter (p : Host.Cell → Bool) {m : Memory} {lo : Nat} (h : Memory.wfFrom lo m = true) :
    Memory.wfFrom lo (m.filter p) = true := by
  induction m generalizing lo with
  | nil => rfl
  | cons q m ih =>
    obtain ⟨b, v⟩ := q
    simp only [Memory.wfFrom, Bool.and_eq_true, decide_eq_true_eq] at h
    rw [List.filter_cons]
    split_ifs with hp
    · exact wfFrom_cons.2 ⟨h.1, ih h.2⟩
    · exact wfFrom_mono (ih h.2) (by omega)

theorem wf_filter (p : Host.Cell → Bool) {m : Memory} (h : Memory.wf m = true) : Memory.wf (m.filter p) = true := wfFrom_filter p h

theorem wf_foldl_memWr {α : Type} (f : α → Nat) (g : α → Byte) (l : List α) {m : Memory} (h : Memory.wf m = true) :
    Memory.wf (l.foldl (fun m c => memWr m (f c) (g c)) m) = true := by
  induction l generalizing m with
  | nil => exact h
  | cons c l ih => exact ih (wf_memWr _ _ h)

/-! ### The operations on memory -/

theorem memOk_claim {s : State} (k a : Nat) (h : MemOk s) : MemOk (s.claim k a) := by
  unfold State.claim MemOk
  split
  · by_cases hk : s.owns k a = true
    · simpa [hk] using h
    · simpa [hk] using wf_loop (fun i m => wf_memWr _ _) 16 0 s.mem h
  · exact h

theorem memOk_wrByte {s : State} (k a : Nat) (v : Byte) (h : MemOk s) : MemOk (s.wrByte k a v) :=
  wf_memWr _ _ (memOk_claim k a h)

theorem memOk_wrMem {s : State} (k a n v : Nat) (h : MemOk s) : MemOk (s.wrMem k a n v) := by
  induction n generalizing s a v with
  | zero => exact h
  | succ n ih => exact ih _ _ (memOk_wrByte k a _ h)

theorem memOk_setFe {s : State} (k a : Nat) (b : Bool) (h : MemOk s) : MemOk (s.setFe k a b) := by
  unfold State.setFe MemOk; dsimp only; split <;> split <;> exact h

@[simp] theorem heatUp_mem (s : State) (a : Nat) : (s.heatUp a).mem = s.mem := by unfold State.heatUp; split <;> rfl

@[simp] theorem l2Fill_mem (s : State) (k a : Nat) : (s.l2Fill k a).mem = s.mem := by
  unfold State.l2Fill; split
  · dsimp only; split
    · rfl
    · simp [State.modCl]
  · rfl

@[simp] theorem l2Touch_mem (s : State) (k a : Nat) : (s.l2Touch k a).mem = s.mem := by unfold State.l2Touch; split <;> simp

@[simp] theorem heatPage_mem (s : State) (a n : Nat) : (s.heatPage a n).mem = s.mem := by
  have go : ∀ (m i : Nat) (f : Nat → State → State) (u : State), (∀ i u, (f i u).mem = u.mem) → (loop f i m u).mem = u.mem := by
    intro m
    induction m with
    | zero => exact fun i f u h => rfl
    | succ m ih => exact fun i f u h => (ih (i + 1) f (f i u) h).trans (h i u)
  exact go _ _ _ _ fun _ _ => rfl

@[simp] theorem dropOthers_mem (s : State) (a : Nat) : (s.dropOthers a).mem = s.mem := by unfold State.dropOthers; split <;> rfl

@[simp] theorem dropCopies_mem (s : State) (d a : Nat) : (s.dropCopies d a).mem = s.mem := by unfold State.dropCopies; split <;> rfl

theorem memOk_l2Touch {s : State} (k a : Nat) (h : MemOk s) : MemOk (s.l2Touch k a) := by simpa [MemOk] using h

@[simp] theorem l2Write_mem (s : State) (k a : Nat) : (s.l2Write k a).mem = s.mem := by
  unfold State.l2Write; split
  · simp [State.modCl]
  · rfl

theorem memOk_wrMem_if {s : State} (o : Option Nat) (k w v : Nat) (h : MemOk s) :
    MemOk (match o with | some b => s.wrMem k b w v | none => s) := by
  cases o
  · exact h
  · exact memOk_wrMem _ _ _ _ h

theorem memOk_copyPage {s : State} (a b n : Nat) (h : MemOk s) : MemOk (s.copyPage a b n) := by
  have e : (s.copyPage a b n).mem = (s.mem.filter (fun c : Host.Cell => decide (a ≤ c.1 ∧ c.1 < a + n))).foldl
      (fun (m : Memory) (c : Host.Cell) => memWr m (c.1 - a + b) c.2) (s.mem.filter (fun c : Host.Cell => !decide (b ≤ c.1 ∧ c.1 < b + n))) := rfl
  unfold MemOk
  rw [e]
  exact wf_foldl_memWr (fun c : Host.Cell => c.1 - a + b) (fun c : Host.Cell => c.2) _ (wf_filter _ h)

theorem memOk_migGo {s : State} (d : Nat) (v : Word) (h : MemOk s) : MemOk (s.migGo d v) := by
  unfold State.migGo
  dsimp only
  split
  · exact h
  · split
    · exact h
    · split
      · exact h
      · have := memOk_copyPage (kgetD s.dies d {}).mig.src.toNat (kgetD s.dies d {}).mig.dst.toNat (kgetD s.dies d {}).mig.bytes h
        simpa [MemOk, State.modDie] using this

theorem memOk_devWrite {s : State} (a w v : Nat) (h : MemOk s) : MemOk (s.devWrite a w v) := by
  unfold State.devWrite
  dsimp only
  split
  · split
    · exact memOk_migGo _ _ h
    · exact h
  · exact h

/-- A write at its home keeps the canonical form. -/
theorem memOk_homeWrite {s : State} (k a w v : Nat) (h : MemOk s) : MemOk (s.homeWrite k a w v) := by
  have h1 : MemOk (((s.dropOthers a).l2Write k a).wrMem k a w v) := memOk_wrMem _ _ _ _ (by simpa [MemOk] using h)
  unfold State.homeWrite
  by_cases h5 : regionOf a = 5
  · rw [if_pos h5]; exact memOk_devWrite _ _ _ h
  · rw [if_neg h5]
    by_cases hr : regionOf a = 3
    · simp only [hr, if_true]; exact memOk_wrMem_if _ _ _ _ (memOk_wrMem_if _ _ _ _ h1)
    · simp only [hr, if_false]; exact memOk_wrMem_if _ _ _ _ h1

theorem memOk_mirrorFe {s : State} (k w : Nat) (e : Bool) (h : MemOk s) :
    MemOk (match s.mirror w with | some b => s.setFe k b e | none => s) := by
  split
  · exact memOk_setFe _ _ _ h
  · exact h

theorem memOk_feWrite {s : State} (k w : Nat) (b : Bool) (n : Nat) (h : MemOk s) : MemOk (s.feWrite k w b n) :=
  memOk_mirrorFe k w b (memOk_setFe k w b h)

/-- A full/empty access keeps the canonical form. -/
theorem memOk_feDo {s : State} (k a : Nat) (op : MemOp) (h : MemOk s) : MemOk (feDo s k a op).1 := by
  cases op with
  | ldf => exact memOk_l2Touch _ _ h
  | ldfe => exact memOk_feWrite _ _ _ _ (memOk_l2Touch _ _ h)
  | stf d => exact memOk_feWrite _ _ _ _ (memOk_homeWrite _ _ _ _ h)
  | ste d => exact memOk_feWrite _ _ _ _ (memOk_homeWrite _ _ _ _ h)
  | sete => exact memOk_feWrite _ _ _ _ (memOk_l2Touch _ _ h)
  | setf => exact memOk_feWrite _ _ _ _ (memOk_l2Touch _ _ h)
  | load w sg => exact h
  | read n l => exact h
  | store w d => exact h
  | bytes l => exact h
  | amo f w y => exact h
  | fagg w y => exact h
  | cas w e n => exact h
  | mfalloc g r b => exact h
  | mffree v => exact h
  | mfquota => exact h
  | mfstat v => exact h

theorem memOk_loop {f : Nat → State → State} (hf : ∀ i u, MemOk u → MemOk (f i u)) (n i : Nat) {s : State} (h : MemOk s) :
    MemOk (loop f i n s) := by
  induction n generalizing i s with
  | zero => exact h
  | succ n ih => exact ih _ (hf _ _ h)

theorem memOk_foldl {α : Type} {f : State → α → State} (hf : ∀ (a : α) (u : State), MemOk u → MemOk (f u a)) (l : List α) {u : State}
    (h : MemOk u) : MemOk (l.foldl f u) := by
  induction l generalizing u with
  | nil => exact h
  | cons a l ih => exact ih (hf a u h)

/-- A load, store, atomic or CAS at its home keeps the canonical form. -/
theorem memOk_rmwDo {s : State} (k a : Nat) (op : MemOp) (h : MemOk s) : MemOk (rmwDo s k a op).1 := by
  cases op with
  | load w sg => exact memOk_l2Touch _ _ h
  | read n l => exact memOk_foldl (fun _ _ hu => memOk_l2Touch _ _ hu) l h
  | store w d => exact memOk_homeWrite _ _ _ _ h
  | bytes l => exact memOk_loop (fun i u hu => memOk_homeWrite _ _ _ _ hu) _ _ h
  | amo f w y => exact memOk_homeWrite _ _ _ _ h
  | fagg w y => exact memOk_homeWrite _ _ _ _ h
  | cas w e n =>
    simp only [rmwDo]
    split
    · exact memOk_homeWrite _ _ _ _ h
    · exact memOk_l2Touch _ _ h
  | ldf => exact h
  | ldfe => exact h
  | stf d => exact h
  | ste d => exact h
  | sete => exact h
  | setf => exact h
  | mfalloc g m b => exact h
  | mffree v => exact h
  | mfquota => exact h
  | mfstat v => exact h

theorem memOk_undoAll (us : List Undo) {s : State} (h : MemOk s) : MemOk (undoAll us s) := by
  unfold undoAll
  induction us.reverse generalizing s with
  | nil => exact h
  | cons u l ih => exact ih (memOk_setFe _ _ _ (memOk_wrMem _ _ _ _ h))

/-! ### The store buffer -/

@[simp] theorem patchCopies_mem (s : State) (e k a w v : Nat) : (s.patchCopies e k a w v).mem = s.mem := by
  unfold State.patchCopies; split
  · rfl
  · dsimp only; split <;> rfl

@[simp] theorem logWord_mem (s : State) (e k g : Nat) : (logWord s e k g).mem = s.mem := by
  unfold logWord; dsimp only; split
  · split
    · rfl
    · split <;> rfl
  · split
    · rfl
    · split <;> rfl

/-- A store's effect at its home keeps the canonical form. -/
theorem memOk_storeEffect (x : SEntry) {s : State} (h : MemOk s) : MemOk (storeEffect x s) := by
  unfold storeEffect
  dsimp only
  split
  · exact h
  · split
    · exact h
    · apply memOk_homeWrite
      split
      · simpa [MemOk] using h
      · exact h

@[simp] theorem readyWhere_mem (p : Wait → Bool) (s : State) : (readyWhere p s).mem = s.mem := rfl

@[simp] theorem popHead_mem (s : State) : (popHead s).mem = s.mem := rfl

@[simp] theorem refillBuf_mem (s : State) : (refillBuf s).mem = s.mem := rfl

@[simp] theorem sendStore_mem (x : SEntry) (s : State) : (sendStore x s).mem = s.mem := by
  unfold sendStore; dsimp only; split
  · exact patchCopies_mem _ _ _ _ _ _
  · rfl

@[simp] theorem bufPut_mem (x : SEntry) (s : State) : (bufPut x s).mem = s.mem := rfl

/-- A store put into the buffer or the hold queue changes no byte. -/
@[simp] theorem pushStore_mem (g w : Nat) (d va : Word) (sc : Nat) (ca : Bool) (s : State) : (pushStore g w d va sc ca s).mem = s.mem := by
  unfold pushStore; split_ifs <;> rfl

/-- Buffering one byte store an index keeps the canonical form. -/
theorem memOk_pushBytes (gs : List (Nat × Bool)) (bs : List Nat) (va : Word) {s : State} (h : MemOk s) : MemOk (pushBytes gs bs va s) := by
  induction gs generalizing bs va s with
  | nil => exact h
  | cons g gs ih =>
    cases bs with
    | nil => exact h
    | cons b bs => exact ih _ _ (by simpa [MemOk] using h)

end Sys2Proof.Laws
end

