-- ==== Sys2Proof/Laws/State.lean ====
section
/-! SUPPORT. What each update of the state leaves of each field, so that no proof unfolds a record update: one lemma per field
per update, and the focused thread and etlet after an update. -/

namespace Sys2Proof.Laws

open Machine

variable (s : State)

/-! ### The thread in focus -/

@[simp] theorem modT_mem (f : Thread → Thread) : (s.modT f).mem = s.mem := rfl
@[simp] theorem modT_fe (f : Thread → Thread) : (s.modT f).fe = s.fe := rfl
@[simp] theorem modT_feKey (f : Thread → Thread) : (s.modT f).feKey = s.feKey := rfl
@[simp] theorem modT_feq (f : Thread → Thread) : (s.modT f).feq = s.feq := rfl
@[simp] theorem modT_feEng (f : Thread → Thread) : (s.modT f).feEng = s.feEng := rfl
@[simp] theorem modT_owner (f : Thread → Thread) : (s.modT f).owner = s.owner := rfl
@[simp] theorem modT_slot (f : Thread → Thread) : (s.modT f).slot = s.slot := rfl
@[simp] theorem modT_etl (f : Thread → Thread) : (s.modT f).etl = s.etl := rfl
@[simp] theorem modT_eid (f : Thread → Thread) : (s.modT f).eid = s.eid := rfl
@[simp] theorem modT_etlets (f : Thread → Thread) : (s.modT f).etlets = s.etlets := rfl
@[simp] theorem modT_clusters (f : Thread → Thread) : (s.modT f).clusters = s.clusters := rfl
@[simp] theorem modT_dies (f : Thread → Thread) : (s.modT f).dies = s.dies := rfl
@[simp] theorem modT_pkgs (f : Thread → Thread) : (s.modT f).pkgs = s.pkgs := rfl
@[simp] theorem modT_domains (f : Thread → Thread) : (s.modT f).domains = s.domains := rfl
@[simp] theorem modT_launches (f : Thread → Thread) : (s.modT f).launches = s.launches := rfl
@[simp] theorem modT_objs (f : Thread → Thread) : (s.modT f).objs = s.objs := rfl
@[simp] theorem modT_stations (f : Thread → Thread) : (s.modT f).stations = s.stations := rfl
@[simp] theorem modT_smsgs (f : Thread → Thread) : (s.modT f).smsgs = s.smsgs := rfl
@[simp] theorem modT_images (f : Thread → Thread) : (s.modT f).images = s.images := rfl
@[simp] theorem modT_spent (f : Thread → Thread) : (s.modT f).spent = s.spent := rfl
@[simp] theorem modT_links (f : Thread → Thread) : (s.modT f).links = s.links := rfl
@[simp] theorem modT_now (f : Thread → Thread) : (s.modT f).now = s.now := rfl
@[simp] theorem modT_agenda (f : Thread → Thread) : (s.modT f).agenda = s.agenda := rfl
@[simp] theorem modT_phase (f : Thread → Thread) : (s.modT f).phase = s.phase := rfl
@[simp] theorem modT_poked (f : Thread → Thread) : (s.modT f).poked = s.poked := rfl
@[simp] theorem modT_passed (f : Thread → Thread) : (s.modT f).passed = s.passed := rfl
@[simp] theorem modT_nextTid (f : Thread → Thread) : (s.modT f).nextTid = s.nextTid := rfl
@[simp] theorem modT_free (f : Thread → Thread) : (s.modT f).free = s.free := rfl
@[simp] theorem modT_trap (f : Thread → Thread) : (s.modT f).trap = s.trap := rfl
@[simp] theorem modT_latch (f : Thread → Thread) : (s.modT f).latch = s.latch := rfl
@[simp] theorem modT_ph (f : Thread → Thread) : (s.modT f).ph = s.ph := rfl
@[simp] theorem modT_adv (f : Thread → Thread) : (s.modT f).adv = s.adv := rfl
@[simp] theorem modT_late (f : Thread → Thread) : (s.modT f).late = s.late := rfl
@[simp] theorem modT_lateSt (f : Thread → Thread) : (s.modT f).lateSt = s.lateSt := rfl
@[simp] theorem modT_lateGo (f : Thread → Thread) : (s.modT f).lateGo = s.lateGo := rfl
@[simp] theorem modT_lateBench (f : Thread → Thread) : (s.modT f).lateBench = s.lateBench := rfl
@[simp] theorem modT_bundle (f : Thread → Thread) : (s.modT f).bundle = s.bundle := rfl
@[simp] theorem modT_bpc (f : Thread → Thread) : (s.modT f).bpc = s.bpc := rfl

/-! ### The etlet in focus -/

@[simp] theorem modE_mem (f : Etlet → Etlet) : (s.modE f).mem = s.mem := rfl
@[simp] theorem modE_fe (f : Etlet → Etlet) : (s.modE f).fe = s.fe := rfl
@[simp] theorem modE_feKey (f : Etlet → Etlet) : (s.modE f).feKey = s.feKey := rfl
@[simp] theorem modE_feq (f : Etlet → Etlet) : (s.modE f).feq = s.feq := rfl
@[simp] theorem modE_feEng (f : Etlet → Etlet) : (s.modE f).feEng = s.feEng := rfl
@[simp] theorem modE_owner (f : Etlet → Etlet) : (s.modE f).owner = s.owner := rfl
@[simp] theorem modE_thr (f : Etlet → Etlet) : (s.modE f).thr = s.thr := rfl
@[simp] theorem modE_slot (f : Etlet → Etlet) : (s.modE f).slot = s.slot := rfl
@[simp] theorem modE_eid (f : Etlet → Etlet) : (s.modE f).eid = s.eid := rfl
@[simp] theorem modE_etlets (f : Etlet → Etlet) : (s.modE f).etlets = s.etlets := rfl
@[simp] theorem modE_clusters (f : Etlet → Etlet) : (s.modE f).clusters = s.clusters := rfl
@[simp] theorem modE_dies (f : Etlet → Etlet) : (s.modE f).dies = s.dies := rfl
@[simp] theorem modE_pkgs (f : Etlet → Etlet) : (s.modE f).pkgs = s.pkgs := rfl
@[simp] theorem modE_domains (f : Etlet → Etlet) : (s.modE f).domains = s.domains := rfl
@[simp] theorem modE_launches (f : Etlet → Etlet) : (s.modE f).launches = s.launches := rfl
@[simp] theorem modE_objs (f : Etlet → Etlet) : (s.modE f).objs = s.objs := rfl
@[simp] theorem modE_stations (f : Etlet → Etlet) : (s.modE f).stations = s.stations := rfl
@[simp] theorem modE_smsgs (f : Etlet → Etlet) : (s.modE f).smsgs = s.smsgs := rfl
@[simp] theorem modE_images (f : Etlet → Etlet) : (s.modE f).images = s.images := rfl
@[simp] theorem modE_spent (f : Etlet → Etlet) : (s.modE f).spent = s.spent := rfl
@[simp] theorem modE_links (f : Etlet → Etlet) : (s.modE f).links = s.links := rfl
@[simp] theorem modE_now (f : Etlet → Etlet) : (s.modE f).now = s.now := rfl
@[simp] theorem modE_agenda (f : Etlet → Etlet) : (s.modE f).agenda = s.agenda := rfl
@[simp] theorem modE_phase (f : Etlet → Etlet) : (s.modE f).phase = s.phase := rfl
@[simp] theorem modE_poked (f : Etlet → Etlet) : (s.modE f).poked = s.poked := rfl
@[simp] theorem modE_passed (f : Etlet → Etlet) : (s.modE f).passed = s.passed := rfl
@[simp] theorem modE_nextTid (f : Etlet → Etlet) : (s.modE f).nextTid = s.nextTid := rfl
@[simp] theorem modE_free (f : Etlet → Etlet) : (s.modE f).free = s.free := rfl
@[simp] theorem modE_trap (f : Etlet → Etlet) : (s.modE f).trap = s.trap := rfl
@[simp] theorem modE_latch (f : Etlet → Etlet) : (s.modE f).latch = s.latch := rfl
@[simp] theorem modE_ph (f : Etlet → Etlet) : (s.modE f).ph = s.ph := rfl
@[simp] theorem modE_adv (f : Etlet → Etlet) : (s.modE f).adv = s.adv := rfl
@[simp] theorem modE_late (f : Etlet → Etlet) : (s.modE f).late = s.late := rfl
@[simp] theorem modE_lateSt (f : Etlet → Etlet) : (s.modE f).lateSt = s.lateSt := rfl
@[simp] theorem modE_lateGo (f : Etlet → Etlet) : (s.modE f).lateGo = s.lateGo := rfl
@[simp] theorem modE_lateBench (f : Etlet → Etlet) : (s.modE f).lateBench = s.lateBench := rfl
@[simp] theorem modE_bundle (f : Etlet → Etlet) : (s.modE f).bundle = s.bundle := rfl
@[simp] theorem modE_bpc (f : Etlet → Etlet) : (s.modE f).bpc = s.bpc := rfl

/-! ### Its kernel -/

@[simp] theorem modK_mem (f : Kernel → Kernel) : (s.modK f).mem = s.mem := rfl
@[simp] theorem modK_fe (f : Kernel → Kernel) : (s.modK f).fe = s.fe := rfl
@[simp] theorem modK_feKey (f : Kernel → Kernel) : (s.modK f).feKey = s.feKey := rfl
@[simp] theorem modK_feq (f : Kernel → Kernel) : (s.modK f).feq = s.feq := rfl
@[simp] theorem modK_feEng (f : Kernel → Kernel) : (s.modK f).feEng = s.feEng := rfl
@[simp] theorem modK_owner (f : Kernel → Kernel) : (s.modK f).owner = s.owner := rfl
@[simp] theorem modK_thr (f : Kernel → Kernel) : (s.modK f).thr = s.thr := rfl
@[simp] theorem modK_slot (f : Kernel → Kernel) : (s.modK f).slot = s.slot := rfl
@[simp] theorem modK_eid (f : Kernel → Kernel) : (s.modK f).eid = s.eid := rfl
@[simp] theorem modK_etlets (f : Kernel → Kernel) : (s.modK f).etlets = s.etlets := rfl
@[simp] theorem modK_clusters (f : Kernel → Kernel) : (s.modK f).clusters = s.clusters := rfl
@[simp] theorem modK_dies (f : Kernel → Kernel) : (s.modK f).dies = s.dies := rfl
@[simp] theorem modK_pkgs (f : Kernel → Kernel) : (s.modK f).pkgs = s.pkgs := rfl
@[simp] theorem modK_domains (f : Kernel → Kernel) : (s.modK f).domains = s.domains := rfl
@[simp] theorem modK_launches (f : Kernel → Kernel) : (s.modK f).launches = s.launches := rfl
@[simp] theorem modK_objs (f : Kernel → Kernel) : (s.modK f).objs = s.objs := rfl
@[simp] theorem modK_stations (f : Kernel → Kernel) : (s.modK f).stations = s.stations := rfl
@[simp] theorem modK_smsgs (f : Kernel → Kernel) : (s.modK f).smsgs = s.smsgs := rfl
@[simp] theorem modK_images (f : Kernel → Kernel) : (s.modK f).images = s.images := rfl
@[simp] theorem modK_spent (f : Kernel → Kernel) : (s.modK f).spent = s.spent := rfl
@[simp] theorem modK_links (f : Kernel → Kernel) : (s.modK f).links = s.links := rfl
@[simp] theorem modK_now (f : Kernel → Kernel) : (s.modK f).now = s.now := rfl
@[simp] theorem modK_agenda (f : Kernel → Kernel) : (s.modK f).agenda = s.agenda := rfl
@[simp] theorem modK_phase (f : Kernel → Kernel) : (s.modK f).phase = s.phase := rfl
@[simp] theorem modK_poked (f : Kernel → Kernel) : (s.modK f).poked = s.poked := rfl
@[simp] theorem modK_passed (f : Kernel → Kernel) : (s.modK f).passed = s.passed := rfl
@[simp] theorem modK_nextTid (f : Kernel → Kernel) : (s.modK f).nextTid = s.nextTid := rfl
@[simp] theorem modK_free (f : Kernel → Kernel) : (s.modK f).free = s.free := rfl
@[simp] theorem modK_trap (f : Kernel → Kernel) : (s.modK f).trap = s.trap := rfl
@[simp] theorem modK_latch (f : Kernel → Kernel) : (s.modK f).latch = s.latch := rfl
@[simp] theorem modK_ph (f : Kernel → Kernel) : (s.modK f).ph = s.ph := rfl
@[simp] theorem modK_adv (f : Kernel → Kernel) : (s.modK f).adv = s.adv := rfl
@[simp] theorem modK_late (f : Kernel → Kernel) : (s.modK f).late = s.late := rfl
@[simp] theorem modK_lateSt (f : Kernel → Kernel) : (s.modK f).lateSt = s.lateSt := rfl
@[simp] theorem modK_lateGo (f : Kernel → Kernel) : (s.modK f).lateGo = s.lateGo := rfl
@[simp] theorem modK_lateBench (f : Kernel → Kernel) : (s.modK f).lateBench = s.lateBench := rfl
@[simp] theorem modK_bundle (f : Kernel → Kernel) : (s.modK f).bundle = s.bundle := rfl
@[simp] theorem modK_bpc (f : Kernel → Kernel) : (s.modK f).bpc = s.bpc := rfl

/-! ### A die -/

@[simp] theorem modDie_mem (d : Nat) (f : Die → Die) : (s.modDie d f).mem = s.mem := rfl
@[simp] theorem modDie_fe (d : Nat) (f : Die → Die) : (s.modDie d f).fe = s.fe := rfl
@[simp] theorem modDie_feKey (d : Nat) (f : Die → Die) : (s.modDie d f).feKey = s.feKey := rfl
@[simp] theorem modDie_feq (d : Nat) (f : Die → Die) : (s.modDie d f).feq = s.feq := rfl
@[simp] theorem modDie_feEng (d : Nat) (f : Die → Die) : (s.modDie d f).feEng = s.feEng := rfl
@[simp] theorem modDie_owner (d : Nat) (f : Die → Die) : (s.modDie d f).owner = s.owner := rfl
@[simp] theorem modDie_thr (d : Nat) (f : Die → Die) : (s.modDie d f).thr = s.thr := rfl
@[simp] theorem modDie_slot (d : Nat) (f : Die → Die) : (s.modDie d f).slot = s.slot := rfl
@[simp] theorem modDie_etl (d : Nat) (f : Die → Die) : (s.modDie d f).etl = s.etl := rfl
@[simp] theorem modDie_eid (d : Nat) (f : Die → Die) : (s.modDie d f).eid = s.eid := rfl
@[simp] theorem modDie_etlets (d : Nat) (f : Die → Die) : (s.modDie d f).etlets = s.etlets := rfl
@[simp] theorem modDie_clusters (d : Nat) (f : Die → Die) : (s.modDie d f).clusters = s.clusters := rfl
@[simp] theorem modDie_pkgs (d : Nat) (f : Die → Die) : (s.modDie d f).pkgs = s.pkgs := rfl
@[simp] theorem modDie_domains (d : Nat) (f : Die → Die) : (s.modDie d f).domains = s.domains := rfl
@[simp] theorem modDie_launches (d : Nat) (f : Die → Die) : (s.modDie d f).launches = s.launches := rfl
@[simp] theorem modDie_objs (d : Nat) (f : Die → Die) : (s.modDie d f).objs = s.objs := rfl
@[simp] theorem modDie_stations (d : Nat) (f : Die → Die) : (s.modDie d f).stations = s.stations := rfl
@[simp] theorem modDie_smsgs (d : Nat) (f : Die → Die) : (s.modDie d f).smsgs = s.smsgs := rfl
@[simp] theorem modDie_images (d : Nat) (f : Die → Die) : (s.modDie d f).images = s.images := rfl
@[simp] theorem modDie_spent (d : Nat) (f : Die → Die) : (s.modDie d f).spent = s.spent := rfl
@[simp] theorem modDie_links (d : Nat) (f : Die → Die) : (s.modDie d f).links = s.links := rfl
@[simp] theorem modDie_now (d : Nat) (f : Die → Die) : (s.modDie d f).now = s.now := rfl
@[simp] theorem modDie_agenda (d : Nat) (f : Die → Die) : (s.modDie d f).agenda = s.agenda := rfl
@[simp] theorem modDie_phase (d : Nat) (f : Die → Die) : (s.modDie d f).phase = s.phase := rfl
@[simp] theorem modDie_poked (d : Nat) (f : Die → Die) : (s.modDie d f).poked = s.poked := rfl
@[simp] theorem modDie_passed (d : Nat) (f : Die → Die) : (s.modDie d f).passed = s.passed := rfl
@[simp] theorem modDie_nextTid (d : Nat) (f : Die → Die) : (s.modDie d f).nextTid = s.nextTid := rfl
@[simp] theorem modDie_free (d : Nat) (f : Die → Die) : (s.modDie d f).free = s.free := rfl
@[simp] theorem modDie_trap (d : Nat) (f : Die → Die) : (s.modDie d f).trap = s.trap := rfl
@[simp] theorem modDie_latch (d : Nat) (f : Die → Die) : (s.modDie d f).latch = s.latch := rfl
@[simp] theorem modDie_ph (d : Nat) (f : Die → Die) : (s.modDie d f).ph = s.ph := rfl
@[simp] theorem modDie_adv (d : Nat) (f : Die → Die) : (s.modDie d f).adv = s.adv := rfl
@[simp] theorem modDie_late (d : Nat) (f : Die → Die) : (s.modDie d f).late = s.late := rfl
@[simp] theorem modDie_lateSt (d : Nat) (f : Die → Die) : (s.modDie d f).lateSt = s.lateSt := rfl
@[simp] theorem modDie_lateGo (d : Nat) (f : Die → Die) : (s.modDie d f).lateGo = s.lateGo := rfl
@[simp] theorem modDie_lateBench (d : Nat) (f : Die → Die) : (s.modDie d f).lateBench = s.lateBench := rfl
@[simp] theorem modDie_bundle (d : Nat) (f : Die → Die) : (s.modDie d f).bundle = s.bundle := rfl
@[simp] theorem modDie_bpc (d : Nat) (f : Die → Die) : (s.modDie d f).bpc = s.bpc := rfl

/-! ### A cluster -/

@[simp] theorem modCl_mem (c : Nat) (f : Cluster → Cluster) : (s.modCl c f).mem = s.mem := rfl
@[simp] theorem modCl_fe (c : Nat) (f : Cluster → Cluster) : (s.modCl c f).fe = s.fe := rfl
@[simp] theorem modCl_feKey (c : Nat) (f : Cluster → Cluster) : (s.modCl c f).feKey = s.feKey := rfl
@[simp] theorem modCl_feq (c : Nat) (f : Cluster → Cluster) : (s.modCl c f).feq = s.feq := rfl
@[simp] theorem modCl_feEng (c : Nat) (f : Cluster → Cluster) : (s.modCl c f).feEng = s.feEng := rfl
@[simp] theorem modCl_owner (c : Nat) (f : Cluster → Cluster) : (s.modCl c f).owner = s.owner := rfl
@[simp] theorem modCl_thr (c : Nat) (f : Cluster → Cluster) : (s.modCl c f).thr = s.thr := rfl
@[simp] theorem modCl_slot (c : Nat) (f : Cluster → Cluster) : (s.modCl c f).slot = s.slot := rfl
@[simp] theorem modCl_etl (c : Nat) (f : Cluster → Cluster) : (s.modCl c f).etl = s.etl := rfl
@[simp] theorem modCl_eid (c : Nat) (f : Cluster → Cluster) : (s.modCl c f).eid = s.eid := rfl
@[simp] theorem modCl_etlets (c : Nat) (f : Cluster → Cluster) : (s.modCl c f).etlets = s.etlets := rfl
@[simp] theorem modCl_dies (c : Nat) (f : Cluster → Cluster) : (s.modCl c f).dies = s.dies := rfl
@[simp] theorem modCl_pkgs (c : Nat) (f : Cluster → Cluster) : (s.modCl c f).pkgs = s.pkgs := rfl
@[simp] theorem modCl_domains (c : Nat) (f : Cluster → Cluster) : (s.modCl c f).domains = s.domains := rfl
@[simp] theorem modCl_launches (c : Nat) (f : Cluster → Cluster) : (s.modCl c f).launches = s.launches := rfl
@[simp] theorem modCl_objs (c : Nat) (f : Cluster → Cluster) : (s.modCl c f).objs = s.objs := rfl
@[simp] theorem modCl_stations (c : Nat) (f : Cluster → Cluster) : (s.modCl c f).stations = s.stations := rfl
@[simp] theorem modCl_smsgs (c : Nat) (f : Cluster → Cluster) : (s.modCl c f).smsgs = s.smsgs := rfl
@[simp] theorem modCl_images (c : Nat) (f : Cluster → Cluster) : (s.modCl c f).images = s.images := rfl
@[simp] theorem modCl_spent (c : Nat) (f : Cluster → Cluster) : (s.modCl c f).spent = s.spent := rfl
@[simp] theorem modCl_links (c : Nat) (f : Cluster → Cluster) : (s.modCl c f).links = s.links := rfl
@[simp] theorem modCl_now (c : Nat) (f : Cluster → Cluster) : (s.modCl c f).now = s.now := rfl
@[simp] theorem modCl_agenda (c : Nat) (f : Cluster → Cluster) : (s.modCl c f).agenda = s.agenda := rfl
@[simp] theorem modCl_phase (c : Nat) (f : Cluster → Cluster) : (s.modCl c f).phase = s.phase := rfl
@[simp] theorem modCl_poked (c : Nat) (f : Cluster → Cluster) : (s.modCl c f).poked = s.poked := rfl
@[simp] theorem modCl_passed (c : Nat) (f : Cluster → Cluster) : (s.modCl c f).passed = s.passed := rfl
@[simp] theorem modCl_nextTid (c : Nat) (f : Cluster → Cluster) : (s.modCl c f).nextTid = s.nextTid := rfl
@[simp] theorem modCl_free (c : Nat) (f : Cluster → Cluster) : (s.modCl c f).free = s.free := rfl
@[simp] theorem modCl_trap (c : Nat) (f : Cluster → Cluster) : (s.modCl c f).trap = s.trap := rfl
@[simp] theorem modCl_latch (c : Nat) (f : Cluster → Cluster) : (s.modCl c f).latch = s.latch := rfl
@[simp] theorem modCl_ph (c : Nat) (f : Cluster → Cluster) : (s.modCl c f).ph = s.ph := rfl
@[simp] theorem modCl_adv (c : Nat) (f : Cluster → Cluster) : (s.modCl c f).adv = s.adv := rfl
@[simp] theorem modCl_late (c : Nat) (f : Cluster → Cluster) : (s.modCl c f).late = s.late := rfl
@[simp] theorem modCl_lateSt (c : Nat) (f : Cluster → Cluster) : (s.modCl c f).lateSt = s.lateSt := rfl
@[simp] theorem modCl_lateGo (c : Nat) (f : Cluster → Cluster) : (s.modCl c f).lateGo = s.lateGo := rfl
@[simp] theorem modCl_lateBench (c : Nat) (f : Cluster → Cluster) : (s.modCl c f).lateBench = s.lateBench := rfl
@[simp] theorem modCl_bundle (c : Nat) (f : Cluster → Cluster) : (s.modCl c f).bundle = s.bundle := rfl
@[simp] theorem modCl_bpc (c : Nat) (f : Cluster → Cluster) : (s.modCl c f).bpc = s.bpc := rfl

/-! ### The start of an instruction -/

@[simp] theorem start_mem : (start s).mem = s.mem := rfl
@[simp] theorem start_fe : (start s).fe = s.fe := rfl
@[simp] theorem start_feKey : (start s).feKey = s.feKey := rfl
@[simp] theorem start_feq : (start s).feq = s.feq := rfl
@[simp] theorem start_feEng : (start s).feEng = s.feEng := rfl
@[simp] theorem start_owner : (start s).owner = s.owner := rfl
@[simp] theorem start_thr : (start s).thr = s.thr := rfl
@[simp] theorem start_slot : (start s).slot = s.slot := rfl
@[simp] theorem start_etl : (start s).etl = s.etl := rfl
@[simp] theorem start_eid : (start s).eid = s.eid := rfl
@[simp] theorem start_etlets : (start s).etlets = s.etlets := rfl
@[simp] theorem start_clusters : (start s).clusters = s.clusters := rfl
@[simp] theorem start_dies : (start s).dies = s.dies := rfl
@[simp] theorem start_pkgs : (start s).pkgs = s.pkgs := rfl
@[simp] theorem start_domains : (start s).domains = s.domains := rfl
@[simp] theorem start_launches : (start s).launches = s.launches := rfl
@[simp] theorem start_objs : (start s).objs = s.objs := rfl
@[simp] theorem start_stations : (start s).stations = s.stations := rfl
@[simp] theorem start_smsgs : (start s).smsgs = s.smsgs := rfl
@[simp] theorem start_images : (start s).images = s.images := rfl
@[simp] theorem start_spent : (start s).spent = s.spent := rfl
@[simp] theorem start_links : (start s).links = s.links := rfl
@[simp] theorem start_now : (start s).now = s.now := rfl
@[simp] theorem start_agenda : (start s).agenda = s.agenda := rfl
@[simp] theorem start_phase : (start s).phase = s.phase := rfl
@[simp] theorem start_poked : (start s).poked = s.poked := rfl
@[simp] theorem start_passed : (start s).passed = s.passed := rfl
@[simp] theorem start_nextTid : (start s).nextTid = s.nextTid := rfl
@[simp] theorem start_free : (start s).free = s.free := rfl
@[simp] theorem start_latch : (start s).latch = s.latch := rfl
@[simp] theorem start_ph : (start s).ph = s.ph := rfl
@[simp] theorem start_adv : (start s).adv = s.adv := rfl
@[simp] theorem start_late : (start s).late = s.late := rfl
@[simp] theorem start_lateSt : (start s).lateSt = s.lateSt := rfl
@[simp] theorem start_lateGo : (start s).lateGo = s.lateGo := rfl
@[simp] theorem start_lateBench : (start s).lateBench = s.lateBench := rfl
@[simp] theorem start_bundle : (start s).bundle = s.bundle := rfl
@[simp] theorem start_bpc : (start s).bpc = s.bpc := rfl

/-! ### The end of a bundle -/

@[simp] theorem clean_mem : (s.clean).mem = s.mem := rfl
@[simp] theorem clean_fe : (s.clean).fe = s.fe := rfl
@[simp] theorem clean_feKey : (s.clean).feKey = s.feKey := rfl
@[simp] theorem clean_feq : (s.clean).feq = s.feq := rfl
@[simp] theorem clean_feEng : (s.clean).feEng = s.feEng := rfl
@[simp] theorem clean_owner : (s.clean).owner = s.owner := rfl
@[simp] theorem clean_thr : (s.clean).thr = s.thr := rfl
@[simp] theorem clean_slot : (s.clean).slot = s.slot := rfl
@[simp] theorem clean_etl : (s.clean).etl = s.etl := rfl
@[simp] theorem clean_eid : (s.clean).eid = s.eid := rfl
@[simp] theorem clean_etlets : (s.clean).etlets = s.etlets := rfl
@[simp] theorem clean_clusters : (s.clean).clusters = s.clusters := rfl
@[simp] theorem clean_dies : (s.clean).dies = s.dies := rfl
@[simp] theorem clean_pkgs : (s.clean).pkgs = s.pkgs := rfl
@[simp] theorem clean_domains : (s.clean).domains = s.domains := rfl
@[simp] theorem clean_launches : (s.clean).launches = s.launches := rfl
@[simp] theorem clean_objs : (s.clean).objs = s.objs := rfl
@[simp] theorem clean_stations : (s.clean).stations = s.stations := rfl
@[simp] theorem clean_smsgs : (s.clean).smsgs = s.smsgs := rfl
@[simp] theorem clean_images : (s.clean).images = s.images := rfl
@[simp] theorem clean_spent : (s.clean).spent = s.spent := rfl
@[simp] theorem clean_links : (s.clean).links = s.links := rfl
@[simp] theorem clean_now : (s.clean).now = s.now := rfl
@[simp] theorem clean_agenda : (s.clean).agenda = s.agenda := rfl
@[simp] theorem clean_phase : (s.clean).phase = s.phase := rfl
@[simp] theorem clean_poked : (s.clean).poked = s.poked := rfl
@[simp] theorem clean_passed : (s.clean).passed = s.passed := rfl
@[simp] theorem clean_nextTid : (s.clean).nextTid = s.nextTid := rfl
@[simp] theorem clean_free : (s.clean).free = s.free := rfl
@[simp] theorem clean_trap : (s.clean).trap = s.trap := rfl
@[simp] theorem clean_bundle : (s.clean).bundle = s.bundle := rfl
@[simp] theorem clean_bpc : (s.clean).bpc = s.bpc := rfl

/-! ### A wait -/

@[simp] theorem waitFor_mem (w : Wait) (d : Nat) : (waitFor w d s).mem = s.mem := rfl
@[simp] theorem waitFor_fe (w : Wait) (d : Nat) : (waitFor w d s).fe = s.fe := rfl
@[simp] theorem waitFor_feKey (w : Wait) (d : Nat) : (waitFor w d s).feKey = s.feKey := rfl
@[simp] theorem waitFor_feq (w : Wait) (d : Nat) : (waitFor w d s).feq = s.feq := rfl
@[simp] theorem waitFor_feEng (w : Wait) (d : Nat) : (waitFor w d s).feEng = s.feEng := rfl
@[simp] theorem waitFor_owner (w : Wait) (d : Nat) : (waitFor w d s).owner = s.owner := rfl
@[simp] theorem waitFor_slot (w : Wait) (d : Nat) : (waitFor w d s).slot = s.slot := rfl
@[simp] theorem waitFor_etl (w : Wait) (d : Nat) : (waitFor w d s).etl = s.etl := rfl
@[simp] theorem waitFor_eid (w : Wait) (d : Nat) : (waitFor w d s).eid = s.eid := rfl
@[simp] theorem waitFor_etlets (w : Wait) (d : Nat) : (waitFor w d s).etlets = s.etlets := rfl
@[simp] theorem waitFor_clusters (w : Wait) (d : Nat) : (waitFor w d s).clusters = s.clusters := rfl
@[simp] theorem waitFor_dies (w : Wait) (d : Nat) : (waitFor w d s).dies = s.dies := rfl
@[simp] theorem waitFor_pkgs (w : Wait) (d : Nat) : (waitFor w d s).pkgs = s.pkgs := rfl
@[simp] theorem waitFor_domains (w : Wait) (d : Nat) : (waitFor w d s).domains = s.domains := rfl
@[simp] theorem waitFor_launches (w : Wait) (d : Nat) : (waitFor w d s).launches = s.launches := rfl
@[simp] theorem waitFor_objs (w : Wait) (d : Nat) : (waitFor w d s).objs = s.objs := rfl
@[simp] theorem waitFor_stations (w : Wait) (d : Nat) : (waitFor w d s).stations = s.stations := rfl
@[simp] theorem waitFor_smsgs (w : Wait) (d : Nat) : (waitFor w d s).smsgs = s.smsgs := rfl
@[simp] theorem waitFor_images (w : Wait) (d : Nat) : (waitFor w d s).images = s.images := rfl
@[simp] theorem waitFor_spent (w : Wait) (d : Nat) : (waitFor w d s).spent = s.spent := rfl
@[simp] theorem waitFor_links (w : Wait) (d : Nat) : (waitFor w d s).links = s.links := rfl
@[simp] theorem waitFor_now (w : Wait) (d : Nat) : (waitFor w d s).now = s.now := rfl
@[simp] theorem waitFor_agenda (w : Wait) (d : Nat) : (waitFor w d s).agenda = s.agenda := rfl
@[simp] theorem waitFor_phase (w : Wait) (d : Nat) : (waitFor w d s).phase = s.phase := rfl
@[simp] theorem waitFor_poked (w : Wait) (d : Nat) : (waitFor w d s).poked = s.poked := rfl
@[simp] theorem waitFor_passed (w : Wait) (d : Nat) : (waitFor w d s).passed = s.passed := rfl
@[simp] theorem waitFor_nextTid (w : Wait) (d : Nat) : (waitFor w d s).nextTid = s.nextTid := rfl
@[simp] theorem waitFor_free (w : Wait) (d : Nat) : (waitFor w d s).free = s.free := rfl
@[simp] theorem waitFor_trap (w : Wait) (d : Nat) : (waitFor w d s).trap = s.trap := rfl
@[simp] theorem waitFor_latch (w : Wait) (d : Nat) : (waitFor w d s).latch = s.latch := rfl
@[simp] theorem waitFor_ph (w : Wait) (d : Nat) : (waitFor w d s).ph = s.ph := rfl
@[simp] theorem waitFor_adv (w : Wait) (d : Nat) : (waitFor w d s).adv = s.adv := rfl
@[simp] theorem waitFor_late (w : Wait) (d : Nat) : (waitFor w d s).late = s.late := rfl
@[simp] theorem waitFor_lateSt (w : Wait) (d : Nat) : (waitFor w d s).lateSt = s.lateSt := rfl
@[simp] theorem waitFor_lateGo (w : Wait) (d : Nat) : (waitFor w d s).lateGo = s.lateGo := rfl
@[simp] theorem waitFor_lateBench (w : Wait) (d : Nat) : (waitFor w d s).lateBench = s.lateBench := rfl
@[simp] theorem waitFor_bundle (w : Wait) (d : Nat) : (waitFor w d s).bundle = s.bundle := rfl
@[simp] theorem waitFor_bpc (w : Wait) (d : Nat) : (waitFor w d s).bpc = s.bpc := rfl

/-! ### A jump -/

@[simp] theorem jumpTo_mem (v : Word) : (jumpTo v s).mem = s.mem := rfl
@[simp] theorem jumpTo_fe (v : Word) : (jumpTo v s).fe = s.fe := rfl
@[simp] theorem jumpTo_feKey (v : Word) : (jumpTo v s).feKey = s.feKey := rfl
@[simp] theorem jumpTo_feq (v : Word) : (jumpTo v s).feq = s.feq := rfl
@[simp] theorem jumpTo_feEng (v : Word) : (jumpTo v s).feEng = s.feEng := rfl
@[simp] theorem jumpTo_owner (v : Word) : (jumpTo v s).owner = s.owner := rfl
@[simp] theorem jumpTo_slot (v : Word) : (jumpTo v s).slot = s.slot := rfl
@[simp] theorem jumpTo_etl (v : Word) : (jumpTo v s).etl = s.etl := rfl
@[simp] theorem jumpTo_eid (v : Word) : (jumpTo v s).eid = s.eid := rfl
@[simp] theorem jumpTo_etlets (v : Word) : (jumpTo v s).etlets = s.etlets := rfl
@[simp] theorem jumpTo_clusters (v : Word) : (jumpTo v s).clusters = s.clusters := rfl
@[simp] theorem jumpTo_dies (v : Word) : (jumpTo v s).dies = s.dies := rfl
@[simp] theorem jumpTo_pkgs (v : Word) : (jumpTo v s).pkgs = s.pkgs := rfl
@[simp] theorem jumpTo_domains (v : Word) : (jumpTo v s).domains = s.domains := rfl
@[simp] theorem jumpTo_launches (v : Word) : (jumpTo v s).launches = s.launches := rfl
@[simp] theorem jumpTo_objs (v : Word) : (jumpTo v s).objs = s.objs := rfl
@[simp] theorem jumpTo_stations (v : Word) : (jumpTo v s).stations = s.stations := rfl
@[simp] theorem jumpTo_smsgs (v : Word) : (jumpTo v s).smsgs = s.smsgs := rfl
@[simp] theorem jumpTo_images (v : Word) : (jumpTo v s).images = s.images := rfl
@[simp] theorem jumpTo_spent (v : Word) : (jumpTo v s).spent = s.spent := rfl
@[simp] theorem jumpTo_links (v : Word) : (jumpTo v s).links = s.links := rfl
@[simp] theorem jumpTo_now (v : Word) : (jumpTo v s).now = s.now := rfl
@[simp] theorem jumpTo_agenda (v : Word) : (jumpTo v s).agenda = s.agenda := rfl
@[simp] theorem jumpTo_phase (v : Word) : (jumpTo v s).phase = s.phase := rfl
@[simp] theorem jumpTo_poked (v : Word) : (jumpTo v s).poked = s.poked := rfl
@[simp] theorem jumpTo_passed (v : Word) : (jumpTo v s).passed = s.passed := rfl
@[simp] theorem jumpTo_nextTid (v : Word) : (jumpTo v s).nextTid = s.nextTid := rfl
@[simp] theorem jumpTo_free (v : Word) : (jumpTo v s).free = s.free := rfl
@[simp] theorem jumpTo_trap (v : Word) : (jumpTo v s).trap = s.trap := rfl
@[simp] theorem jumpTo_latch (v : Word) : (jumpTo v s).latch = s.latch := rfl
@[simp] theorem jumpTo_ph (v : Word) : (jumpTo v s).ph = s.ph := rfl
@[simp] theorem jumpTo_adv (v : Word) : (jumpTo v s).adv = s.adv := rfl
@[simp] theorem jumpTo_late (v : Word) : (jumpTo v s).late = s.late := rfl
@[simp] theorem jumpTo_lateSt (v : Word) : (jumpTo v s).lateSt = s.lateSt := rfl
@[simp] theorem jumpTo_lateGo (v : Word) : (jumpTo v s).lateGo = s.lateGo := rfl
@[simp] theorem jumpTo_lateBench (v : Word) : (jumpTo v s).lateBench = s.lateBench := rfl
@[simp] theorem jumpTo_bundle (v : Word) : (jumpTo v s).bundle = s.bundle := rfl
@[simp] theorem jumpTo_bpc (v : Word) : (jumpTo v s).bpc = s.bpc := rfl

/-! ### A vector register -/

@[simp] theorem vwr_mem (n : Nat) (v : Vec) : (s.vwr n v).mem = s.mem := rfl
@[simp] theorem vwr_fe (n : Nat) (v : Vec) : (s.vwr n v).fe = s.fe := rfl
@[simp] theorem vwr_feKey (n : Nat) (v : Vec) : (s.vwr n v).feKey = s.feKey := rfl
@[simp] theorem vwr_feq (n : Nat) (v : Vec) : (s.vwr n v).feq = s.feq := rfl
@[simp] theorem vwr_feEng (n : Nat) (v : Vec) : (s.vwr n v).feEng = s.feEng := rfl
@[simp] theorem vwr_owner (n : Nat) (v : Vec) : (s.vwr n v).owner = s.owner := rfl
@[simp] theorem vwr_slot (n : Nat) (v : Vec) : (s.vwr n v).slot = s.slot := rfl
@[simp] theorem vwr_etl (n : Nat) (v : Vec) : (s.vwr n v).etl = s.etl := rfl
@[simp] theorem vwr_eid (n : Nat) (v : Vec) : (s.vwr n v).eid = s.eid := rfl
@[simp] theorem vwr_etlets (n : Nat) (v : Vec) : (s.vwr n v).etlets = s.etlets := rfl
@[simp] theorem vwr_clusters (n : Nat) (v : Vec) : (s.vwr n v).clusters = s.clusters := rfl
@[simp] theorem vwr_dies (n : Nat) (v : Vec) : (s.vwr n v).dies = s.dies := rfl
@[simp] theorem vwr_pkgs (n : Nat) (v : Vec) : (s.vwr n v).pkgs = s.pkgs := rfl
@[simp] theorem vwr_domains (n : Nat) (v : Vec) : (s.vwr n v).domains = s.domains := rfl
@[simp] theorem vwr_launches (n : Nat) (v : Vec) : (s.vwr n v).launches = s.launches := rfl
@[simp] theorem vwr_objs (n : Nat) (v : Vec) : (s.vwr n v).objs = s.objs := rfl
@[simp] theorem vwr_stations (n : Nat) (v : Vec) : (s.vwr n v).stations = s.stations := rfl
@[simp] theorem vwr_smsgs (n : Nat) (v : Vec) : (s.vwr n v).smsgs = s.smsgs := rfl
@[simp] theorem vwr_images (n : Nat) (v : Vec) : (s.vwr n v).images = s.images := rfl
@[simp] theorem vwr_spent (n : Nat) (v : Vec) : (s.vwr n v).spent = s.spent := rfl
@[simp] theorem vwr_links (n : Nat) (v : Vec) : (s.vwr n v).links = s.links := rfl
@[simp] theorem vwr_now (n : Nat) (v : Vec) : (s.vwr n v).now = s.now := rfl
@[simp] theorem vwr_agenda (n : Nat) (v : Vec) : (s.vwr n v).agenda = s.agenda := rfl
@[simp] theorem vwr_phase (n : Nat) (v : Vec) : (s.vwr n v).phase = s.phase := rfl
@[simp] theorem vwr_poked (n : Nat) (v : Vec) : (s.vwr n v).poked = s.poked := rfl
@[simp] theorem vwr_passed (n : Nat) (v : Vec) : (s.vwr n v).passed = s.passed := rfl
@[simp] theorem vwr_nextTid (n : Nat) (v : Vec) : (s.vwr n v).nextTid = s.nextTid := rfl
@[simp] theorem vwr_free (n : Nat) (v : Vec) : (s.vwr n v).free = s.free := rfl
@[simp] theorem vwr_trap (n : Nat) (v : Vec) : (s.vwr n v).trap = s.trap := rfl
@[simp] theorem vwr_latch (n : Nat) (v : Vec) : (s.vwr n v).latch = s.latch := rfl
@[simp] theorem vwr_ph (n : Nat) (v : Vec) : (s.vwr n v).ph = s.ph := rfl
@[simp] theorem vwr_adv (n : Nat) (v : Vec) : (s.vwr n v).adv = s.adv := rfl
@[simp] theorem vwr_late (n : Nat) (v : Vec) : (s.vwr n v).late = s.late := rfl
@[simp] theorem vwr_lateSt (n : Nat) (v : Vec) : (s.vwr n v).lateSt = s.lateSt := rfl
@[simp] theorem vwr_lateGo (n : Nat) (v : Vec) : (s.vwr n v).lateGo = s.lateGo := rfl
@[simp] theorem vwr_lateBench (n : Nat) (v : Vec) : (s.vwr n v).lateBench = s.lateBench := rfl
@[simp] theorem vwr_bundle (n : Nat) (v : Vec) : (s.vwr n v).bundle = s.bundle := rfl
@[simp] theorem vwr_bpc (n : Nat) (v : Vec) : (s.vwr n v).bpc = s.bpc := rfl

/-! ### A return from a trap -/

@[simp] theorem returnTrap_mem : (returnTrap s).mem = s.mem := rfl
@[simp] theorem returnTrap_fe : (returnTrap s).fe = s.fe := rfl
@[simp] theorem returnTrap_feKey : (returnTrap s).feKey = s.feKey := rfl
@[simp] theorem returnTrap_feq : (returnTrap s).feq = s.feq := rfl
@[simp] theorem returnTrap_feEng : (returnTrap s).feEng = s.feEng := rfl
@[simp] theorem returnTrap_owner : (returnTrap s).owner = s.owner := rfl
@[simp] theorem returnTrap_slot : (returnTrap s).slot = s.slot := rfl
@[simp] theorem returnTrap_etl : (returnTrap s).etl = s.etl := rfl
@[simp] theorem returnTrap_eid : (returnTrap s).eid = s.eid := rfl
@[simp] theorem returnTrap_etlets : (returnTrap s).etlets = s.etlets := rfl
@[simp] theorem returnTrap_clusters : (returnTrap s).clusters = s.clusters := rfl
@[simp] theorem returnTrap_dies : (returnTrap s).dies = s.dies := rfl
@[simp] theorem returnTrap_pkgs : (returnTrap s).pkgs = s.pkgs := rfl
@[simp] theorem returnTrap_domains : (returnTrap s).domains = s.domains := rfl
@[simp] theorem returnTrap_launches : (returnTrap s).launches = s.launches := rfl
@[simp] theorem returnTrap_objs : (returnTrap s).objs = s.objs := rfl
@[simp] theorem returnTrap_stations : (returnTrap s).stations = s.stations := rfl
@[simp] theorem returnTrap_smsgs : (returnTrap s).smsgs = s.smsgs := rfl
@[simp] theorem returnTrap_images : (returnTrap s).images = s.images := rfl
@[simp] theorem returnTrap_spent : (returnTrap s).spent = s.spent := rfl
@[simp] theorem returnTrap_links : (returnTrap s).links = s.links := rfl
@[simp] theorem returnTrap_now : (returnTrap s).now = s.now := rfl
@[simp] theorem returnTrap_agenda : (returnTrap s).agenda = s.agenda := rfl
@[simp] theorem returnTrap_phase : (returnTrap s).phase = s.phase := rfl
@[simp] theorem returnTrap_poked : (returnTrap s).poked = s.poked := rfl
@[simp] theorem returnTrap_passed : (returnTrap s).passed = s.passed := rfl
@[simp] theorem returnTrap_nextTid : (returnTrap s).nextTid = s.nextTid := rfl
@[simp] theorem returnTrap_free : (returnTrap s).free = s.free := rfl
@[simp] theorem returnTrap_trap : (returnTrap s).trap = s.trap := rfl
@[simp] theorem returnTrap_latch : (returnTrap s).latch = s.latch := rfl
@[simp] theorem returnTrap_ph : (returnTrap s).ph = s.ph := rfl
@[simp] theorem returnTrap_adv : (returnTrap s).adv = s.adv := rfl
@[simp] theorem returnTrap_late : (returnTrap s).late = s.late := rfl
@[simp] theorem returnTrap_lateSt : (returnTrap s).lateSt = s.lateSt := rfl
@[simp] theorem returnTrap_lateGo : (returnTrap s).lateGo = s.lateGo := rfl
@[simp] theorem returnTrap_lateBench : (returnTrap s).lateBench = s.lateBench := rfl
@[simp] theorem returnTrap_bundle : (returnTrap s).bundle = s.bundle := rfl
@[simp] theorem returnTrap_bpc : (returnTrap s).bpc = s.bpc := rfl

/-! ### The focus -/

@[simp] theorem modE_etl (f : Etlet → Etlet) : (s.modE f).etl = f s.etl := rfl
@[simp] theorem modE_th (f : Etlet → Etlet) : (s.modE f).th = s.th := rfl
@[simp] theorem modK_th (f : Kernel → Kernel) : (s.modK f).th = s.th := rfl
@[simp] theorem modDie_th (d : Nat) (f : Die → Die) : (s.modDie d f).th = s.th := rfl
@[simp] theorem modCl_th (c : Nat) (f : Cluster → Cluster) : (s.modCl c f).th = s.th := rfl
@[simp] theorem start_th : (start s).th = s.th := rfl
@[simp] theorem clean_th : s.clean.th = s.th := rfl
@[simp] theorem modT_thr (f : Thread → Thread) : (s.modT f).thr = s.thr.map f := rfl
@[simp] theorem modT_isSome (f : Thread → Thread) : (s.modT f).thr.isSome = s.thr.isSome := by simp

/-- The thread in focus after a change of it. -/
theorem modT_th {s : State} (h : s.thr.isSome = true) (f : Thread → Thread) : (s.modT f).th = f s.th := by
  obtain ⟨t, ht⟩ := Option.isSome_iff_exists.1 h
  simp [State.th, State.modT, ht]

theorem waitFor_th {s : State} (h : s.thr.isSome = true) (w : Wait) (d : Nat) :
    (waitFor w d s).th = { s.th with st := .waiting w, waitD := d } := modT_th h _

theorem jumpTo_th {s : State} (h : s.thr.isSome = true) (v : Word) :
    (jumpTo v s).th = { leaveLoops s.th v with pc := v } := modT_th h _

theorem returnTrap_th {s : State} (h : s.thr.isSome = true) : (returnTrap s).th = { s.th with
    pc := s.th.epc, status := setBits (s.th.estatus &&& 0x1F) 3 1 (bits s.th.status 3 3) } := modT_th h _

end Sys2Proof.Laws
end

