-- ==== Sys2Proof/Laws/Ops.lean ====
section
/-! SUPPORT. One lemma or a few per shared operation, which say everything it can do: going on to the next bundle, writing and
reading a register, issuing an instruction, its loop ports, taking a trap, the store buffer and fences. -/

namespace Sys2Proof.Laws

open Machine

/-! ### The next bundle -/

/-- What the end test can change: pc, the counts, and STATUS.LA. -/
theorem endTest_cases (t : Thread) : ∃ pc lc0 lc1 st, endTest t = { t with pc := pc, lc0 := lc0, lc1 := lc1, status := st } := by
  unfold endTest endTest0 Thread.setLa
  split_ifs <;> exact ⟨_, _, _, _, rfl⟩

@[simp] theorem endTest_tid (t : Thread) : (endTest t).tid = t.tid := by obtain ⟨_, _, _, _, h⟩ := endTest_cases t; rw [h]
@[simp] theorem endTest_kid (t : Thread) : (endTest t).kid = t.kid := by obtain ⟨_, _, _, _, h⟩ := endTest_cases t; rw [h]
@[simp] theorem endTest_st (t : Thread) : (endTest t).st = t.st := by obtain ⟨_, _, _, _, h⟩ := endTest_cases t; rw [h]
@[simp] theorem endTest_base (t : Thread) : (endTest t).base = t.base := by obtain ⟨_, _, _, _, h⟩ := endTest_cases t; rw [h]
@[simp] theorem endTest_limit (t : Thread) : (endTest t).limit = t.limit := by obtain ⟨_, _, _, _, h⟩ := endTest_cases t; rw [h]
@[simp] theorem endTest_vbase (t : Thread) : (endTest t).vbase = t.vbase := by obtain ⟨_, _, _, _, h⟩ := endTest_cases t; rw [h]
@[simp] theorem endTest_vlimit (t : Thread) : (endTest t).vlimit = t.vlimit := by obtain ⟨_, _, _, _, h⟩ := endTest_cases t; rw [h]
@[simp] theorem endTest_g (t : Thread) : (endTest t).g = t.g := by obtain ⟨_, _, _, _, h⟩ := endTest_cases t; rw [h]
@[simp] theorem endTest_v (t : Thread) : (endTest t).v = t.v := by obtain ⟨_, _, _, _, h⟩ := endTest_cases t; rw [h]
@[simp] theorem endTest_rank (t : Thread) : (endTest t).rank = t.rank := by obtain ⟨_, _, _, _, h⟩ := endTest_cases t; rw [h]
@[simp] theorem endTest_teamix (t : Thread) : (endTest t).teamix = t.teamix := by obtain ⟨_, _, _, _, h⟩ := endTest_cases t; rw [h]
@[simp] theorem endTest_shape (t : Thread) : (endTest t).shape = t.shape := by obtain ⟨_, _, _, _, h⟩ := endTest_cases t; rw [h]
@[simp] theorem endTest_ftab (t : Thread) : (endTest t).ftab = t.ftab := by obtain ⟨_, _, _, _, h⟩ := endTest_cases t; rw [h]
@[simp] theorem endTest_stab (t : Thread) : (endTest t).stab = t.stab := by obtain ⟨_, _, _, _, h⟩ := endTest_cases t; rw [h]
@[simp] theorem endTest_ls0 (t : Thread) : (endTest t).ls0 = t.ls0 := by obtain ⟨_, _, _, _, h⟩ := endTest_cases t; rw [h]
@[simp] theorem endTest_le0 (t : Thread) : (endTest t).le0 = t.le0 := by obtain ⟨_, _, _, _, h⟩ := endTest_cases t; rw [h]
@[simp] theorem endTest_ls1 (t : Thread) : (endTest t).ls1 = t.ls1 := by obtain ⟨_, _, _, _, h⟩ := endTest_cases t; rw [h]
@[simp] theorem endTest_le1 (t : Thread) : (endTest t).le1 = t.le1 := by obtain ⟨_, _, _, _, h⟩ := endTest_cases t; rw [h]
@[simp] theorem endTest_estatus (t : Thread) : (endTest t).estatus = t.estatus := by obtain ⟨_, _, _, _, h⟩ := endTest_cases t; rw [h]
@[simp] theorem endTest_epc (t : Thread) : (endTest t).epc = t.epc := by obtain ⟨_, _, _, _, h⟩ := endTest_cases t; rw [h]
@[simp] theorem endTest_ecause (t : Thread) : (endTest t).ecause = t.ecause := by obtain ⟨_, _, _, _, h⟩ := endTest_cases t; rw [h]
@[simp] theorem endTest_eval (t : Thread) : (endTest t).eval = t.eval := by obtain ⟨_, _, _, _, h⟩ := endTest_cases t; rw [h]
@[simp] theorem endTest_svec (t : Thread) : (endTest t).svec = t.svec := by obtain ⟨_, _, _, _, h⟩ := endTest_cases t; rw [h]
@[simp] theorem endTest_sscr (t : Thread) : (endTest t).sscr = t.sscr := by obtain ⟨_, _, _, _, h⟩ := endTest_cases t; rw [h]
@[simp] theorem endTest_fcsr (t : Thread) : (endTest t).fcsr = t.fcsr := by obtain ⟨_, _, _, _, h⟩ := endTest_cases t; rw [h]
@[simp] theorem endTest_policy (t : Thread) : (endTest t).policy = t.policy := by obtain ⟨_, _, _, _, h⟩ := endTest_cases t; rw [h]
@[simp] theorem endTest_dpart (t : Thread) : (endTest t).dpart = t.dpart := by obtain ⟨_, _, _, _, h⟩ := endTest_cases t; rw [h]
@[simp] theorem endTest_dsel (t : Thread) : (endTest t).dsel = t.dsel := by obtain ⟨_, _, _, _, h⟩ := endTest_cases t; rw [h]
@[simp] theorem endTest_chan (t : Thread) : (endTest t).chan = t.chan := by obtain ⟨_, _, _, _, h⟩ := endTest_cases t; rw [h]
@[simp] theorem endTest_credits (t : Thread) : (endTest t).credits = t.credits := by obtain ⟨_, _, _, _, h⟩ := endTest_cases t; rw [h]
@[simp] theorem endTest_inq (t : Thread) : (endTest t).inq = t.inq := by obtain ⟨_, _, _, _, h⟩ := endTest_cases t; rw [h]
@[simp] theorem endTest_foul (t : Thread) : (endTest t).foul = t.foul := by obtain ⟨_, _, _, _, h⟩ := endTest_cases t; rw [h]
@[simp] theorem endTest_events (t : Thread) : (endTest t).events = t.events := by obtain ⟨_, _, _, _, h⟩ := endTest_cases t; rw [h]
@[simp] theorem endTest_skip (t : Thread) : (endTest t).skip = t.skip := by obtain ⟨_, _, _, _, h⟩ := endTest_cases t; rw [h]
@[simp] theorem endTest_issuedAt (t : Thread) : (endTest t).issuedAt = t.issuedAt := by obtain ⟨_, _, _, _, h⟩ := endTest_cases t; rw [h]
@[simp] theorem endTest_yieldAt (t : Thread) : (endTest t).yieldAt = t.yieldAt := by obtain ⟨_, _, _, _, h⟩ := endTest_cases t; rw [h]
@[simp] theorem endTest_waitD (t : Thread) : (endTest t).waitD = t.waitD := by obtain ⟨_, _, _, _, h⟩ := endTest_cases t; rw [h]
@[simp] theorem endTest_res (t : Thread) : (endTest t).res = t.res := by obtain ⟨_, _, _, _, h⟩ := endTest_cases t; rw [h]
@[simp] theorem endTest_resAt (t : Thread) : (endTest t).resAt = t.resAt := by obtain ⟨_, _, _, _, h⟩ := endTest_cases t; rw [h]
@[simp] theorem endTest_flags (t : Thread) : (endTest t).flags = t.flags := by obtain ⟨_, _, _, _, h⟩ := endTest_cases t; rw [h]
@[simp] theorem endTest_deferred (t : Thread) : (endTest t).deferred = t.deferred := by obtain ⟨_, _, _, _, h⟩ := endTest_cases t; rw [h]
@[simp] theorem endTest_kill (t : Thread) : (endTest t).kill = t.kill := by obtain ⟨_, _, _, _, h⟩ := endTest_cases t; rw [h]
@[simp] theorem endTest_votes (t : Thread) : (endTest t).votes = t.votes := by obtain ⟨_, _, _, _, h⟩ := endTest_cases t; rw [h]
@[simp] theorem endTest_issues (t : Thread) : (endTest t).issues = t.issues := by obtain ⟨_, _, _, _, h⟩ := endTest_cases t; rw [h]
@[simp] theorem endTest_gangN (t : Thread) : (endTest t).gangN = t.gangN := by obtain ⟨_, _, _, _, h⟩ := endTest_cases t; rw [h]
@[simp] theorem endTest_gangLead (t : Thread) : (endTest t).gangLead = t.gangLead := by obtain ⟨_, _, _, _, h⟩ := endTest_cases t; rw [h]
@[simp] theorem endTest_pend (t : Thread) : (endTest t).pend = t.pend := by obtain ⟨_, _, _, _, h⟩ := endTest_cases t; rw [h]
@[simp] theorem endTest_grants (t : Thread) : (endTest t).grants = t.grants := by obtain ⟨_, _, _, _, h⟩ := endTest_cases t; rw [h]
@[simp] theorem endTest_handler (t : Thread) : (endTest t).handler = t.handler := by obtain ⟨_, _, _, _, h⟩ := endTest_cases t; rw [h]
@[simp] theorem endTest_partner (t : Thread) : (endTest t).partner = t.partner := by obtain ⟨_, _, _, _, h⟩ := endTest_cases t; rw [h]
@[simp] theorem endTest_trail (t : Thread) : (endTest t).trail = t.trail := by obtain ⟨_, _, _, _, h⟩ := endTest_cases t; rw [h]
@[simp] theorem endTest_lastSlot (t : Thread) : (endTest t).lastSlot = t.lastSlot := by obtain ⟨_, _, _, _, h⟩ := endTest_cases t; rw [h]
@[simp] theorem endTest_lk (t : Thread) : (endTest t).lk = t.lk := by obtain ⟨_, _, _, _, h⟩ := endTest_cases t; rw [h]
@[simp] theorem endTest_img (t : Thread) : (endTest t).img = t.img := by obtain ⟨_, _, _, _, h⟩ := endTest_cases t; rw [h]
@[simp] theorem endTest_imgNo (t : Thread) : (endTest t).imgNo = t.imgNo := by obtain ⟨_, _, _, _, h⟩ := endTest_cases t; rw [h]
@[simp] theorem endTest_wokenAt (t : Thread) : (endTest t).wokenAt = t.wokenAt := by obtain ⟨_, _, _, _, h⟩ := endTest_cases t; rw [h]
@[simp] theorem endTest_ssn (t : Thread) : (endTest t).ssn = t.ssn := by obtain ⟨_, _, _, _, h⟩ := endTest_cases t; rw [h]
@[simp] theorem endTest_pops (t : Thread) : (endTest t).pops = t.pops := by obtain ⟨_, _, _, _, h⟩ := endTest_cases t; rw [h]
@[simp] theorem endTest_after (t : Thread) : (endTest t).after = t.after := by obtain ⟨_, _, _, _, h⟩ := endTest_cases t; rw [h]
@[simp] theorem endTest_voteW (t : Thread) : (endTest t).voteW = t.voteW := by obtain ⟨_, _, _, _, h⟩ := endTest_cases t; rw [h]
@[simp] theorem endTest_vfl (t : Thread) : (endTest t).vfl = t.vfl := by obtain ⟨_, _, _, _, h⟩ := endTest_cases t; rw [h]
@[simp] theorem endTest_from_ (t : Thread) : (endTest t).from_ = t.from_ := by obtain ⟨_, _, _, _, h⟩ := endTest_cases t; rw [h]

theorem advance_lone {s : State} (h : s.ph = 0) : advance s = s.modT endTest := by simp [advance, h]

theorem advance_pair {s : State} (h : s.ph = 1) : advance s = { s with adv := true } := by simp [advance, h]

@[simp] theorem advance_mem (s : State) : (advance s).mem = s.mem := by unfold advance; split <;> rfl
@[simp] theorem advance_fe (s : State) : (advance s).fe = s.fe := by unfold advance; split <;> rfl
@[simp] theorem advance_feKey (s : State) : (advance s).feKey = s.feKey := by unfold advance; split <;> rfl
@[simp] theorem advance_feq (s : State) : (advance s).feq = s.feq := by unfold advance; split <;> rfl
@[simp] theorem advance_feEng (s : State) : (advance s).feEng = s.feEng := by unfold advance; split <;> rfl
@[simp] theorem advance_owner (s : State) : (advance s).owner = s.owner := by unfold advance; split <;> rfl
@[simp] theorem advance_slot (s : State) : (advance s).slot = s.slot := by unfold advance; split <;> rfl
@[simp] theorem advance_etl (s : State) : (advance s).etl = s.etl := by unfold advance; split <;> rfl
@[simp] theorem advance_eid (s : State) : (advance s).eid = s.eid := by unfold advance; split <;> rfl
@[simp] theorem advance_etlets (s : State) : (advance s).etlets = s.etlets := by unfold advance; split <;> rfl
@[simp] theorem advance_clusters (s : State) : (advance s).clusters = s.clusters := by unfold advance; split <;> rfl
@[simp] theorem advance_dies (s : State) : (advance s).dies = s.dies := by unfold advance; split <;> rfl
@[simp] theorem advance_pkgs (s : State) : (advance s).pkgs = s.pkgs := by unfold advance; split <;> rfl
@[simp] theorem advance_domains (s : State) : (advance s).domains = s.domains := by unfold advance; split <;> rfl
@[simp] theorem advance_launches (s : State) : (advance s).launches = s.launches := by unfold advance; split <;> rfl
@[simp] theorem advance_objs (s : State) : (advance s).objs = s.objs := by unfold advance; split <;> rfl
@[simp] theorem advance_stations (s : State) : (advance s).stations = s.stations := by unfold advance; split <;> rfl
@[simp] theorem advance_smsgs (s : State) : (advance s).smsgs = s.smsgs := by unfold advance; split <;> rfl
@[simp] theorem advance_images (s : State) : (advance s).images = s.images := by unfold advance; split <;> rfl
@[simp] theorem advance_spent (s : State) : (advance s).spent = s.spent := by unfold advance; split <;> rfl
@[simp] theorem advance_links (s : State) : (advance s).links = s.links := by unfold advance; split <;> rfl
@[simp] theorem advance_now (s : State) : (advance s).now = s.now := by unfold advance; split <;> rfl
@[simp] theorem advance_agenda (s : State) : (advance s).agenda = s.agenda := by unfold advance; split <;> rfl
@[simp] theorem advance_phase (s : State) : (advance s).phase = s.phase := by unfold advance; split <;> rfl
@[simp] theorem advance_poked (s : State) : (advance s).poked = s.poked := by unfold advance; split <;> rfl
@[simp] theorem advance_passed (s : State) : (advance s).passed = s.passed := by unfold advance; split <;> rfl
@[simp] theorem advance_nextTid (s : State) : (advance s).nextTid = s.nextTid := by unfold advance; split <;> rfl
@[simp] theorem advance_free (s : State) : (advance s).free = s.free := by unfold advance; split <;> rfl
@[simp] theorem advance_trap (s : State) : (advance s).trap = s.trap := by unfold advance; split <;> rfl
@[simp] theorem advance_latch (s : State) : (advance s).latch = s.latch := by unfold advance; split <;> rfl
@[simp] theorem advance_ph (s : State) : (advance s).ph = s.ph := by unfold advance; split <;> rfl
@[simp] theorem advance_late (s : State) : (advance s).late = s.late := by unfold advance; split <;> rfl
@[simp] theorem advance_lateSt (s : State) : (advance s).lateSt = s.lateSt := by unfold advance; split <;> rfl
@[simp] theorem advance_lateGo (s : State) : (advance s).lateGo = s.lateGo := by unfold advance; split <;> rfl
@[simp] theorem advance_lateBench (s : State) : (advance s).lateBench = s.lateBench := by unfold advance; split <;> rfl
@[simp] theorem advance_bundle (s : State) : (advance s).bundle = s.bundle := by unfold advance; split <;> rfl
@[simp] theorem advance_bpc (s : State) : (advance s).bpc = s.bpc := by unfold advance; split <;> rfl

theorem advance_th {s : State} (h : s.ph = 0) (ht : s.thr.isSome = true) : (advance s).th = endTest s.th := by
  rw [advance_lone h, modT_th ht]

/-! ### Registers -/

@[simp] theorem lpSend_mem (s : State) (k : Nat) (v : Word) : (s.lpSend k v).mem = s.mem := by
  unfold State.lpSend; dsimp only; split
  · rfl
  · unfold State.modEt; split <;> rfl

/-- A general register written outside a pair's shared destination. -/
theorem wr_gpr {s : State} {n : Nat} (hn : n < 112) (hk : s.th.kill = none) (v : Word) :
    s.wr n v = s.modT (fun t => { t with g := kput t.g n v }) := by simp [State.wr, hn, hk]

/-- z and the read-only specials discard writes. -/
theorem wr_discard {s : State} {n : Nat} (hn : n = 112 ∨ n = 113 ∨ n = 118 ∨ n = 119) (v : Word) : s.wr n v = s := by
  rcases hn with rfl | rfl | rfl | rfl <;> simp [State.wr]

/-- No write of a register changes memory. -/
@[simp] theorem wr_mem (s : State) (n : Nat) (v : Word) : (s.wr n v).mem = s.mem := by
  unfold State.wr
  split_ifs
  · rfl
  · rfl
  · split <;> simp

@[simp] theorem wr_ph (s : State) (n : Nat) (v : Word) : (s.wr n v).ph = s.ph := by
  unfold State.wr
  split_ifs
  · rfl
  · rfl
  · split <;> first | rfl | (unfold State.lpSend State.modEt; dsimp only; split <;> first | rfl | (split <;> rfl))

theorem live_gpr (s : State) {n : Nat} (hn : n < 112) : s.live n = kgetD s.th.g n 0 := by simp [State.live, hn]

theorem rd_none {s : State} (h : s.latch = none) (n : Nat) : s.rd n = s.live n := by simp [State.rd, h]

/-- A general register reads what was written to it. -/
theorem live_wr_gpr {s : State} {n : Nat} (hn : n < 112) (hk : s.th.kill = none) (ht : s.thr.isSome = true) (v : Word) :
    (s.wr n v).live n = v := by
  rw [wr_gpr hn hk, live_gpr _ hn, modT_th ht]; simp

/-- Another general register is as it was. -/
theorem live_wr_gpr_ne {s : State} {n m : Nat} (hn : n < 112) (hm : m < 112) (h : m ≠ n) (hk : s.th.kill = none) (ht : s.thr.isSome = true)
    (v : Word) : (s.wr n v).live m = s.live m := by
  rw [wr_gpr hn hk, live_gpr _ hm, live_gpr _ hm, modT_th ht]; simp [kgetD_kput_ne _ _ _ h]

@[simp] theorem raise_zero (s : State) : s.raise 0 = s := rfl

@[simp] theorem raise_mem (s : State) (f : Nat) : (s.raise f).mem = s.mem := by unfold State.raise; split <;> rfl

/-! ### Loop ports -/

/-- An instruction that reads no loop port takes none. -/
theorem popPorts_none {fs : List Fld} (h : ∀ f ∈ fs, f.lpRead = none) (s : State) : popPorts fs s = s := by
  have : portsRead fs = [] := by simp [portsRead, List.filterMap_eq_nil_iff.2 h]
  unfold popPorts
  rw [this]

/-! ### Issue -/

/-- Issue step by step: the checks, the loop ports, the effect. -/
theorem issueS_lone {s : State} (h : s.ph = 0) (i : Instr) (body : State → State) :
    issueS i s body = (match precheck i (start s) with
    | some c => takeTrap c (start s)
    | none => match portCheck (start s) (s.ports i) with
      | some (.inl c) => takeTrap c (start s)
      | some (.inr w) => waitFor w 112 (start s)
      | none => if (body (start s)).unissued then body (start s) else popPorts (s.ports i) (body (start s))) := by
  unfold issueS
  rw [if_neg (by simp [h])]
  rfl

/-- An instruction that passes its checks has its own effect; its loop ports are taken unless it waits or traps. -/
theorem issue_passes {i : Instr} {s : State} (h : Issues i s) (body : State → State) :
    issue i s body = .next (if (body (start s)).unissued then body (start s) else popPorts (s.ports i) (body (start s))) := by
  obtain ⟨h0, h1, -, h2, h3, -⟩ := h
  have e : start s = s := by cases s; simp_all [start]
  unfold issue
  rw [issueS_lone h0, e, h2, h3]

/-- One that fails a check of privilege, window or destination takes the trap and does nothing else. -/
theorem issue_traps {i : Instr} {s : State} {c : Cause} (h0 : s.ph = 0) (h : precheck i (start s) = some c) (body : State → State) :
    issue i s body = .next (takeTrap c (start s)) := by
  unfold issue
  rw [issueS_lone h0, h]

/-! ### Traps -/

/-- Rousing a thread touches nothing but the cycle it woke in. -/
theorem roused_cases (n : Nat) (t : Thread) : ∃ w, t.roused n = { t with wokenAt := w } := by
  unfold Thread.roused; split
  · exact ⟨t.wokenAt, rfl⟩
  · exact ⟨_, rfl⟩

@[simp] theorem roused_gangN (n : Nat) (t : Thread) : (t.roused n).gangN = t.gangN := by obtain ⟨_, h⟩ := roused_cases n t; rw [h]

@[simp] theorem roused_th_gangN (s : State) : (s.modT (Thread.roused s.now)).th.gangN = s.th.gangN := by
  unfold State.th State.modT; cases h : s.thr <;> simp

theorem disbandAll_none {s : State} (h : s.th.gangN = 0) : disbandAll s = s := by simp [disbandAll, h]

/-- Ending a thread's capture keeps the slot in focus. -/
theorem dropCapture_slot (s : State) : (dropCapture s).slot = s.slot := by
  have key : ∀ u : State, u.slot = s.slot → (match u.etl.vrb with
      | some b => if b.owner = u.th.tid ∧ b.capture then readyWhere (fun w => decide (w = Wait.vrb)) (u.modE (fun e => { e with vrb := none })) else u
      | none => u).slot = s.slot := by
    intro u hu; rw [← hu]; split
    · split <;> rfl
    · rfl
  unfold dropCapture
  dsimp only
  apply key
  split <;> rfl

/-- Ending a thread's capture keeps memory: it changes the etlet's units and the threads that wait for them. -/
theorem dropCapture_mem (s : State) : (dropCapture s).mem = s.mem := by
  have key : ∀ u : State, u.mem = s.mem → (match u.etl.vrb with
      | some b => if b.owner = u.th.tid ∧ b.capture then readyWhere (fun w => decide (w = Wait.vrb)) (u.modE (fun e => { e with vrb := none })) else u
      | none => u).mem = s.mem := by
    intro u hu; rw [← hu]; split
    · split <;> rfl
    · rfl
  unfold dropCapture
  dsimp only
  apply key
  split <;> rfl

theorem dropCapture_handoff (s : State) : (dropCapture s).handoff = s.handoff := by
  unfold State.handoff; rw [dropCapture_slot]

theorem trapStart_lone {s : State} (c : Cause) (hg : s.th.gangN = 0) :
    trapStart c s = dropCapture { (s.modT (Thread.roused s.now)).clean with trap := some c } := by
  unfold trapStart; rw [disbandAll_none (by rw [roused_th_gangN, hg])]

/-- A trap of an ordinary slot with EXL clear: the thread enters the handler. -/
theorem takeTrap_enters {s : State} (c : Cause) (hh : s.handoff = false) (hg : s.th.gangN = 0)
    (he : (trapStart c s).th.status.getLsbD 4 = false) : takeTrap c s = (trapStart c s).modT (enterTrap c) := by
  have h1 : (trapStart c s).handoff = false := by rw [trapStart_lone c hg]; exact (dropCapture_handoff _).trans hh
  have h2 : ¬((trapStart c s).handoff = true ∧ (trapStart c s).th.handler ≠ 2) := fun h => absurd (h1.symm.trans h.1) (by decide)
  have h3 : ¬(trapStart c s).th.status.getLsbD 4 = true := fun h => absurd (he.symm.trans h) (by decide)
  exact (if_neg h2).trans (if_neg h3)

/-- Such a trap changes no byte of memory. -/
theorem takeTrap_mem {s : State} (c : Cause) (hh : s.handoff = false) (hg : s.th.gangN = 0)
    (he : (trapStart c s).th.status.getLsbD 4 = false) : (takeTrap c s).mem = s.mem := by
  rw [takeTrap_enters c hh hg he, modT_mem, trapStart_lone c hg]; exact dropCapture_mem _

/-! ### The store buffer and fences -/

/-- Whatever room it finds, an entry comes last among those that stand in the buffer or in line for it. -/
@[simp] theorem bufPut_buf (x : SEntry) (s : State) : (bufPut x s).etl.buf = s.etl.buf ++ [x] := by
  simp only [bufPut, modE_etl]; split
  · next h => simp [Etlet.buf, h.2]
  · simp [Etlet.buf]

@[simp] theorem bufPut_thr (x : SEntry) (s : State) : (bufPut x s).thr = s.thr := rfl

@[simp] theorem bufPut_posted (x : SEntry) (s : State) : (bufPut x s).etl.posted = s.etl.posted := by
  simp only [bufPut, modE_etl]; split <;> rfl

@[simp] theorem bufPut_kernels (x : SEntry) (s : State) : (bufPut x s).etl.kernels = s.etl.kernels := by
  simp only [bufPut, modE_etl]; split <;> rfl

/-- While a store that it waits for has still to take effect, an instruction's thread is out of the rotation; else the instruction acts. -/
theorem afterThose_waits {p : SEntry → Bool} {s : State} (h : s.storesOut s.th.tid p = true) (body : State → State) :
    afterThose p s body = waitFor .ack 112 s := if_pos h

theorem afterThose_goes {p : SEntry → Bool} {s : State} (h : s.storesOut s.th.tid p = false) (body : State → State) :
    afterThose p s body = body s := if_neg (by simp [h])

/-- A store changes no thread when it is issued, and no byte of memory (`pushStore_mem`, Laws/Memory.lean). -/
theorem pushStore_thr (gpa width : Nat) (data va : Word) (scope : Nat) (ca : Bool) (s : State) :
    (pushStore gpa width data va scope ca s).thr = s.thr := by
  unfold pushStore; dsimp only; split
  · split <;> rfl
  · rfl

/-- Where the team holds no stores, or the store goes to a scratchpad, it enters the buffer. -/
theorem pushStore_buffered {gpa : Nat} {s : State} (h : s.holds = false ∨ regionOf gpa = 2) (width : Nat) (data va : Word) (scope : Nat)
    (ca : Bool) : ∃ x, (pushStore gpa width data va scope ca s).etl.buf = s.etl.buf ++ [x] ∧ x.gpa = gpa ∧ x.width = width ∧
      x.data = data ∧ x.tid = s.th.tid ∧ x.key = s.kern.key ∧ x.va = va ∧ x.sf = none := by
  have hn : ¬((s.holds && !decide (regionOf gpa = 2)) = true) := by rcases h with h | h <;> simp [h]
  unfold pushStore; dsimp only; rw [if_neg hn]
  exact ⟨_, bufPut_buf _ s, rfl, rfl, rfl, rfl, rfl, rfl, rfl⟩

end Sys2Proof.Laws
end

