-- ==== Sys2Proof/Laws/PerInstr.lean ====
section
/-! SUPPORT. Decoding the encoding of an instruction gives it back, one lemma per constructor (R49 to R57, R266 to R270). -/

namespace Sys2Proof.Laws.Encoding

set_option Elab.async false

/-- Decoding the body of a well-formed instruction, beside a literal that fits it, gives the instruction. -/
def Statement (i : Instr) : Prop :=
  i.wf = true → Machine.isEvent i = false → ∀ k, i.kind.fits k = true → decodeBody k (encodeBody i) = some i

/-- A constructor that is a step of the part has no encoding. -/
theorem of_event {i : Instr} (h : encodeBody i = 0) (n : i ≠ .nop) : Statement i :=
  fun _ e => by rw [Machine.isEvent, decide_eq_false_iff_not] at e; exact absurd ⟨h, n⟩ e

theorem immOk_none (f : Nat) : immOk none f = true := rfl
theorem immOk_some (k f : Nat) : immOk (some k) f = decide (f = 0) := rfl
theorem immOf_none (f : Nat) : immOf none f = .short f := rfl
theorem immOf_some (k f : Nat) : immOf (some k) f = .long k := rfl
theorem fld_eq (w h l : Nat) : fld w h l = w / 2 ^ l % 2 ^ (h - l + 1) := rfl

/-- A format G3 instruction with three free register fields. -/
theorem g3 (c : Nat) (mk : Nat → Nat → Nat → Instr) (hc : c % 16777216 < 8)
    (hE : ∀ d a b, encodeBody (mk d a b) = c + d * 131072 + a * 1024 + b * 8)
    (hW : ∀ d a b, (mk d a b).wf = (decide (d < 128) && decide (a < 128) && decide (b < 128)))
    (hD : ∀ k w, fld w 29 24 = c / 16777216 % 64 → fld w 2 0 = c % 8 →
      decodeBody k w = some (mk (fld w 23 17) (fld w 16 10) (fld w 9 3))) (d a b : Nat) : Statement (mk d a b) := by
  intro h _ k _
  simp only [hW, Bool.and_eq_true, decide_eq_true_eq] at h
  obtain ⟨⟨hd, ha⟩, hb⟩ := h
  rw [hE, hD k]
  · congr 2 <;> (simp only [fld_eq]; omega)
  · simp only [fld_eq]; omega
  · simp only [fld_eq]; omega

theorem to00 {w : Nat} (k : Option Nat) (h : fld w 29 24 = 0x00) : decodeBody k w = dec00 k w := by
  unfold decodeBody; rw [h]; rfl

theorem to01 {w : Nat} (k : Option Nat) (h : fld w 29 24 = 0x01) : decodeBody k w = dec01 k w := by
  unfold decodeBody; rw [h]; rfl

theorem to02 {w : Nat} (k : Option Nat) (h : fld w 29 24 = 0x02) : decodeBody k w = dec02 k w := by
  unfold decodeBody; rw [h]; rfl

theorem to03 {w : Nat} (k : Option Nat) (h : fld w 29 24 = 0x03) : decodeBody k w = dec03 k w := by
  unfold decodeBody; rw [h]; rfl

theorem to04 {w : Nat} (k : Option Nat) (h : fld w 29 24 = 0x04) : decodeBody k w = dec04 k w := by
  unfold decodeBody; rw [h]; rfl

theorem to05 {w : Nat} (k : Option Nat) (h : fld w 29 24 = 0x05) : decodeBody k w = dec05 k w := by
  unfold decodeBody; rw [h]; rfl

theorem to06 {w : Nat} (k : Option Nat) (h : fld w 29 24 = 0x06) : decodeBody k w = dec06 k w := by
  unfold decodeBody; rw [h]; rfl

theorem to07 {w : Nat} (k : Option Nat) (h : fld w 29 24 = 0x07) : decodeBody k w = dec07 k w := by
  unfold decodeBody; rw [h]; rfl

theorem to08 {w : Nat} (k : Option Nat) (h : fld w 29 24 = 0x08) : decodeBody k w = dec08 k w := by
  unfold decodeBody; rw [h]; rfl

theorem to09 {w : Nat} (k : Option Nat) (h : fld w 29 24 = 0x09) : decodeBody k w = dec09 k w := by
  unfold decodeBody; rw [h]; rfl

theorem to0A {w : Nat} (k : Option Nat) (h : fld w 29 24 = 0x0A) : decodeBody k w = dec0A k w := by
  unfold decodeBody; rw [h]; rfl

theorem to0B {w : Nat} (k : Option Nat) (h : fld w 29 24 = 0x0B) : decodeBody k w = dec0B k w := by
  unfold decodeBody; rw [h]; rfl

theorem to0C {w : Nat} (k : Option Nat) (h : fld w 29 24 = 0x0C) : decodeBody k w = dec0C k w := by
  unfold decodeBody; rw [h]; rfl

theorem to0D {w : Nat} (k : Option Nat) (h : fld w 29 24 = 0x0D) : decodeBody k w = dec0D k w := by
  unfold decodeBody; rw [h]; rfl

theorem to0E {w : Nat} (k : Option Nat) (h : fld w 29 24 = 0x0E) : decodeBody k w = dec0E k w := by
  unfold decodeBody; rw [h]; rfl

theorem to0F {w : Nat} (k : Option Nat) (h : fld w 29 24 = 0x0F) : decodeBody k w = dec0F k w := by
  unfold decodeBody; rw [h]; rfl

theorem to10 {w : Nat} (k : Option Nat) (h : fld w 29 24 = 0x10) : decodeBody k w = dec10 k w := by
  unfold decodeBody; rw [h]; rfl

theorem to11 {w : Nat} (k : Option Nat) (h : fld w 29 24 = 0x11) : decodeBody k w = dec11 k w := by
  unfold decodeBody; rw [h]; rfl

theorem to12 {w : Nat} (k : Option Nat) (h : fld w 29 24 = 0x12) : decodeBody k w = dec12 k w := by
  unfold decodeBody; rw [h]; rfl

theorem to13 {w : Nat} (k : Option Nat) (h : fld w 29 24 = 0x13) : decodeBody k w = dec13 k w := by
  unfold decodeBody; rw [h]; rfl

theorem to14 {w : Nat} (k : Option Nat) (h : fld w 29 24 = 0x14) : decodeBody k w = dec14 k w := by
  unfold decodeBody; rw [h]; rfl

theorem to15 {w : Nat} (k : Option Nat) (h : fld w 29 24 = 0x15) : decodeBody k w = dec15 k w := by
  unfold decodeBody; rw [h]; rfl

theorem to16 {w : Nat} (k : Option Nat) (h : fld w 29 24 = 0x16) : decodeBody k w = dec16 k w := by
  unfold decodeBody; rw [h]; rfl

theorem to17 {w : Nat} (k : Option Nat) (h : fld w 29 24 = 0x17) : decodeBody k w = dec17 k w := by
  unfold decodeBody; rw [h]; rfl

theorem to18 {w : Nat} (k : Option Nat) (h : fld w 29 24 = 0x18) : decodeBody k w = dec18 k w := by
  unfold decodeBody; rw [h]; rfl

theorem to19 {w : Nat} (k : Option Nat) (h : fld w 29 24 = 0x19) : decodeBody k w = dec19 k w := by
  unfold decodeBody; rw [h]; rfl

theorem to1A {w : Nat} (k : Option Nat) (h : fld w 29 24 = 0x1A) : decodeBody k w = dec1A k w := by
  unfold decodeBody; rw [h]; rfl

theorem to1B {w : Nat} (k : Option Nat) (h : fld w 29 24 = 0x1B) : decodeBody k w = dec1B k w := by
  unfold decodeBody; rw [h]; rfl

theorem to1C {w : Nat} (k : Option Nat) (h : fld w 29 24 = 0x1C) : decodeBody k w = dec1C k w := by
  unfold decodeBody; rw [h]; rfl

theorem to1D {w : Nat} (k : Option Nat) (h : fld w 29 24 = 0x1D) : decodeBody k w = dec1D k w := by
  unfold decodeBody; rw [h]; rfl

theorem to1E {w : Nat} (k : Option Nat) (h : fld w 29 24 = 0x1E) : decodeBody k w = dec1E k w := by
  unfold decodeBody; rw [h]; rfl

theorem to1F {w : Nat} (k : Option Nat) (h : fld w 29 24 = 0x1F) : decodeBody k w = dec1F k w := by
  unfold decodeBody; rw [h]; rfl

theorem to20 {w : Nat} (k : Option Nat) (h : fld w 29 24 = 0x20) : decodeBody k w = dec20 k w := by
  unfold decodeBody; rw [h]; rfl

theorem to21 {w : Nat} (k : Option Nat) (h : fld w 29 24 = 0x21) : decodeBody k w = dec21 k w := by
  unfold decodeBody; rw [h]; rfl

theorem to22 {w : Nat} (k : Option Nat) (h : fld w 29 24 = 0x22) : decodeBody k w = dec22 k w := by
  unfold decodeBody; rw [h]; rfl

theorem to23 {w : Nat} (k : Option Nat) (h : fld w 29 24 = 0x23) : decodeBody k w = dec23 k w := by
  unfold decodeBody; rw [h]; rfl

theorem to24 {w : Nat} (k : Option Nat) (h : fld w 29 24 = 0x24) : decodeBody k w = dec24 k w := by
  unfold decodeBody; rw [h]; rfl

theorem to25 {w : Nat} (k : Option Nat) (h : fld w 29 24 = 0x25) : decodeBody k w = dec25 k w := by
  unfold decodeBody; rw [h]; rfl

theorem to28 {w : Nat} (k : Option Nat) (h : fld w 29 24 = 0x28) : decodeBody k w = dec28 k w := by
  unfold decodeBody; rw [h]; rfl

theorem to29 {w : Nat} (k : Option Nat) (h : fld w 29 24 = 0x29) : decodeBody k w = dec29 k w := by
  unfold decodeBody; rw [h]; rfl

theorem to2A {w : Nat} (k : Option Nat) (h : fld w 29 24 = 0x2A) : decodeBody k w = dec2A k w := by
  unfold decodeBody; rw [h]; rfl

theorem to2B {w : Nat} (k : Option Nat) (h : fld w 29 24 = 0x2B) : decodeBody k w = dec2B k w := by
  unfold decodeBody; rw [h]; rfl

theorem to2C {w : Nat} (k : Option Nat) (h : fld w 29 24 = 0x2C) : decodeBody k w = dec2C k w := by
  unfold decodeBody; rw [h]; rfl

theorem to2D {w : Nat} (k : Option Nat) (h : fld w 29 24 = 0x2D) : decodeBody k w = dec2D k w := by
  unfold decodeBody; rw [h]; rfl

theorem to2E {w : Nat} (k : Option Nat) (h : fld w 29 24 = 0x2E) : decodeBody k w = dec2E k w := by
  unfold decodeBody; rw [h]; rfl

theorem to2F {w : Nat} (k : Option Nat) (h : fld w 29 24 = 0x2F) : decodeBody k w = dec2F k w := by
  unfold decodeBody; rw [h]; rfl

theorem to30 {w : Nat} (k : Option Nat) (h : fld w 29 24 = 0x30) : decodeBody k w = dec30 k w := by
  unfold decodeBody; rw [h]; rfl

theorem to31 {w : Nat} (k : Option Nat) (h : fld w 29 24 = 0x31) : decodeBody k w = dec31 k w := by
  unfold decodeBody; rw [h]; rfl

theorem to32 {w : Nat} (k : Option Nat) (h : fld w 29 24 = 0x32) : decodeBody k w = dec32 k w := by
  unfold decodeBody; rw [h]; rfl

theorem to33 {w : Nat} (k : Option Nat) (h : fld w 29 24 = 0x33) : decodeBody k w = dec33 k w := by
  unfold decodeBody; rw [h]; rfl

theorem to34 {w : Nat} (k : Option Nat) (h : fld w 29 24 = 0x34) : decodeBody k w = dec34 k w := by
  unfold decodeBody; rw [h]; rfl

theorem to35 {w : Nat} (k : Option Nat) (h : fld w 29 24 = 0x35) : decodeBody k w = dec35 k w := by
  unfold decodeBody; rw [h]; rfl

theorem to36 {w : Nat} (k : Option Nat) (h : fld w 29 24 = 0x36) : decodeBody k w = dec36 k w := by
  unfold decodeBody; rw [h]; rfl

theorem to37 {w : Nat} (k : Option Nat) (h : fld w 29 24 = 0x37) : decodeBody k w = dec37 k w := by
  unfold decodeBody; rw [h]; rfl

theorem to38 {w : Nat} (k : Option Nat) (h : fld w 29 24 = 0x38) : decodeBody k w = dec38 k w := by
  unfold decodeBody; rw [h]; rfl

theorem to39 {w : Nat} (k : Option Nat) (h : fld w 29 24 = 0x39) : decodeBody k w = dec39 k w := by
  unfold decodeBody; rw [h]; rfl

theorem to3A {w : Nat} (k : Option Nat) (h : fld w 29 24 = 0x3A) : decodeBody k w = dec3A k w := by
  unfold decodeBody; rw [h]; rfl

theorem to3B {w : Nat} (k : Option Nat) (h : fld w 29 24 = 0x3B) : decodeBody k w = dec3B k w := by
  unfold decodeBody; rw [h]; rfl

theorem to3C {w : Nat} (k : Option Nat) (h : fld w 29 24 = 0x3C) : decodeBody k w = dec3C k w := by
  unfold decodeBody; rw [h]; rfl

theorem to3D {w : Nat} (k : Option Nat) (h : fld w 29 24 = 0x3D) : decodeBody k w = dec3D k w := by
  unfold decodeBody; rw [h]; rfl

theorem to3E {w : Nat} (k : Option Nat) (h : fld w 29 24 = 0x3E) : decodeBody k w = dec3E k w := by
  unfold decodeBody; rw [h]; rfl

theorem to3F {w : Nat} (k : Option Nat) (h : fld w 29 24 = 0x3F) : decodeBody k w = dec3F k w := by
  unfold decodeBody; rw [h]; rfl

theorem trap (a i : Nat) : Statement (.trap a i) := by
  intro h _ kk hk
  simp only [Instr.wf, Imm.wf, Bool.and_eq_true, Bool.not_eq_true', decide_eq_true_eq, decide_eq_false_iff_not] at h
  obtain ⟨w, hw⟩ : ∃ w, encodeBody (.trap a i) = w := ⟨_, rfl⟩
  rw [hw]
  replace hw : 0x01000000 + a * 1024 + i = w := hw
  have e29_24 : fld w 29 24 = 0x01 := by simp only [fld_eq]; omega
  have e23_17 : fld w 23 17 = 0 := by simp only [fld_eq]; omega
  have e16_10 : fld w 16 10 = a := by simp only [fld_eq]; omega
  have e9_0 : fld w 9 0 = i := by simp only [fld_eq]; omega
  rw [to01 _ e29_24]
  simp [dec01, immOk_none, immOk_some, immOf_none, immOf_some, immMS, e23_17, e16_10, e9_0]

theorem br (o : Nat) : Statement (.br o) := by
  intro h _ kk hk
  simp only [Instr.wf, Imm.wf, Bool.and_eq_true, Bool.not_eq_true', decide_eq_true_eq, decide_eq_false_iff_not] at h
  obtain ⟨w, hw⟩ : ∃ w, encodeBody (.br o) = w := ⟨_, rfl⟩
  rw [hw]
  replace hw : 0x02000000 + o = w := hw
  have e29_24 : fld w 29 24 = 0x02 := by simp only [fld_eq]; omega
  have e23_0 : fld w 23 0 = o := by simp only [fld_eq]; omega
  rw [to02 _ e29_24]
  simp [dec02, immOk_none, immOk_some, immOf_none, immOf_some, immMS, e23_0]

theorem brl (o : Nat) : Statement (.brl o) := by
  intro h _ kk hk
  simp only [Instr.wf, Imm.wf, Bool.and_eq_true, Bool.not_eq_true', decide_eq_true_eq, decide_eq_false_iff_not] at h
  obtain ⟨w, hw⟩ : ∃ w, encodeBody (.brl o) = w := ⟨_, rfl⟩
  rw [hw]
  replace hw : 0x03000000 + o = w := hw
  have e29_24 : fld w 29 24 = 0x03 := by simp only [fld_eq]; omega
  have e23_0 : fld w 23 0 = o := by simp only [fld_eq]; omega
  rw [to03 _ e29_24]
  simp [dec03, immOk_none, immOk_some, immOf_none, immOf_some, immMS, e23_0]

theorem jmpl (d a : Nat) : Statement (.jmpl d a) := by
  intro h _ kk hk
  simp only [Instr.wf, Imm.wf, Bool.and_eq_true, Bool.not_eq_true', decide_eq_true_eq, decide_eq_false_iff_not] at h
  obtain ⟨w, hw⟩ : ∃ w, encodeBody (.jmpl d a) = w := ⟨_, rfl⟩
  rw [hw]
  replace hw : 0x04000000 + d * 131072 + a * 1024 = w := hw
  have e29_24 : fld w 29 24 = 0x04 := by simp only [fld_eq]; omega
  have e23_17 : fld w 23 17 = d := by simp only [fld_eq]; omega
  have e16_10 : fld w 16 10 = a := by simp only [fld_eq]; omega
  have e9_0 : fld w 9 0 = 0 := by simp only [fld_eq]; omega
  rw [to04 _ e29_24]
  simp [dec04, immOk_none, immOk_some, immOf_none, immOf_some, immMS, e23_17, e16_10, e9_0]

theorem lsetupImm (p : Nat) (c : Imm) (e : Nat) : Statement (.lsetupImm p c e) := by
  intro h _ kk hk
  rcases c with v | v
  · simp only [Instr.wf, Imm.wf, Bool.and_eq_true, Bool.not_eq_true', decide_eq_true_eq, decide_eq_false_iff_not] at h
    obtain rfl : kk = none := by simpa [Instr.kind, Imm.kind, KKind.fits] using hk
    obtain ⟨w, hw⟩ : ∃ w, encodeBody (.lsetupImm p (.short v) e) = w := ⟨_, rfl⟩
    rw [hw]
    replace hw : 0x05400000 + p * 8388608 + v * 4096 + e = w := hw
    have e29_24 : fld w 29 24 = 0x05 := by simp only [fld_eq]; omega
    have e23_23 : fld w 23 23 = p := by simp only [fld_eq]; omega
    have e22_22 : fld w 22 22 = 1 := by simp only [fld_eq]; omega
    have e21_12 : fld w 21 12 = v := by simp only [fld_eq]; omega
    have e11_0 : fld w 11 0 = e := by simp only [fld_eq]; omega
    rw [to05 _ e29_24]
    simp [dec05, immOk_none, immOk_some, immOf_none, immOf_some, immMS, e23_23, e22_22, e21_12, e11_0]
  · simp only [Instr.wf, Imm.wf, Bool.and_eq_true, Bool.not_eq_true', decide_eq_true_eq, decide_eq_false_iff_not] at h
    obtain rfl : kk = some v := by simpa [Instr.kind, Imm.kind, KKind.fits] using hk
    obtain ⟨w, hw⟩ : ∃ w, encodeBody (.lsetupImm p (.long v) e) = w := ⟨_, rfl⟩
    rw [hw]
    replace hw : 0x05400000 + p * 8388608 + 0 * 4096 + e = w := hw
    have e29_24 : fld w 29 24 = 0x05 := by simp only [fld_eq]; omega
    have e23_23 : fld w 23 23 = p := by simp only [fld_eq]; omega
    have e22_22 : fld w 22 22 = 1 := by simp only [fld_eq]; omega
    have e21_12 : fld w 21 12 = 0 := by simp only [fld_eq]; omega
    have e11_0 : fld w 11 0 = e := by simp only [fld_eq]; omega
    rw [to05 _ e29_24]
    simp [dec05, immOk_none, immOk_some, immOf_none, immOf_some, immMS, e23_23, e22_22, e21_12, e11_0]

theorem lsetupReg (p r e : Nat) : Statement (.lsetupReg p r e) := by
  intro h _ kk hk
  simp only [Instr.wf, Imm.wf, Bool.and_eq_true, Bool.not_eq_true', decide_eq_true_eq, decide_eq_false_iff_not] at h
  obtain ⟨w, hw⟩ : ∃ w, encodeBody (.lsetupReg p r e) = w := ⟨_, rfl⟩
  rw [hw]
  replace hw : 0x05000000 + p * 8388608 + r * 4096 + e = w := hw
  have e29_24 : fld w 29 24 = 0x05 := by simp only [fld_eq]; omega
  have e23_23 : fld w 23 23 = p := by simp only [fld_eq]; omega
  have e22_22 : fld w 22 22 = 0 := by simp only [fld_eq]; omega
  have e22_19 : fld w 22 19 = 0 := by simp only [fld_eq]; omega
  have e21_12 : fld w 21 12 = r := by simp only [fld_eq]; omega
  have e18_12 : fld w 18 12 = r := by simp only [fld_eq]; omega
  have e11_0 : fld w 11 0 = e := by simp only [fld_eq]; omega
  rw [to05 _ e29_24]
  simp [dec05, immOk_none, immOk_some, immOf_none, immOf_some, immMS, e23_23, e22_22, e22_19, e21_12, e18_12, e11_0]

theorem ld (d a w s : Nat) (o : Imm) : Statement (.ld d a w s o) := by
  intro h _ kk hk
  rcases o with v | v
  · simp only [Instr.wf, Imm.wf, Bool.and_eq_true, Bool.not_eq_true', decide_eq_true_eq, decide_eq_false_iff_not] at h
    obtain rfl : kk = none := by simpa [Instr.kind, Imm.kind, KKind.fits] using hk
    obtain ⟨x, hw⟩ : ∃ x, encodeBody (.ld d a w s (.short v)) = x := ⟨_, rfl⟩
    rw [hw]
    replace hw : 0x06000000 + d * 131072 + a * 1024 + w * 256 + s * 128 + v = x := hw
    have e29_24 : fld x 29 24 = 0x06 := by simp only [fld_eq]; omega
    have e23_17 : fld x 23 17 = d := by simp only [fld_eq]; omega
    have e16_10 : fld x 16 10 = a := by simp only [fld_eq]; omega
    have e9_8 : fld x 9 8 = w := by simp only [fld_eq]; omega
    have e7_7 : fld x 7 7 = s := by simp only [fld_eq]; omega
    have e6_0 : fld x 6 0 = v := by simp only [fld_eq]; omega
    rw [to06 _ e29_24]
    simp [dec06, immOk_none, immOk_some, immOf_none, immOf_some, immMS, e23_17, e16_10, e9_8, e7_7, e6_0] <;> omega
  · simp only [Instr.wf, Imm.wf, Bool.and_eq_true, Bool.not_eq_true', decide_eq_true_eq, decide_eq_false_iff_not] at h
    obtain rfl : kk = some v := by simpa [Instr.kind, Imm.kind, KKind.fits] using hk
    obtain ⟨x, hw⟩ : ∃ x, encodeBody (.ld d a w s (.long v)) = x := ⟨_, rfl⟩
    rw [hw]
    replace hw : 0x06000000 + d * 131072 + a * 1024 + w * 256 + s * 128 + 0 = x := hw
    have e29_24 : fld x 29 24 = 0x06 := by simp only [fld_eq]; omega
    have e23_17 : fld x 23 17 = d := by simp only [fld_eq]; omega
    have e16_10 : fld x 16 10 = a := by simp only [fld_eq]; omega
    have e9_8 : fld x 9 8 = w := by simp only [fld_eq]; omega
    have e7_7 : fld x 7 7 = s := by simp only [fld_eq]; omega
    have e6_0 : fld x 6 0 = 0 := by simp only [fld_eq]; omega
    rw [to06 _ e29_24]
    simp [dec06, immOk_none, immOk_some, immOf_none, immOf_some, immMS, e23_17, e16_10, e9_8, e7_7, e6_0] <;> omega

theorem st (d a w : Nat) (o : Imm) : Statement (.st d a w o) := by
  intro h _ kk hk
  rcases o with v | v
  · simp only [Instr.wf, Imm.wf, Bool.and_eq_true, Bool.not_eq_true', decide_eq_true_eq, decide_eq_false_iff_not] at h
    obtain rfl : kk = none := by simpa [Instr.kind, Imm.kind, KKind.fits] using hk
    obtain ⟨x, hw⟩ : ∃ x, encodeBody (.st d a w (.short v)) = x := ⟨_, rfl⟩
    rw [hw]
    replace hw : 0x07000000 + d * 131072 + a * 1024 + w * 256 + v = x := hw
    have e29_24 : fld x 29 24 = 0x07 := by simp only [fld_eq]; omega
    have e23_17 : fld x 23 17 = d := by simp only [fld_eq]; omega
    have e16_10 : fld x 16 10 = a := by simp only [fld_eq]; omega
    have e9_8 : fld x 9 8 = w := by simp only [fld_eq]; omega
    have e7_7 : fld x 7 7 = 0 := by simp only [fld_eq]; omega
    have e6_0 : fld x 6 0 = v := by simp only [fld_eq]; omega
    rw [to07 _ e29_24]
    simp [dec07, immOk_none, immOk_some, immOf_none, immOf_some, immMS, e23_17, e16_10, e9_8, e7_7, e6_0]
  · simp only [Instr.wf, Imm.wf, Bool.and_eq_true, Bool.not_eq_true', decide_eq_true_eq, decide_eq_false_iff_not] at h
    obtain rfl : kk = some v := by simpa [Instr.kind, Imm.kind, KKind.fits] using hk
    obtain ⟨x, hw⟩ : ∃ x, encodeBody (.st d a w (.long v)) = x := ⟨_, rfl⟩
    rw [hw]
    replace hw : 0x07000000 + d * 131072 + a * 1024 + w * 256 + 0 = x := hw
    have e29_24 : fld x 29 24 = 0x07 := by simp only [fld_eq]; omega
    have e23_17 : fld x 23 17 = d := by simp only [fld_eq]; omega
    have e16_10 : fld x 16 10 = a := by simp only [fld_eq]; omega
    have e9_8 : fld x 9 8 = w := by simp only [fld_eq]; omega
    have e7_7 : fld x 7 7 = 0 := by simp only [fld_eq]; omega
    have e6_0 : fld x 6 0 = 0 := by simp only [fld_eq]; omega
    rw [to07 _ e29_24]
    simp [dec07, immOk_none, immOk_some, immOf_none, immOf_some, immMS, e23_17, e16_10, e9_8, e7_7, e6_0]

theorem lda (d a w s c : Nat) (o : Imm) : Statement (.lda d a w s c o) := by
  intro h _ kk hk
  rcases o with v | v
  · simp only [Instr.wf, Imm.wf, Bool.and_eq_true, Bool.not_eq_true', decide_eq_true_eq, decide_eq_false_iff_not] at h
    obtain rfl : kk = none := by simpa [Instr.kind, Imm.kind, KKind.fits] using hk
    obtain ⟨x, hw⟩ : ∃ x, encodeBody (.lda d a w s c (.short v)) = x := ⟨_, rfl⟩
    rw [hw]
    replace hw : 0x08000000 + d * 131072 + a * 1024 + w * 256 + s * 128 + c * 16 = x := hw
    have e29_24 : fld x 29 24 = 0x08 := by simp only [fld_eq]; omega
    have e23_17 : fld x 23 17 = d := by simp only [fld_eq]; omega
    have e16_10 : fld x 16 10 = a := by simp only [fld_eq]; omega
    have e9_8 : fld x 9 8 = w := by simp only [fld_eq]; omega
    have e7_7 : fld x 7 7 = s := by simp only [fld_eq]; omega
    have e6_4 : fld x 6 4 = c := by simp only [fld_eq]; omega
    have e3_0 : fld x 3 0 = 0 := by simp only [fld_eq]; omega
    rw [to08 _ e29_24]
    simp [dec08, immOk_none, immOk_some, immOf_none, immOf_some, immMS, e23_17, e16_10, e9_8, e7_7, e6_4, e3_0] <;> omega
  · simp only [Instr.wf, Imm.wf, Bool.and_eq_true, Bool.not_eq_true', decide_eq_true_eq, decide_eq_false_iff_not] at h
    obtain rfl : kk = some v := by simpa [Instr.kind, Imm.kind, KKind.fits] using hk
    obtain ⟨x, hw⟩ : ∃ x, encodeBody (.lda d a w s c (.long v)) = x := ⟨_, rfl⟩
    rw [hw]
    replace hw : 0x08000000 + d * 131072 + a * 1024 + w * 256 + s * 128 + c * 16 = x := hw
    have e29_24 : fld x 29 24 = 0x08 := by simp only [fld_eq]; omega
    have e23_17 : fld x 23 17 = d := by simp only [fld_eq]; omega
    have e16_10 : fld x 16 10 = a := by simp only [fld_eq]; omega
    have e9_8 : fld x 9 8 = w := by simp only [fld_eq]; omega
    have e7_7 : fld x 7 7 = s := by simp only [fld_eq]; omega
    have e6_4 : fld x 6 4 = c := by simp only [fld_eq]; omega
    have e3_0 : fld x 3 0 = 0 := by simp only [fld_eq]; omega
    rw [to08 _ e29_24]
    simp [dec08, immOk_none, immOk_some, immOf_none, immOf_some, immMS, e23_17, e16_10, e9_8, e7_7, e6_4, e3_0] <;> omega

theorem stl (d a w c : Nat) (o : Imm) : Statement (.stl d a w c o) := by
  intro h _ kk hk
  rcases o with v | v
  · simp only [Instr.wf, Imm.wf, Bool.and_eq_true, Bool.not_eq_true', decide_eq_true_eq, decide_eq_false_iff_not] at h
    obtain rfl : kk = none := by simpa [Instr.kind, Imm.kind, KKind.fits] using hk
    obtain ⟨x, hw⟩ : ∃ x, encodeBody (.stl d a w c (.short v)) = x := ⟨_, rfl⟩
    rw [hw]
    replace hw : 0x09000000 + d * 131072 + a * 1024 + w * 256 + c * 16 = x := hw
    have e29_24 : fld x 29 24 = 0x09 := by simp only [fld_eq]; omega
    have e23_17 : fld x 23 17 = d := by simp only [fld_eq]; omega
    have e16_10 : fld x 16 10 = a := by simp only [fld_eq]; omega
    have e9_8 : fld x 9 8 = w := by simp only [fld_eq]; omega
    have e7_7 : fld x 7 7 = 0 := by simp only [fld_eq]; omega
    have e6_4 : fld x 6 4 = c := by simp only [fld_eq]; omega
    have e3_0 : fld x 3 0 = 0 := by simp only [fld_eq]; omega
    rw [to09 _ e29_24]
    simp [dec09, immOk_none, immOk_some, immOf_none, immOf_some, immMS, e23_17, e16_10, e9_8, e7_7, e6_4, e3_0] <;> omega
  · simp only [Instr.wf, Imm.wf, Bool.and_eq_true, Bool.not_eq_true', decide_eq_true_eq, decide_eq_false_iff_not] at h
    obtain rfl : kk = some v := by simpa [Instr.kind, Imm.kind, KKind.fits] using hk
    obtain ⟨x, hw⟩ : ∃ x, encodeBody (.stl d a w c (.long v)) = x := ⟨_, rfl⟩
    rw [hw]
    replace hw : 0x09000000 + d * 131072 + a * 1024 + w * 256 + c * 16 = x := hw
    have e29_24 : fld x 29 24 = 0x09 := by simp only [fld_eq]; omega
    have e23_17 : fld x 23 17 = d := by simp only [fld_eq]; omega
    have e16_10 : fld x 16 10 = a := by simp only [fld_eq]; omega
    have e9_8 : fld x 9 8 = w := by simp only [fld_eq]; omega
    have e7_7 : fld x 7 7 = 0 := by simp only [fld_eq]; omega
    have e6_4 : fld x 6 4 = c := by simp only [fld_eq]; omega
    have e3_0 : fld x 3 0 = 0 := by simp only [fld_eq]; omega
    rw [to09 _ e29_24]
    simp [dec09, immOk_none, immOk_some, immOf_none, immOf_some, immMS, e23_17, e16_10, e9_8, e7_7, e6_4, e3_0] <;> omega

theorem ldf (d a s c : Nat) (o : Imm) : Statement (.ldf d a s c o) := by
  intro h _ kk hk
  rcases o with v | v
  · simp only [Instr.wf, Imm.wf, Bool.and_eq_true, Bool.not_eq_true', decide_eq_true_eq, decide_eq_false_iff_not] at h
    obtain rfl : kk = none := by simpa [Instr.kind, Imm.kind, KKind.fits] using hk
    obtain ⟨w, hw⟩ : ∃ w, encodeBody (.ldf d a s c (.short v)) = w := ⟨_, rfl⟩
    rw [hw]
    replace hw : 0x0A000300 + d * 131072 + a * 1024 + s * 128 + c * 16 = w := hw
    have e29_24 : fld w 29 24 = 0x0A := by simp only [fld_eq]; omega
    have e23_17 : fld w 23 17 = d := by simp only [fld_eq]; omega
    have e16_10 : fld w 16 10 = a := by simp only [fld_eq]; omega
    have e9_8 : fld w 9 8 = 3 := by simp only [fld_eq]; omega
    have e7_7 : fld w 7 7 = s := by simp only [fld_eq]; omega
    have e6_4 : fld w 6 4 = c := by simp only [fld_eq]; omega
    have e3_0 : fld w 3 0 = 0 := by simp only [fld_eq]; omega
    rw [to0A _ e29_24]
    simp [dec0A, immOk_none, immOk_some, immOf_none, immOf_some, immMS, e23_17, e16_10, e9_8, e7_7, e6_4, e3_0] <;> omega
  · simp only [Instr.wf, Imm.wf, Bool.and_eq_true, Bool.not_eq_true', decide_eq_true_eq, decide_eq_false_iff_not] at h
    obtain rfl : kk = some v := by simpa [Instr.kind, Imm.kind, KKind.fits] using hk
    obtain ⟨w, hw⟩ : ∃ w, encodeBody (.ldf d a s c (.long v)) = w := ⟨_, rfl⟩
    rw [hw]
    replace hw : 0x0A000300 + d * 131072 + a * 1024 + s * 128 + c * 16 = w := hw
    have e29_24 : fld w 29 24 = 0x0A := by simp only [fld_eq]; omega
    have e23_17 : fld w 23 17 = d := by simp only [fld_eq]; omega
    have e16_10 : fld w 16 10 = a := by simp only [fld_eq]; omega
    have e9_8 : fld w 9 8 = 3 := by simp only [fld_eq]; omega
    have e7_7 : fld w 7 7 = s := by simp only [fld_eq]; omega
    have e6_4 : fld w 6 4 = c := by simp only [fld_eq]; omega
    have e3_0 : fld w 3 0 = 0 := by simp only [fld_eq]; omega
    rw [to0A _ e29_24]
    simp [dec0A, immOk_none, immOk_some, immOf_none, immOf_some, immMS, e23_17, e16_10, e9_8, e7_7, e6_4, e3_0] <;> omega

theorem ldfe (d a s c : Nat) (o : Imm) : Statement (.ldfe d a s c o) := by
  intro h _ kk hk
  rcases o with v | v
  · simp only [Instr.wf, Imm.wf, Bool.and_eq_true, Bool.not_eq_true', decide_eq_true_eq, decide_eq_false_iff_not] at h
    obtain rfl : kk = none := by simpa [Instr.kind, Imm.kind, KKind.fits] using hk
    obtain ⟨w, hw⟩ : ∃ w, encodeBody (.ldfe d a s c (.short v)) = w := ⟨_, rfl⟩
    rw [hw]
    replace hw : 0x0A000301 + d * 131072 + a * 1024 + s * 128 + c * 16 = w := hw
    have e29_24 : fld w 29 24 = 0x0A := by simp only [fld_eq]; omega
    have e23_17 : fld w 23 17 = d := by simp only [fld_eq]; omega
    have e16_10 : fld w 16 10 = a := by simp only [fld_eq]; omega
    have e9_8 : fld w 9 8 = 3 := by simp only [fld_eq]; omega
    have e7_7 : fld w 7 7 = s := by simp only [fld_eq]; omega
    have e6_4 : fld w 6 4 = c := by simp only [fld_eq]; omega
    have e3_0 : fld w 3 0 = 1 := by simp only [fld_eq]; omega
    rw [to0A _ e29_24]
    simp [dec0A, immOk_none, immOk_some, immOf_none, immOf_some, immMS, e23_17, e16_10, e9_8, e7_7, e6_4, e3_0] <;> omega
  · simp only [Instr.wf, Imm.wf, Bool.and_eq_true, Bool.not_eq_true', decide_eq_true_eq, decide_eq_false_iff_not] at h
    obtain rfl : kk = some v := by simpa [Instr.kind, Imm.kind, KKind.fits] using hk
    obtain ⟨w, hw⟩ : ∃ w, encodeBody (.ldfe d a s c (.long v)) = w := ⟨_, rfl⟩
    rw [hw]
    replace hw : 0x0A000301 + d * 131072 + a * 1024 + s * 128 + c * 16 = w := hw
    have e29_24 : fld w 29 24 = 0x0A := by simp only [fld_eq]; omega
    have e23_17 : fld w 23 17 = d := by simp only [fld_eq]; omega
    have e16_10 : fld w 16 10 = a := by simp only [fld_eq]; omega
    have e9_8 : fld w 9 8 = 3 := by simp only [fld_eq]; omega
    have e7_7 : fld w 7 7 = s := by simp only [fld_eq]; omega
    have e6_4 : fld w 6 4 = c := by simp only [fld_eq]; omega
    have e3_0 : fld w 3 0 = 1 := by simp only [fld_eq]; omega
    rw [to0A _ e29_24]
    simp [dec0A, immOk_none, immOk_some, immOf_none, immOf_some, immMS, e23_17, e16_10, e9_8, e7_7, e6_4, e3_0] <;> omega

theorem stf (d a c : Nat) (o : Imm) : Statement (.stf d a c o) := by
  intro h _ kk hk
  rcases o with v | v
  · simp only [Instr.wf, Imm.wf, Bool.and_eq_true, Bool.not_eq_true', decide_eq_true_eq, decide_eq_false_iff_not] at h
    obtain rfl : kk = none := by simpa [Instr.kind, Imm.kind, KKind.fits] using hk
    obtain ⟨w, hw⟩ : ∃ w, encodeBody (.stf d a c (.short v)) = w := ⟨_, rfl⟩
    rw [hw]
    replace hw : 0x0B000300 + d * 131072 + a * 1024 + c * 16 = w := hw
    have e29_24 : fld w 29 24 = 0x0B := by simp only [fld_eq]; omega
    have e23_17 : fld w 23 17 = d := by simp only [fld_eq]; omega
    have e16_10 : fld w 16 10 = a := by simp only [fld_eq]; omega
    have e9_7 : fld w 9 7 = 6 := by simp only [fld_eq]; omega
    have e6_4 : fld w 6 4 = c := by simp only [fld_eq]; omega
    have e3_0 : fld w 3 0 = 0 := by simp only [fld_eq]; omega
    rw [to0B _ e29_24]
    simp [dec0B, immOk_none, immOk_some, immOf_none, immOf_some, immMS, e23_17, e16_10, e9_7, e6_4, e3_0] <;> omega
  · simp only [Instr.wf, Imm.wf, Bool.and_eq_true, Bool.not_eq_true', decide_eq_true_eq, decide_eq_false_iff_not] at h
    obtain rfl : kk = some v := by simpa [Instr.kind, Imm.kind, KKind.fits] using hk
    obtain ⟨w, hw⟩ : ∃ w, encodeBody (.stf d a c (.long v)) = w := ⟨_, rfl⟩
    rw [hw]
    replace hw : 0x0B000300 + d * 131072 + a * 1024 + c * 16 = w := hw
    have e29_24 : fld w 29 24 = 0x0B := by simp only [fld_eq]; omega
    have e23_17 : fld w 23 17 = d := by simp only [fld_eq]; omega
    have e16_10 : fld w 16 10 = a := by simp only [fld_eq]; omega
    have e9_7 : fld w 9 7 = 6 := by simp only [fld_eq]; omega
    have e6_4 : fld w 6 4 = c := by simp only [fld_eq]; omega
    have e3_0 : fld w 3 0 = 0 := by simp only [fld_eq]; omega
    rw [to0B _ e29_24]
    simp [dec0B, immOk_none, immOk_some, immOf_none, immOf_some, immMS, e23_17, e16_10, e9_7, e6_4, e3_0] <;> omega

theorem ste (d a c : Nat) (o : Imm) : Statement (.ste d a c o) := by
  intro h _ kk hk
  rcases o with v | v
  · simp only [Instr.wf, Imm.wf, Bool.and_eq_true, Bool.not_eq_true', decide_eq_true_eq, decide_eq_false_iff_not] at h
    obtain rfl : kk = none := by simpa [Instr.kind, Imm.kind, KKind.fits] using hk
    obtain ⟨w, hw⟩ : ∃ w, encodeBody (.ste d a c (.short v)) = w := ⟨_, rfl⟩
    rw [hw]
    replace hw : 0x0B000301 + d * 131072 + a * 1024 + c * 16 = w := hw
    have e29_24 : fld w 29 24 = 0x0B := by simp only [fld_eq]; omega
    have e23_17 : fld w 23 17 = d := by simp only [fld_eq]; omega
    have e16_10 : fld w 16 10 = a := by simp only [fld_eq]; omega
    have e9_7 : fld w 9 7 = 6 := by simp only [fld_eq]; omega
    have e6_4 : fld w 6 4 = c := by simp only [fld_eq]; omega
    have e3_0 : fld w 3 0 = 1 := by simp only [fld_eq]; omega
    rw [to0B _ e29_24]
    simp [dec0B, immOk_none, immOk_some, immOf_none, immOf_some, immMS, e23_17, e16_10, e9_7, e6_4, e3_0] <;> omega
  · simp only [Instr.wf, Imm.wf, Bool.and_eq_true, Bool.not_eq_true', decide_eq_true_eq, decide_eq_false_iff_not] at h
    obtain rfl : kk = some v := by simpa [Instr.kind, Imm.kind, KKind.fits] using hk
    obtain ⟨w, hw⟩ : ∃ w, encodeBody (.ste d a c (.long v)) = w := ⟨_, rfl⟩
    rw [hw]
    replace hw : 0x0B000301 + d * 131072 + a * 1024 + c * 16 = w := hw
    have e29_24 : fld w 29 24 = 0x0B := by simp only [fld_eq]; omega
    have e23_17 : fld w 23 17 = d := by simp only [fld_eq]; omega
    have e16_10 : fld w 16 10 = a := by simp only [fld_eq]; omega
    have e9_7 : fld w 9 7 = 6 := by simp only [fld_eq]; omega
    have e6_4 : fld w 6 4 = c := by simp only [fld_eq]; omega
    have e3_0 : fld w 3 0 = 1 := by simp only [fld_eq]; omega
    rw [to0B _ e29_24]
    simp [dec0B, immOk_none, immOk_some, immOf_none, immOf_some, immMS, e23_17, e16_10, e9_7, e6_4, e3_0] <;> omega

theorem sete (a c : Nat) (o : Imm) : Statement (.sete a c o) := by
  intro h _ kk hk
  rcases o with v | v
  · simp only [Instr.wf, Imm.wf, Bool.and_eq_true, Bool.not_eq_true', decide_eq_true_eq, decide_eq_false_iff_not] at h
    obtain rfl : kk = none := by simpa [Instr.kind, Imm.kind, KKind.fits] using hk
    obtain ⟨w, hw⟩ : ∃ w, encodeBody (.sete a c (.short v)) = w := ⟨_, rfl⟩
    rw [hw]
    replace hw : 0x0B000302 + a * 1024 + c * 16 = w := hw
    have e29_24 : fld w 29 24 = 0x0B := by simp only [fld_eq]; omega
    have e23_17 : fld w 23 17 = 0 := by simp only [fld_eq]; omega
    have e16_10 : fld w 16 10 = a := by simp only [fld_eq]; omega
    have e9_7 : fld w 9 7 = 6 := by simp only [fld_eq]; omega
    have e6_4 : fld w 6 4 = c := by simp only [fld_eq]; omega
    have e3_0 : fld w 3 0 = 2 := by simp only [fld_eq]; omega
    rw [to0B _ e29_24]
    simp [dec0B, immOk_none, immOk_some, immOf_none, immOf_some, immMS, e23_17, e16_10, e9_7, e6_4, e3_0] <;> omega
  · simp only [Instr.wf, Imm.wf, Bool.and_eq_true, Bool.not_eq_true', decide_eq_true_eq, decide_eq_false_iff_not] at h
    obtain rfl : kk = some v := by simpa [Instr.kind, Imm.kind, KKind.fits] using hk
    obtain ⟨w, hw⟩ : ∃ w, encodeBody (.sete a c (.long v)) = w := ⟨_, rfl⟩
    rw [hw]
    replace hw : 0x0B000302 + a * 1024 + c * 16 = w := hw
    have e29_24 : fld w 29 24 = 0x0B := by simp only [fld_eq]; omega
    have e23_17 : fld w 23 17 = 0 := by simp only [fld_eq]; omega
    have e16_10 : fld w 16 10 = a := by simp only [fld_eq]; omega
    have e9_7 : fld w 9 7 = 6 := by simp only [fld_eq]; omega
    have e6_4 : fld w 6 4 = c := by simp only [fld_eq]; omega
    have e3_0 : fld w 3 0 = 2 := by simp only [fld_eq]; omega
    rw [to0B _ e29_24]
    simp [dec0B, immOk_none, immOk_some, immOf_none, immOf_some, immMS, e23_17, e16_10, e9_7, e6_4, e3_0] <;> omega

theorem setf (a c : Nat) (o : Imm) : Statement (.setf a c o) := by
  intro h _ kk hk
  rcases o with v | v
  · simp only [Instr.wf, Imm.wf, Bool.and_eq_true, Bool.not_eq_true', decide_eq_true_eq, decide_eq_false_iff_not] at h
    obtain rfl : kk = none := by simpa [Instr.kind, Imm.kind, KKind.fits] using hk
    obtain ⟨w, hw⟩ : ∃ w, encodeBody (.setf a c (.short v)) = w := ⟨_, rfl⟩
    rw [hw]
    replace hw : 0x0B000303 + a * 1024 + c * 16 = w := hw
    have e29_24 : fld w 29 24 = 0x0B := by simp only [fld_eq]; omega
    have e23_17 : fld w 23 17 = 0 := by simp only [fld_eq]; omega
    have e16_10 : fld w 16 10 = a := by simp only [fld_eq]; omega
    have e9_7 : fld w 9 7 = 6 := by simp only [fld_eq]; omega
    have e6_4 : fld w 6 4 = c := by simp only [fld_eq]; omega
    have e3_0 : fld w 3 0 = 3 := by simp only [fld_eq]; omega
    rw [to0B _ e29_24]
    simp [dec0B, immOk_none, immOk_some, immOf_none, immOf_some, immMS, e23_17, e16_10, e9_7, e6_4, e3_0] <;> omega
  · simp only [Instr.wf, Imm.wf, Bool.and_eq_true, Bool.not_eq_true', decide_eq_true_eq, decide_eq_false_iff_not] at h
    obtain rfl : kk = some v := by simpa [Instr.kind, Imm.kind, KKind.fits] using hk
    obtain ⟨w, hw⟩ : ∃ w, encodeBody (.setf a c (.long v)) = w := ⟨_, rfl⟩
    rw [hw]
    replace hw : 0x0B000303 + a * 1024 + c * 16 = w := hw
    have e29_24 : fld w 29 24 = 0x0B := by simp only [fld_eq]; omega
    have e23_17 : fld w 23 17 = 0 := by simp only [fld_eq]; omega
    have e16_10 : fld w 16 10 = a := by simp only [fld_eq]; omega
    have e9_7 : fld w 9 7 = 6 := by simp only [fld_eq]; omega
    have e6_4 : fld w 6 4 = c := by simp only [fld_eq]; omega
    have e3_0 : fld w 3 0 = 3 := by simp only [fld_eq]; omega
    rw [to0B _ e29_24]
    simp [dec0B, immOk_none, immOk_some, immOf_none, immOf_some, immMS, e23_17, e16_10, e9_7, e6_4, e3_0] <;> omega

theorem amoWAdd (d a b : Nat) : Statement (.amoWAdd d a b) :=
  g3 0x0C000000 .amoWAdd (by decide) (fun _ _ _ => rfl) (fun _ _ _ => rfl) (fun k w h1 h2 => by
    rw [to0C k h1]; simp only [dec0C, h2]; rfl) d a b

theorem amoWSwap (d a b : Nat) : Statement (.amoWSwap d a b) :=
  g3 0x0C000001 .amoWSwap (by decide) (fun _ _ _ => rfl) (fun _ _ _ => rfl) (fun k w h1 h2 => by
    rw [to0C k h1]; simp only [dec0C, h2]; rfl) d a b

theorem amoWAnd (d a b : Nat) : Statement (.amoWAnd d a b) :=
  g3 0x0C000002 .amoWAnd (by decide) (fun _ _ _ => rfl) (fun _ _ _ => rfl) (fun k w h1 h2 => by
    rw [to0C k h1]; simp only [dec0C, h2]; rfl) d a b

theorem amoWOr (d a b : Nat) : Statement (.amoWOr d a b) :=
  g3 0x0C000003 .amoWOr (by decide) (fun _ _ _ => rfl) (fun _ _ _ => rfl) (fun k w h1 h2 => by
    rw [to0C k h1]; simp only [dec0C, h2]; rfl) d a b

theorem amoWSmin (d a b : Nat) : Statement (.amoWSmin d a b) :=
  g3 0x0C000004 .amoWSmin (by decide) (fun _ _ _ => rfl) (fun _ _ _ => rfl) (fun k w h1 h2 => by
    rw [to0C k h1]; simp only [dec0C, h2]; rfl) d a b

theorem amoWSmax (d a b : Nat) : Statement (.amoWSmax d a b) :=
  g3 0x0C000005 .amoWSmax (by decide) (fun _ _ _ => rfl) (fun _ _ _ => rfl) (fun k w h1 h2 => by
    rw [to0C k h1]; simp only [dec0C, h2]; rfl) d a b

theorem amoWUmin (d a b : Nat) : Statement (.amoWUmin d a b) :=
  g3 0x0C000006 .amoWUmin (by decide) (fun _ _ _ => rfl) (fun _ _ _ => rfl) (fun k w h1 h2 => by
    rw [to0C k h1]; simp only [dec0C, h2]; rfl) d a b

theorem amoWUmax (d a b : Nat) : Statement (.amoWUmax d a b) :=
  g3 0x0C000007 .amoWUmax (by decide) (fun _ _ _ => rfl) (fun _ _ _ => rfl) (fun k w h1 h2 => by
    rw [to0C k h1]; simp only [dec0C, h2]; rfl) d a b

theorem amoDAdd (d a b : Nat) : Statement (.amoDAdd d a b) :=
  g3 0x0D000000 .amoDAdd (by decide) (fun _ _ _ => rfl) (fun _ _ _ => rfl) (fun k w h1 h2 => by
    rw [to0D k h1]; simp only [dec0D, h2]; rfl) d a b

theorem amoDSwap (d a b : Nat) : Statement (.amoDSwap d a b) :=
  g3 0x0D000001 .amoDSwap (by decide) (fun _ _ _ => rfl) (fun _ _ _ => rfl) (fun k w h1 h2 => by
    rw [to0D k h1]; simp only [dec0D, h2]; rfl) d a b

theorem amoDAnd (d a b : Nat) : Statement (.amoDAnd d a b) :=
  g3 0x0D000002 .amoDAnd (by decide) (fun _ _ _ => rfl) (fun _ _ _ => rfl) (fun k w h1 h2 => by
    rw [to0D k h1]; simp only [dec0D, h2]; rfl) d a b

theorem amoDOr (d a b : Nat) : Statement (.amoDOr d a b) :=
  g3 0x0D000003 .amoDOr (by decide) (fun _ _ _ => rfl) (fun _ _ _ => rfl) (fun k w h1 h2 => by
    rw [to0D k h1]; simp only [dec0D, h2]; rfl) d a b

theorem amoDSmin (d a b : Nat) : Statement (.amoDSmin d a b) :=
  g3 0x0D000004 .amoDSmin (by decide) (fun _ _ _ => rfl) (fun _ _ _ => rfl) (fun k w h1 h2 => by
    rw [to0D k h1]; simp only [dec0D, h2]; rfl) d a b

theorem amoDSmax (d a b : Nat) : Statement (.amoDSmax d a b) :=
  g3 0x0D000005 .amoDSmax (by decide) (fun _ _ _ => rfl) (fun _ _ _ => rfl) (fun k w h1 h2 => by
    rw [to0D k h1]; simp only [dec0D, h2]; rfl) d a b

theorem amoDUmin (d a b : Nat) : Statement (.amoDUmin d a b) :=
  g3 0x0D000006 .amoDUmin (by decide) (fun _ _ _ => rfl) (fun _ _ _ => rfl) (fun k w h1 h2 => by
    rw [to0D k h1]; simp only [dec0D, h2]; rfl) d a b

theorem amoDUmax (d a b : Nat) : Statement (.amoDUmax d a b) :=
  g3 0x0D000007 .amoDUmax (by decide) (fun _ _ _ => rfl) (fun _ _ _ => rfl) (fun k w h1 h2 => by
    rw [to0D k h1]; simp only [dec0D, h2]; rfl) d a b

theorem casW (d a b : Nat) : Statement (.casW d a b) :=
  g3 0x0E000000 .casW (by decide) (fun _ _ _ => rfl) (fun _ _ _ => rfl) (fun k w h1 h2 => by
    rw [to0E k h1]; simp only [dec0E, h2]; rfl) d a b

theorem casD (d a b : Nat) : Statement (.casD d a b) :=
  g3 0x0E000001 .casD (by decide) (fun _ _ _ => rfl) (fun _ _ _ => rfl) (fun k w h1 h2 => by
    rw [to0E k h1]; simp only [dec0E, h2]; rfl) d a b

theorem faggW (d a b : Nat) : Statement (.faggW d a b) :=
  g3 0x0F000000 .faggW (by decide) (fun _ _ _ => rfl) (fun _ _ _ => rfl) (fun k w h1 h2 => by
    rw [to0F k h1]; simp only [dec0F, h2]; rfl) d a b

theorem faggD (d a b : Nat) : Statement (.faggD d a b) :=
  g3 0x0F000001 .faggD (by decide) (fun _ _ _ => rfl) (fun _ _ _ => rfl) (fun k w h1 h2 => by
    rw [to0F k h1]; simp only [dec0F, h2]; rfl) d a b

theorem fence (s : Nat) : Statement (.fence s) := by
  intro h _ kk hk
  simp only [Instr.wf, Imm.wf, Bool.and_eq_true, Bool.not_eq_true', decide_eq_true_eq, decide_eq_false_iff_not] at h
  obtain ⟨w, hw⟩ : ∃ w, encodeBody (.fence s) = w := ⟨_, rfl⟩
  rw [hw]
  replace hw : 0x10000000 + s * 1024 = w := hw
  have e29_24 : fld w 29 24 = 0x10 := by simp only [fld_eq]; omega
  have e23_17 : fld w 23 17 = 0 := by simp only [fld_eq]; omega
  have e16_10 : fld w 16 10 = s := by simp only [fld_eq]; omega
  have e9_0 : fld w 9 0 = 0 := by simp only [fld_eq]; omega
  rw [to10 _ e29_24]
  simp [dec10, immOk_none, immOk_some, immOf_none, immOf_some, immMS, e23_17, e16_10, e9_0] <;> omega

theorem fenceSs (s : Nat) : Statement (.fenceSs s) := by
  intro h _ kk hk
  simp only [Instr.wf, Imm.wf, Bool.and_eq_true, Bool.not_eq_true', decide_eq_true_eq, decide_eq_false_iff_not] at h
  obtain ⟨w, hw⟩ : ∃ w, encodeBody (.fenceSs s) = w := ⟨_, rfl⟩
  rw [hw]
  replace hw : 0x10000001 + s * 1024 = w := hw
  have e29_24 : fld w 29 24 = 0x10 := by simp only [fld_eq]; omega
  have e23_17 : fld w 23 17 = 0 := by simp only [fld_eq]; omega
  have e16_10 : fld w 16 10 = s := by simp only [fld_eq]; omega
  have e9_0 : fld w 9 0 = 1 := by simp only [fld_eq]; omega
  rw [to10 _ e29_24]
  simp [dec10, immOk_none, immOk_some, immOf_none, immOf_some, immMS, e23_17, e16_10, e9_0] <;> omega

theorem fenceLa (s : Nat) : Statement (.fenceLa s) := by
  intro h _ kk hk
  simp only [Instr.wf, Imm.wf, Bool.and_eq_true, Bool.not_eq_true', decide_eq_true_eq, decide_eq_false_iff_not] at h
  obtain ⟨w, hw⟩ : ∃ w, encodeBody (.fenceLa s) = w := ⟨_, rfl⟩
  rw [hw]
  replace hw : 0x10000002 + s * 1024 = w := hw
  have e29_24 : fld w 29 24 = 0x10 := by simp only [fld_eq]; omega
  have e23_17 : fld w 23 17 = 0 := by simp only [fld_eq]; omega
  have e16_10 : fld w 16 10 = s := by simp only [fld_eq]; omega
  have e9_0 : fld w 9 0 = 2 := by simp only [fld_eq]; omega
  rw [to10 _ e29_24]
  simp [dec10, immOk_none, immOk_some, immOf_none, immOf_some, immMS, e23_17, e16_10, e9_0] <;> omega

theorem cmoClean (d a b : Nat) : Statement (.cmoClean d a b) := by
  intro h _ kk hk
  simp only [Instr.wf, Imm.wf, Bool.and_eq_true, Bool.not_eq_true', decide_eq_true_eq, decide_eq_false_iff_not] at h
  obtain ⟨w, hw⟩ : ∃ w, encodeBody (.cmoClean d a b) = w := ⟨_, rfl⟩
  rw [hw]
  replace hw : 0x11000000 + d * 131072 + a * 1024 + b * 8 = w := hw
  have e29_24 : fld w 29 24 = 0x11 := by simp only [fld_eq]; omega
  have e23_17 : fld w 23 17 = d := by simp only [fld_eq]; omega
  have e16_10 : fld w 16 10 = a := by simp only [fld_eq]; omega
  have e9_3 : fld w 9 3 = b := by simp only [fld_eq]; omega
  have e2_0 : fld w 2 0 = 0 := by simp only [fld_eq]; omega
  rw [to11 _ e29_24]
  simp [dec11, immOk_none, immOk_some, immOf_none, immOf_some, immMS, e23_17, e16_10, e9_3, e2_0] <;> omega

theorem cmoInval (d a b : Nat) : Statement (.cmoInval d a b) := by
  intro h _ kk hk
  simp only [Instr.wf, Imm.wf, Bool.and_eq_true, Bool.not_eq_true', decide_eq_true_eq, decide_eq_false_iff_not] at h
  obtain ⟨w, hw⟩ : ∃ w, encodeBody (.cmoInval d a b) = w := ⟨_, rfl⟩
  rw [hw]
  replace hw : 0x11000001 + d * 131072 + a * 1024 + b * 8 = w := hw
  have e29_24 : fld w 29 24 = 0x11 := by simp only [fld_eq]; omega
  have e23_17 : fld w 23 17 = d := by simp only [fld_eq]; omega
  have e16_10 : fld w 16 10 = a := by simp only [fld_eq]; omega
  have e9_3 : fld w 9 3 = b := by simp only [fld_eq]; omega
  have e2_0 : fld w 2 0 = 1 := by simp only [fld_eq]; omega
  rw [to11 _ e29_24]
  simp [dec11, immOk_none, immOk_some, immOf_none, immOf_some, immMS, e23_17, e16_10, e9_3, e2_0] <;> omega

theorem cmoClinv (d a b : Nat) : Statement (.cmoClinv d a b) := by
  intro h _ kk hk
  simp only [Instr.wf, Imm.wf, Bool.and_eq_true, Bool.not_eq_true', decide_eq_true_eq, decide_eq_false_iff_not] at h
  obtain ⟨w, hw⟩ : ∃ w, encodeBody (.cmoClinv d a b) = w := ⟨_, rfl⟩
  rw [hw]
  replace hw : 0x11000002 + d * 131072 + a * 1024 + b * 8 = w := hw
  have e29_24 : fld w 29 24 = 0x11 := by simp only [fld_eq]; omega
  have e23_17 : fld w 23 17 = d := by simp only [fld_eq]; omega
  have e16_10 : fld w 16 10 = a := by simp only [fld_eq]; omega
  have e9_3 : fld w 9 3 = b := by simp only [fld_eq]; omega
  have e2_0 : fld w 2 0 = 2 := by simp only [fld_eq]; omega
  rw [to11 _ e29_24]
  simp [dec11, immOk_none, immOk_some, immOf_none, immOf_some, immMS, e23_17, e16_10, e9_3, e2_0] <;> omega

theorem cmoPref (d a b : Nat) : Statement (.cmoPref d a b) := by
  intro h _ kk hk
  simp only [Instr.wf, Imm.wf, Bool.and_eq_true, Bool.not_eq_true', decide_eq_true_eq, decide_eq_false_iff_not] at h
  obtain ⟨w, hw⟩ : ∃ w, encodeBody (.cmoPref d a b) = w := ⟨_, rfl⟩
  rw [hw]
  replace hw : 0x11000003 + d * 131072 + a * 1024 + b * 8 = w := hw
  have e29_24 : fld w 29 24 = 0x11 := by simp only [fld_eq]; omega
  have e23_17 : fld w 23 17 = d := by simp only [fld_eq]; omega
  have e16_10 : fld w 16 10 = a := by simp only [fld_eq]; omega
  have e9_3 : fld w 9 3 = b := by simp only [fld_eq]; omega
  have e2_0 : fld w 2 0 = 3 := by simp only [fld_eq]; omega
  rw [to11 _ e29_24]
  simp [dec11, immOk_none, immOk_some, immOf_none, immOf_some, immMS, e23_17, e16_10, e9_3, e2_0] <;> omega

theorem cmoZero (d a b : Nat) : Statement (.cmoZero d a b) := by
  intro h _ kk hk
  simp only [Instr.wf, Imm.wf, Bool.and_eq_true, Bool.not_eq_true', decide_eq_true_eq, decide_eq_false_iff_not] at h
  obtain ⟨w, hw⟩ : ∃ w, encodeBody (.cmoZero d a b) = w := ⟨_, rfl⟩
  rw [hw]
  replace hw : 0x11000004 + d * 131072 + a * 1024 + b * 8 = w := hw
  have e29_24 : fld w 29 24 = 0x11 := by simp only [fld_eq]; omega
  have e23_17 : fld w 23 17 = d := by simp only [fld_eq]; omega
  have e16_10 : fld w 16 10 = a := by simp only [fld_eq]; omega
  have e9_3 : fld w 9 3 = b := by simp only [fld_eq]; omega
  have e2_0 : fld w 2 0 = 4 := by simp only [fld_eq]; omega
  rw [to11 _ e29_24]
  simp [dec11, immOk_none, immOk_some, immOf_none, immOf_some, immMS, e23_17, e16_10, e9_3, e2_0] <;> omega

theorem cpy (a x m : Nat) : Statement (.cpy a x m) := by
  intro h _ kk hk
  simp only [Instr.wf, Imm.wf, Bool.and_eq_true, Bool.not_eq_true', decide_eq_true_eq, decide_eq_false_iff_not] at h
  obtain ⟨w, hw⟩ : ∃ w, encodeBody (.cpy a x m) = w := ⟨_, rfl⟩
  rw [hw]
  replace hw : 0x12000000 + a * 131072 + x * 2048 + m * 32 = w := hw
  have e29_24 : fld w 29 24 = 0x12 := by simp only [fld_eq]; omega
  have e23_17 : fld w 23 17 = a := by simp only [fld_eq]; omega
  have e16_11 : fld w 16 11 = x := by simp only [fld_eq]; omega
  have e10_6 : fld w 10 6 = 0 := by simp only [fld_eq]; omega
  have e5_5 : fld w 5 5 = m := by simp only [fld_eq]; omega
  have e4_0 : fld w 4 0 = 0 := by simp only [fld_eq]; omega
  rw [to12 _ e29_24]
  simp [dec12, immOk_none, immOk_some, immOf_none, immOf_some, immMS, e23_17, e16_11, e10_6, e5_5, e4_0]

theorem cpyf (a x m : Nat) : Statement (.cpyf a x m) := by
  intro h _ kk hk
  simp only [Instr.wf, Imm.wf, Bool.and_eq_true, Bool.not_eq_true', decide_eq_true_eq, decide_eq_false_iff_not] at h
  obtain ⟨w, hw⟩ : ∃ w, encodeBody (.cpyf a x m) = w := ⟨_, rfl⟩
  rw [hw]
  replace hw : 0x12000040 + a * 131072 + x * 2048 + m * 32 = w := hw
  have e29_24 : fld w 29 24 = 0x12 := by simp only [fld_eq]; omega
  have e23_17 : fld w 23 17 = a := by simp only [fld_eq]; omega
  have e16_11 : fld w 16 11 = x := by simp only [fld_eq]; omega
  have e10_6 : fld w 10 6 = 1 := by simp only [fld_eq]; omega
  have e5_5 : fld w 5 5 = m := by simp only [fld_eq]; omega
  have e4_0 : fld w 4 0 = 0 := by simp only [fld_eq]; omega
  rw [to12 _ e29_24]
  simp [dec12, immOk_none, immOk_some, immOf_none, immOf_some, immMS, e23_17, e16_11, e10_6, e5_5, e4_0]

theorem cpyg (a x m : Nat) : Statement (.cpyg a x m) := by
  intro h _ kk hk
  simp only [Instr.wf, Imm.wf, Bool.and_eq_true, Bool.not_eq_true', decide_eq_true_eq, decide_eq_false_iff_not] at h
  obtain ⟨w, hw⟩ : ∃ w, encodeBody (.cpyg a x m) = w := ⟨_, rfl⟩
  rw [hw]
  replace hw : 0x12000080 + a * 131072 + x * 2048 + m * 32 = w := hw
  have e29_24 : fld w 29 24 = 0x12 := by simp only [fld_eq]; omega
  have e23_17 : fld w 23 17 = a := by simp only [fld_eq]; omega
  have e16_11 : fld w 16 11 = x := by simp only [fld_eq]; omega
  have e10_6 : fld w 10 6 = 2 := by simp only [fld_eq]; omega
  have e5_5 : fld w 5 5 = m := by simp only [fld_eq]; omega
  have e4_0 : fld w 4 0 = 0 := by simp only [fld_eq]; omega
  rw [to12 _ e29_24]
  simp [dec12, immOk_none, immOk_some, immOf_none, immOf_some, immMS, e23_17, e16_11, e10_6, e5_5, e4_0]

theorem cpyp (a x m p : Nat) : Statement (.cpyp a x m p) := by
  intro h _ kk hk
  simp only [Instr.wf, Imm.wf, Bool.and_eq_true, Bool.not_eq_true', decide_eq_true_eq, decide_eq_false_iff_not] at h
  obtain ⟨w, hw⟩ : ∃ w, encodeBody (.cpyp a x m p) = w := ⟨_, rfl⟩
  rw [hw]
  replace hw : 0x120000C0 + a * 131072 + x * 2048 + m * 32 + p = w := hw
  have e29_24 : fld w 29 24 = 0x12 := by simp only [fld_eq]; omega
  have e23_17 : fld w 23 17 = a := by simp only [fld_eq]; omega
  have e16_11 : fld w 16 11 = x := by simp only [fld_eq]; omega
  have e10_6 : fld w 10 6 = 3 := by simp only [fld_eq]; omega
  have e5_5 : fld w 5 5 = m := by simp only [fld_eq]; omega
  have e4_0 : fld w 4 0 = p := by simp only [fld_eq]; omega
  rw [to12 _ e29_24]
  simp [dec12, immOk_none, immOk_some, immOf_none, immOf_some, immMS, e23_17, e16_11, e10_6, e5_5, e4_0]

theorem cpyr (a x m r : Nat) : Statement (.cpyr a x m r) := by
  intro h _ kk hk
  simp only [Instr.wf, Imm.wf, Bool.and_eq_true, Bool.not_eq_true', decide_eq_true_eq, decide_eq_false_iff_not] at h
  obtain ⟨w, hw⟩ : ∃ w, encodeBody (.cpyr a x m r) = w := ⟨_, rfl⟩
  rw [hw]
  replace hw : 0x12000100 + a * 131072 + x * 2048 + m * 32 + r = w := hw
  have e29_24 : fld w 29 24 = 0x12 := by simp only [fld_eq]; omega
  have e23_17 : fld w 23 17 = a := by simp only [fld_eq]; omega
  have e16_11 : fld w 16 11 = x := by simp only [fld_eq]; omega
  have e10_6 : fld w 10 6 = 4 := by simp only [fld_eq]; omega
  have e5_5 : fld w 5 5 = m := by simp only [fld_eq]; omega
  have e4_4 : fld w 4 4 = 0 := by simp only [fld_eq]; omega
  have e4_0 : fld w 4 0 = r := by simp only [fld_eq]; omega
  have e3_0 : fld w 3 0 = r := by simp only [fld_eq]; omega
  rw [to12 _ e29_24]
  simp [dec12, immOk_none, immOk_some, immOf_none, immOf_some, immMS, e23_17, e16_11, e10_6, e5_5, e4_4, e4_0, e3_0]

theorem cpys (a x m : Nat) : Statement (.cpys a x m) := by
  intro h _ kk hk
  simp only [Instr.wf, Imm.wf, Bool.and_eq_true, Bool.not_eq_true', decide_eq_true_eq, decide_eq_false_iff_not] at h
  obtain ⟨w, hw⟩ : ∃ w, encodeBody (.cpys a x m) = w := ⟨_, rfl⟩
  rw [hw]
  replace hw : 0x12000140 + a * 131072 + x * 2048 + m * 32 = w := hw
  have e29_24 : fld w 29 24 = 0x12 := by simp only [fld_eq]; omega
  have e23_17 : fld w 23 17 = a := by simp only [fld_eq]; omega
  have e16_11 : fld w 16 11 = x := by simp only [fld_eq]; omega
  have e10_6 : fld w 10 6 = 5 := by simp only [fld_eq]; omega
  have e5_5 : fld w 5 5 = m := by simp only [fld_eq]; omega
  have e4_4 : fld w 4 4 = 0 := by simp only [fld_eq]; omega
  have e4_0 : fld w 4 0 = 0 := by simp only [fld_eq]; omega
  have e3_0 : fld w 3 0 = 0 := by simp only [fld_eq]; omega
  rw [to12 _ e29_24]
  simp [dec12, immOk_none, immOk_some, immOf_none, immOf_some, immMS, e23_17, e16_11, e10_6, e5_5, e4_4, e4_0, e3_0]

theorem twall (d a : Nat) : Statement (.twall d a) := by
  intro h _ kk hk
  simp only [Instr.wf, Imm.wf, Bool.and_eq_true, Bool.not_eq_true', decide_eq_true_eq, decide_eq_false_iff_not] at h
  obtain ⟨w, hw⟩ : ∃ w, encodeBody (.twall d a) = w := ⟨_, rfl⟩
  rw [hw]
  replace hw : 0x13000000 + d * 131072 + a * 1024 = w := hw
  have e29_24 : fld w 29 24 = 0x13 := by simp only [fld_eq]; omega
  have e23_17 : fld w 23 17 = d := by simp only [fld_eq]; omega
  have e16_10 : fld w 16 10 = a := by simp only [fld_eq]; omega
  have e9_0 : fld w 9 0 = 0 := by simp only [fld_eq]; omega
  rw [to13 _ e29_24]
  simp [dec13, immOk_none, immOk_some, immOf_none, immOf_some, immMS, e23_17, e16_10, e9_0]

theorem twany (d a : Nat) : Statement (.twany d a) := by
  intro h _ kk hk
  simp only [Instr.wf, Imm.wf, Bool.and_eq_true, Bool.not_eq_true', decide_eq_true_eq, decide_eq_false_iff_not] at h
  obtain ⟨w, hw⟩ : ∃ w, encodeBody (.twany d a) = w := ⟨_, rfl⟩
  rw [hw]
  replace hw : 0x13000001 + d * 131072 + a * 1024 = w := hw
  have e29_24 : fld w 29 24 = 0x13 := by simp only [fld_eq]; omega
  have e23_17 : fld w 23 17 = d := by simp only [fld_eq]; omega
  have e16_10 : fld w 16 10 = a := by simp only [fld_eq]; omega
  have e9_0 : fld w 9 0 = 1 := by simp only [fld_eq]; omega
  rw [to13 _ e29_24]
  simp [dec13, immOk_none, immOk_some, immOf_none, immOf_some, immMS, e23_17, e16_10, e9_0]

theorem tffr (d a : Nat) : Statement (.tffr d a) := by
  intro h _ kk hk
  simp only [Instr.wf, Imm.wf, Bool.and_eq_true, Bool.not_eq_true', decide_eq_true_eq, decide_eq_false_iff_not] at h
  obtain ⟨w, hw⟩ : ∃ w, encodeBody (.tffr d a) = w := ⟨_, rfl⟩
  rw [hw]
  replace hw : 0x13000002 + d * 131072 + a * 1024 = w := hw
  have e29_24 : fld w 29 24 = 0x13 := by simp only [fld_eq]; omega
  have e23_17 : fld w 23 17 = d := by simp only [fld_eq]; omega
  have e16_10 : fld w 16 10 = a := by simp only [fld_eq]; omega
  have e9_0 : fld w 9 0 = 2 := by simp only [fld_eq]; omega
  rw [to13 _ e29_24]
  simp [dec13, immOk_none, immOk_some, immOf_none, immOf_some, immMS, e23_17, e16_10, e9_0]

theorem tclr (a : Nat) : Statement (.tclr a) := by
  intro h _ kk hk
  simp only [Instr.wf, Imm.wf, Bool.and_eq_true, Bool.not_eq_true', decide_eq_true_eq, decide_eq_false_iff_not] at h
  obtain ⟨w, hw⟩ : ∃ w, encodeBody (.tclr a) = w := ⟨_, rfl⟩
  rw [hw]
  replace hw : 0x13000003 + a * 1024 = w := hw
  have e29_24 : fld w 29 24 = 0x13 := by simp only [fld_eq]; omega
  have e23_17 : fld w 23 17 = 0 := by simp only [fld_eq]; omega
  have e16_10 : fld w 16 10 = a := by simp only [fld_eq]; omega
  have e9_0 : fld w 9 0 = 3 := by simp only [fld_eq]; omega
  rw [to13 _ e29_24]
  simp [dec13, immOk_none, immOk_some, immOf_none, immOf_some, immMS, e23_17, e16_10, e9_0]

theorem mma (r s c f p z q m : Nat) : Statement (.mma r s c f p z q m) := by
  intro h _ kk hk
  simp only [Instr.wf, Imm.wf, Bool.and_eq_true, Bool.not_eq_true', decide_eq_true_eq, decide_eq_false_iff_not] at h
  obtain ⟨w, hw⟩ : ∃ w, encodeBody (.mma r s c f p z q m) = w := ⟨_, rfl⟩
  rw [hw]
  replace hw : 0x14000000 + r * 1048576 + s * 65536 + c * 32768 + f * 2048 + p * 512 + z * 256 + q * 128 + m * 4 = w := hw
  have e29_24 : fld w 29 24 = 0x14 := by simp only [fld_eq]; omega
  have e23_20 : fld w 23 20 = r := by simp only [fld_eq]; omega
  have e19_16 : fld w 19 16 = s := by simp only [fld_eq]; omega
  have e15_15 : fld w 15 15 = c := by simp only [fld_eq]; omega
  have e14_11 : fld w 14 11 = f := by simp only [fld_eq]; omega
  have e10_9 : fld w 10 9 = p := by simp only [fld_eq]; omega
  have e8_8 : fld w 8 8 = z := by simp only [fld_eq]; omega
  have e7_7 : fld w 7 7 = q := by simp only [fld_eq]; omega
  have e6_2 : fld w 6 2 = m := by simp only [fld_eq]; omega
  have e1_0 : fld w 1 0 = 0 := by simp only [fld_eq]; omega
  rw [to14 _ e29_24]
  simp [dec14, immOk_none, immOk_some, immOf_none, immOf_some, immMS, e23_20, e19_16, e15_15, e14_11, e10_9, e8_8, e7_7, e6_2, e1_0] <;> omega

theorem aclr (a b : Nat) : Statement (.aclr a b) := by
  intro h _ kk hk
  simp only [Instr.wf, Imm.wf, Bool.and_eq_true, Bool.not_eq_true', decide_eq_true_eq, decide_eq_false_iff_not] at h
  obtain ⟨w, hw⟩ : ∃ w, encodeBody (.aclr a b) = w := ⟨_, rfl⟩
  rw [hw]
  replace hw : 0x15000000 + a * 1024 + b * 8 = w := hw
  have e29_24 : fld w 29 24 = 0x15 := by simp only [fld_eq]; omega
  have e23_17 : fld w 23 17 = 0 := by simp only [fld_eq]; omega
  have e16_10 : fld w 16 10 = a := by simp only [fld_eq]; omega
  have e9_3 : fld w 9 3 = b := by simp only [fld_eq]; omega
  have e2_0 : fld w 2 0 = 0 := by simp only [fld_eq]; omega
  rw [to15 _ e29_24]
  simp [dec15, immOk_none, immOk_some, immOf_none, immOf_some, immMS, e23_17, e16_10, e9_3, e2_0] <;> omega

theorem asto (a b : Nat) : Statement (.asto a b) := by
  intro h _ kk hk
  simp only [Instr.wf, Imm.wf, Bool.and_eq_true, Bool.not_eq_true', decide_eq_true_eq, decide_eq_false_iff_not] at h
  obtain ⟨w, hw⟩ : ∃ w, encodeBody (.asto a b) = w := ⟨_, rfl⟩
  rw [hw]
  replace hw : 0x15000001 + a * 1024 + b * 8 = w := hw
  have e29_24 : fld w 29 24 = 0x15 := by simp only [fld_eq]; omega
  have e23_17 : fld w 23 17 = 0 := by simp only [fld_eq]; omega
  have e16_10 : fld w 16 10 = a := by simp only [fld_eq]; omega
  have e9_3 : fld w 9 3 = b := by simp only [fld_eq]; omega
  have e2_0 : fld w 2 0 = 1 := by simp only [fld_eq]; omega
  rw [to15 _ e29_24]
  simp [dec15, immOk_none, immOk_some, immOf_none, immOf_some, immMS, e23_17, e16_10, e9_3, e2_0] <;> omega

theorem ald (a b : Nat) : Statement (.ald a b) := by
  intro h _ kk hk
  simp only [Instr.wf, Imm.wf, Bool.and_eq_true, Bool.not_eq_true', decide_eq_true_eq, decide_eq_false_iff_not] at h
  obtain ⟨w, hw⟩ : ∃ w, encodeBody (.ald a b) = w := ⟨_, rfl⟩
  rw [hw]
  replace hw : 0x15000002 + a * 1024 + b * 8 = w := hw
  have e29_24 : fld w 29 24 = 0x15 := by simp only [fld_eq]; omega
  have e23_17 : fld w 23 17 = 0 := by simp only [fld_eq]; omega
  have e16_10 : fld w 16 10 = a := by simp only [fld_eq]; omega
  have e9_3 : fld w 9 3 = b := by simp only [fld_eq]; omega
  have e2_0 : fld w 2 0 = 2 := by simp only [fld_eq]; omega
  rw [to15 _ e29_24]
  simp [dec15, immOk_none, immOk_some, immOf_none, immOf_some, immMS, e23_17, e16_10, e9_3, e2_0] <;> omega

theorem rdef (d a b : Nat) : Statement (.rdef d a b) := by
  intro h _ kk hk
  simp only [Instr.wf, Imm.wf, Bool.and_eq_true, Bool.not_eq_true', decide_eq_true_eq, decide_eq_false_iff_not] at h
  obtain ⟨w, hw⟩ : ∃ w, encodeBody (.rdef d a b) = w := ⟨_, rfl⟩
  rw [hw]
  replace hw : 0x16000000 + d * 131072 + a * 1024 + b * 8 = w := hw
  have e29_24 : fld w 29 24 = 0x16 := by simp only [fld_eq]; omega
  have e23_17 : fld w 23 17 = d := by simp only [fld_eq]; omega
  have e16_10 : fld w 16 10 = a := by simp only [fld_eq]; omega
  have e9_3 : fld w 9 3 = b := by simp only [fld_eq]; omega
  have e2_0 : fld w 2 0 = 0 := by simp only [fld_eq]; omega
  rw [to16 _ e29_24]
  simp [dec16, immOk_none, immOk_some, immOf_none, immOf_some, immMS, e23_17, e16_10, e9_3, e2_0] <;> omega

theorem rqry (d b : Nat) : Statement (.rqry d b) := by
  intro h _ kk hk
  simp only [Instr.wf, Imm.wf, Bool.and_eq_true, Bool.not_eq_true', decide_eq_true_eq, decide_eq_false_iff_not] at h
  obtain ⟨w, hw⟩ : ∃ w, encodeBody (.rqry d b) = w := ⟨_, rfl⟩
  rw [hw]
  replace hw : 0x16000001 + d * 131072 + b * 8 = w := hw
  have e29_24 : fld w 29 24 = 0x16 := by simp only [fld_eq]; omega
  have e23_17 : fld w 23 17 = d := by simp only [fld_eq]; omega
  have e16_10 : fld w 16 10 = 0 := by simp only [fld_eq]; omega
  have e9_3 : fld w 9 3 = b := by simp only [fld_eq]; omega
  have e2_0 : fld w 2 0 = 1 := by simp only [fld_eq]; omega
  rw [to16 _ e29_24]
  simp [dec16, immOk_none, immOk_some, immOf_none, immOf_some, immMS, e23_17, e16_10, e9_3, e2_0] <;> omega

theorem rdrop (d b : Nat) : Statement (.rdrop d b) := by
  intro h _ kk hk
  simp only [Instr.wf, Imm.wf, Bool.and_eq_true, Bool.not_eq_true', decide_eq_true_eq, decide_eq_false_iff_not] at h
  obtain ⟨w, hw⟩ : ∃ w, encodeBody (.rdrop d b) = w := ⟨_, rfl⟩
  rw [hw]
  replace hw : 0x16000002 + d * 131072 + b * 8 = w := hw
  have e29_24 : fld w 29 24 = 0x16 := by simp only [fld_eq]; omega
  have e23_17 : fld w 23 17 = d := by simp only [fld_eq]; omega
  have e16_10 : fld w 16 10 = 0 := by simp only [fld_eq]; omega
  have e9_3 : fld w 9 3 = b := by simp only [fld_eq]; omega
  have e2_0 : fld w 2 0 = 2 := by simp only [fld_eq]; omega
  rw [to16 _ e29_24]
  simp [dec16, immOk_none, immOk_some, immOf_none, immOf_some, immMS, e23_17, e16_10, e9_3, e2_0] <;> omega

theorem rreset (b : Nat) : Statement (.rreset b) := by
  intro h _ kk hk
  simp only [Instr.wf, Imm.wf, Bool.and_eq_true, Bool.not_eq_true', decide_eq_true_eq, decide_eq_false_iff_not] at h
  obtain ⟨w, hw⟩ : ∃ w, encodeBody (.rreset b) = w := ⟨_, rfl⟩
  rw [hw]
  replace hw : 0x16000003 + b * 8 = w := hw
  have e29_24 : fld w 29 24 = 0x16 := by simp only [fld_eq]; omega
  have e23_17 : fld w 23 17 = 0 := by simp only [fld_eq]; omega
  have e23_10 : fld w 23 10 = 0 := by simp only [fld_eq]; omega
  have e16_10 : fld w 16 10 = 0 := by simp only [fld_eq]; omega
  have e9_3 : fld w 9 3 = b := by simp only [fld_eq]; omega
  have e2_0 : fld w 2 0 = 3 := by simp only [fld_eq]; omega
  rw [to16 _ e29_24]
  simp [dec16, immOk_none, immOk_some, immOf_none, immOf_some, immMS, e23_17, e23_10, e16_10, e9_3, e2_0] <;> omega

theorem snew (d a b : Nat) : Statement (.snew d a b) := by
  intro h _ kk hk
  simp only [Instr.wf, Imm.wf, Bool.and_eq_true, Bool.not_eq_true', decide_eq_true_eq, decide_eq_false_iff_not] at h
  obtain ⟨w, hw⟩ : ∃ w, encodeBody (.snew d a b) = w := ⟨_, rfl⟩
  rw [hw]
  replace hw : 0x17000000 + d * 131072 + a * 1024 + b * 8 = w := hw
  have e29_24 : fld w 29 24 = 0x17 := by simp only [fld_eq]; omega
  have e23_17 : fld w 23 17 = d := by simp only [fld_eq]; omega
  have e16_10 : fld w 16 10 = a := by simp only [fld_eq]; omega
  have e9_3 : fld w 9 3 = b := by simp only [fld_eq]; omega
  have e2_0 : fld w 2 0 = 0 := by simp only [fld_eq]; omega
  rw [to17 _ e29_24]
  simp [dec17, immOk_none, immOk_some, immOf_none, immOf_some, immMS, e23_17, e16_10, e9_3, e2_0] <;> omega

theorem sfree (d a b : Nat) : Statement (.sfree d a b) := by
  intro h _ kk hk
  simp only [Instr.wf, Imm.wf, Bool.and_eq_true, Bool.not_eq_true', decide_eq_true_eq, decide_eq_false_iff_not] at h
  obtain ⟨w, hw⟩ : ∃ w, encodeBody (.sfree d a b) = w := ⟨_, rfl⟩
  rw [hw]
  replace hw : 0x17000001 + d * 131072 + a * 1024 + b * 8 = w := hw
  have e29_24 : fld w 29 24 = 0x17 := by simp only [fld_eq]; omega
  have e23_17 : fld w 23 17 = d := by simp only [fld_eq]; omega
  have e16_10 : fld w 16 10 = a := by simp only [fld_eq]; omega
  have e9_3 : fld w 9 3 = b := by simp only [fld_eq]; omega
  have e2_0 : fld w 2 0 = 1 := by simp only [fld_eq]; omega
  rw [to17 _ e29_24]
  simp [dec17, immOk_none, immOk_some, immOf_none, immOf_some, immMS, e23_17, e16_10, e9_3, e2_0] <;> omega

theorem spoke (d a b : Nat) : Statement (.spoke d a b) := by
  intro h _ kk hk
  simp only [Instr.wf, Imm.wf, Bool.and_eq_true, Bool.not_eq_true', decide_eq_true_eq, decide_eq_false_iff_not] at h
  obtain ⟨w, hw⟩ : ∃ w, encodeBody (.spoke d a b) = w := ⟨_, rfl⟩
  rw [hw]
  replace hw : 0x17000002 + d * 131072 + a * 1024 + b * 8 = w := hw
  have e29_24 : fld w 29 24 = 0x17 := by simp only [fld_eq]; omega
  have e23_17 : fld w 23 17 = d := by simp only [fld_eq]; omega
  have e16_10 : fld w 16 10 = a := by simp only [fld_eq]; omega
  have e9_3 : fld w 9 3 = b := by simp only [fld_eq]; omega
  have e2_0 : fld w 2 0 = 2 := by simp only [fld_eq]; omega
  rw [to17 _ e29_24]
  simp [dec17, immOk_none, immOk_some, immOf_none, immOf_some, immMS, e23_17, e16_10, e9_3, e2_0] <;> omega

theorem legq (d b : Nat) : Statement (.legq d b) := by
  intro h _ kk hk
  simp only [Instr.wf, Imm.wf, Bool.and_eq_true, Bool.not_eq_true', decide_eq_true_eq, decide_eq_false_iff_not] at h
  obtain ⟨w, hw⟩ : ∃ w, encodeBody (.legq d b) = w := ⟨_, rfl⟩
  rw [hw]
  replace hw : 0x17000003 + d * 131072 + b * 8 = w := hw
  have e29_24 : fld w 29 24 = 0x17 := by simp only [fld_eq]; omega
  have e23_17 : fld w 23 17 = d := by simp only [fld_eq]; omega
  have e16_10 : fld w 16 10 = 0 := by simp only [fld_eq]; omega
  have e9_3 : fld w 9 3 = b := by simp only [fld_eq]; omega
  have e2_0 : fld w 2 0 = 3 := by simp only [fld_eq]; omega
  rw [to17 _ e29_24]
  simp [dec17, immOk_none, immOk_some, immOf_none, immOf_some, immMS, e23_17, e16_10, e9_3, e2_0] <;> omega

theorem foulc (a : Nat) : Statement (.foulc a) := by
  intro h _ kk hk
  simp only [Instr.wf, Imm.wf, Bool.and_eq_true, Bool.not_eq_true', decide_eq_true_eq, decide_eq_false_iff_not] at h
  obtain ⟨w, hw⟩ : ∃ w, encodeBody (.foulc a) = w := ⟨_, rfl⟩
  rw [hw]
  replace hw : 0x17000004 + a * 1024 = w := hw
  have e29_24 : fld w 29 24 = 0x17 := by simp only [fld_eq]; omega
  have e23_17 : fld w 23 17 = 0 := by simp only [fld_eq]; omega
  have e16_10 : fld w 16 10 = a := by simp only [fld_eq]; omega
  have e9_3 : fld w 9 3 = 0 := by simp only [fld_eq]; omega
  have e9_0 : fld w 9 0 = 4 := by simp only [fld_eq]; omega
  have e2_0 : fld w 2 0 = 4 := by simp only [fld_eq]; omega
  rw [to17 _ e29_24]
  simp [dec17, immOk_none, immOk_some, immOf_none, immOf_some, immMS, e23_17, e16_10, e9_3, e9_0, e2_0]

theorem ckpt (d a : Nat) : Statement (.ckpt d a) := by
  intro h _ kk hk
  simp only [Instr.wf, Imm.wf, Bool.and_eq_true, Bool.not_eq_true', decide_eq_true_eq, decide_eq_false_iff_not] at h
  obtain ⟨w, hw⟩ : ∃ w, encodeBody (.ckpt d a) = w := ⟨_, rfl⟩
  rw [hw]
  replace hw : 0x17000005 + d * 131072 + a * 1024 = w := hw
  have e29_24 : fld w 29 24 = 0x17 := by simp only [fld_eq]; omega
  have e23_17 : fld w 23 17 = d := by simp only [fld_eq]; omega
  have e16_10 : fld w 16 10 = a := by simp only [fld_eq]; omega
  have e9_3 : fld w 9 3 = 0 := by simp only [fld_eq]; omega
  have e9_0 : fld w 9 0 = 5 := by simp only [fld_eq]; omega
  have e2_0 : fld w 2 0 = 5 := by simp only [fld_eq]; omega
  rw [to17 _ e29_24]
  simp [dec17, immOk_none, immOk_some, immOf_none, immOf_some, immMS, e23_17, e16_10, e9_3, e9_0, e2_0]

theorem bar (d a b : Nat) : Statement (.bar d a b) := by
  intro h _ kk hk
  simp only [Instr.wf, Imm.wf, Bool.and_eq_true, Bool.not_eq_true', decide_eq_true_eq, decide_eq_false_iff_not] at h
  obtain ⟨w, hw⟩ : ∃ w, encodeBody (.bar d a b) = w := ⟨_, rfl⟩
  rw [hw]
  replace hw : 0x18000000 + d * 131072 + a * 1024 + b * 8 = w := hw
  have e29_24 : fld w 29 24 = 0x18 := by simp only [fld_eq]; omega
  have e23_17 : fld w 23 17 = d := by simp only [fld_eq]; omega
  have e16_10 : fld w 16 10 = a := by simp only [fld_eq]; omega
  have e9_3 : fld w 9 3 = b := by simp only [fld_eq]; omega
  have e2_0 : fld w 2 0 = 0 := by simp only [fld_eq]; omega
  rw [to18 _ e29_24]
  simp [dec18, immOk_none, immOk_some, immOf_none, immOf_some, immMS, e23_17, e16_10, e9_3, e2_0] <;> omega

theorem bara (d a b : Nat) : Statement (.bara d a b) := by
  intro h _ kk hk
  simp only [Instr.wf, Imm.wf, Bool.and_eq_true, Bool.not_eq_true', decide_eq_true_eq, decide_eq_false_iff_not] at h
  obtain ⟨w, hw⟩ : ∃ w, encodeBody (.bara d a b) = w := ⟨_, rfl⟩
  rw [hw]
  replace hw : 0x18000001 + d * 131072 + a * 1024 + b * 8 = w := hw
  have e29_24 : fld w 29 24 = 0x18 := by simp only [fld_eq]; omega
  have e23_17 : fld w 23 17 = d := by simp only [fld_eq]; omega
  have e16_10 : fld w 16 10 = a := by simp only [fld_eq]; omega
  have e9_3 : fld w 9 3 = b := by simp only [fld_eq]; omega
  have e2_0 : fld w 2 0 = 1 := by simp only [fld_eq]; omega
  rw [to18 _ e29_24]
  simp [dec18, immOk_none, immOk_some, immOf_none, immOf_some, immMS, e23_17, e16_10, e9_3, e2_0] <;> omega

theorem barw (d a b : Nat) : Statement (.barw d a b) := by
  intro h _ kk hk
  simp only [Instr.wf, Imm.wf, Bool.and_eq_true, Bool.not_eq_true', decide_eq_true_eq, decide_eq_false_iff_not] at h
  obtain ⟨w, hw⟩ : ∃ w, encodeBody (.barw d a b) = w := ⟨_, rfl⟩
  rw [hw]
  replace hw : 0x18000002 + d * 131072 + a * 1024 + b * 8 = w := hw
  have e29_24 : fld w 29 24 = 0x18 := by simp only [fld_eq]; omega
  have e23_17 : fld w 23 17 = d := by simp only [fld_eq]; omega
  have e16_10 : fld w 16 10 = a := by simp only [fld_eq]; omega
  have e9_3 : fld w 9 3 = b := by simp only [fld_eq]; omega
  have e2_0 : fld w 2 0 = 2 := by simp only [fld_eq]; omega
  rw [to18 _ e29_24]
  simp [dec18, immOk_none, immOk_some, immOf_none, immOf_some, immMS, e23_17, e16_10, e9_3, e2_0] <;> omega

theorem toka (d a b : Nat) : Statement (.toka d a b) := by
  intro h _ kk hk
  simp only [Instr.wf, Imm.wf, Bool.and_eq_true, Bool.not_eq_true', decide_eq_true_eq, decide_eq_false_iff_not] at h
  obtain ⟨w, hw⟩ : ∃ w, encodeBody (.toka d a b) = w := ⟨_, rfl⟩
  rw [hw]
  replace hw : 0x18000003 + d * 131072 + a * 1024 + b * 8 = w := hw
  have e29_24 : fld w 29 24 = 0x18 := by simp only [fld_eq]; omega
  have e23_17 : fld w 23 17 = d := by simp only [fld_eq]; omega
  have e16_10 : fld w 16 10 = a := by simp only [fld_eq]; omega
  have e9_3 : fld w 9 3 = b := by simp only [fld_eq]; omega
  have e2_0 : fld w 2 0 = 3 := by simp only [fld_eq]; omega
  rw [to18 _ e29_24]
  simp [dec18, immOk_none, immOk_some, immOf_none, immOf_some, immMS, e23_17, e16_10, e9_3, e2_0] <;> omega

theorem tokr (d a b : Nat) : Statement (.tokr d a b) := by
  intro h _ kk hk
  simp only [Instr.wf, Imm.wf, Bool.and_eq_true, Bool.not_eq_true', decide_eq_true_eq, decide_eq_false_iff_not] at h
  obtain ⟨w, hw⟩ : ∃ w, encodeBody (.tokr d a b) = w := ⟨_, rfl⟩
  rw [hw]
  replace hw : 0x18000004 + d * 131072 + a * 1024 + b * 8 = w := hw
  have e29_24 : fld w 29 24 = 0x18 := by simp only [fld_eq]; omega
  have e23_17 : fld w 23 17 = d := by simp only [fld_eq]; omega
  have e16_10 : fld w 16 10 = a := by simp only [fld_eq]; omega
  have e9_3 : fld w 9 3 = b := by simp only [fld_eq]; omega
  have e2_0 : fld w 2 0 = 4 := by simp only [fld_eq]; omega
  rw [to18 _ e29_24]
  simp [dec18, immOk_none, immOk_some, immOf_none, immOf_some, immMS, e23_17, e16_10, e9_3, e2_0] <;> omega

theorem step (d a b : Nat) : Statement (.step d a b) := by
  intro h _ kk hk
  simp only [Instr.wf, Imm.wf, Bool.and_eq_true, Bool.not_eq_true', decide_eq_true_eq, decide_eq_false_iff_not] at h
  obtain ⟨w, hw⟩ : ∃ w, encodeBody (.step d a b) = w := ⟨_, rfl⟩
  rw [hw]
  replace hw : 0x18000005 + d * 131072 + a * 1024 + b * 8 = w := hw
  have e29_24 : fld w 29 24 = 0x18 := by simp only [fld_eq]; omega
  have e23_17 : fld w 23 17 = d := by simp only [fld_eq]; omega
  have e16_10 : fld w 16 10 = a := by simp only [fld_eq]; omega
  have e9_3 : fld w 9 3 = b := by simp only [fld_eq]; omega
  have e2_0 : fld w 2 0 = 5 := by simp only [fld_eq]; omega
  rw [to18 _ e29_24]
  simp [dec18, immOk_none, immOk_some, immOf_none, immOf_some, immMS, e23_17, e16_10, e9_3, e2_0] <;> omega

theorem stepr (d a b : Nat) : Statement (.stepr d a b) := by
  intro h _ kk hk
  simp only [Instr.wf, Imm.wf, Bool.and_eq_true, Bool.not_eq_true', decide_eq_true_eq, decide_eq_false_iff_not] at h
  obtain ⟨w, hw⟩ : ∃ w, encodeBody (.stepr d a b) = w := ⟨_, rfl⟩
  rw [hw]
  replace hw : 0x18000006 + d * 131072 + a * 1024 + b * 8 = w := hw
  have e29_24 : fld w 29 24 = 0x18 := by simp only [fld_eq]; omega
  have e23_17 : fld w 23 17 = d := by simp only [fld_eq]; omega
  have e16_10 : fld w 16 10 = a := by simp only [fld_eq]; omega
  have e9_3 : fld w 9 3 = b := by simp only [fld_eq]; omega
  have e2_0 : fld w 2 0 = 6 := by simp only [fld_eq]; omega
  rw [to18 _ e29_24]
  simp [dec18, immOk_none, immOk_some, immOf_none, immOf_some, immMS, e23_17, e16_10, e9_3, e2_0] <;> omega

theorem sound (d b : Nat) : Statement (.sound d b) := by
  intro h _ kk hk
  simp only [Instr.wf, Imm.wf, Bool.and_eq_true, Bool.not_eq_true', decide_eq_true_eq, decide_eq_false_iff_not] at h
  obtain ⟨w, hw⟩ : ∃ w, encodeBody (.sound d b) = w := ⟨_, rfl⟩
  rw [hw]
  replace hw : 0x18000007 + d * 131072 + b * 8 = w := hw
  have e29_24 : fld w 29 24 = 0x18 := by simp only [fld_eq]; omega
  have e23_17 : fld w 23 17 = d := by simp only [fld_eq]; omega
  have e16_10 : fld w 16 10 = 0 := by simp only [fld_eq]; omega
  have e9_3 : fld w 9 3 = b := by simp only [fld_eq]; omega
  have e2_0 : fld w 2 0 = 7 := by simp only [fld_eq]; omega
  rw [to18 _ e29_24]
  simp [dec18, immOk_none, immOk_some, immOf_none, immOf_some, immMS, e23_17, e16_10, e9_3, e2_0] <;> omega

theorem send (a b : Nat) : Statement (.send a b) := by
  intro h _ kk hk
  simp only [Instr.wf, Imm.wf, Bool.and_eq_true, Bool.not_eq_true', decide_eq_true_eq, decide_eq_false_iff_not] at h
  obtain ⟨w, hw⟩ : ∃ w, encodeBody (.send a b) = w := ⟨_, rfl⟩
  rw [hw]
  replace hw : 0x19000000 + a * 1024 + b * 8 = w := hw
  have e29_24 : fld w 29 24 = 0x19 := by simp only [fld_eq]; omega
  have e23_17 : fld w 23 17 = 0 := by simp only [fld_eq]; omega
  have e16_10 : fld w 16 10 = a := by simp only [fld_eq]; omega
  have e9_3 : fld w 9 3 = b := by simp only [fld_eq]; omega
  have e2_0 : fld w 2 0 = 0 := by simp only [fld_eq]; omega
  rw [to19 _ e29_24]
  simp [dec19, immOk_none, immOk_some, immOf_none, immOf_some, immMS, e23_17, e16_10, e9_3, e2_0]

theorem go (a : Nat) : Statement (.go a) := by
  intro h _ kk hk
  simp only [Instr.wf, Imm.wf, Bool.and_eq_true, Bool.not_eq_true', decide_eq_true_eq, decide_eq_false_iff_not] at h
  obtain ⟨w, hw⟩ : ∃ w, encodeBody (.go a) = w := ⟨_, rfl⟩
  rw [hw]
  replace hw : 0x19000001 + a * 1024 = w := hw
  have e29_24 : fld w 29 24 = 0x19 := by simp only [fld_eq]; omega
  have e23_17 : fld w 23 17 = 0 := by simp only [fld_eq]; omega
  have e16_10 : fld w 16 10 = a := by simp only [fld_eq]; omega
  have e9_3 : fld w 9 3 = 0 := by simp only [fld_eq]; omega
  have e9_0 : fld w 9 0 = 1 := by simp only [fld_eq]; omega
  have e2_0 : fld w 2 0 = 1 := by simp only [fld_eq]; omega
  rw [to19 _ e29_24]
  simp [dec19, immOk_none, immOk_some, immOf_none, immOf_some, immMS, e23_17, e16_10, e9_3, e9_0, e2_0]

theorem put (a : Nat) : Statement (.put a) := by
  intro h _ kk hk
  simp only [Instr.wf, Imm.wf, Bool.and_eq_true, Bool.not_eq_true', decide_eq_true_eq, decide_eq_false_iff_not] at h
  obtain ⟨w, hw⟩ : ∃ w, encodeBody (.put a) = w := ⟨_, rfl⟩
  rw [hw]
  replace hw : 0x1A000000 + a * 1024 = w := hw
  have e29_24 : fld w 29 24 = 0x1A := by simp only [fld_eq]; omega
  have e23_17 : fld w 23 17 = 0 := by simp only [fld_eq]; omega
  have e16_10 : fld w 16 10 = a := by simp only [fld_eq]; omega
  have e9_0 : fld w 9 0 = 0 := by simp only [fld_eq]; omega
  rw [to1A _ e29_24]
  simp [dec1A, immOk_none, immOk_some, immOf_none, immOf_some, immMS, e23_17, e16_10, e9_0]

theorem get (a : Nat) : Statement (.get a) := by
  intro h _ kk hk
  simp only [Instr.wf, Imm.wf, Bool.and_eq_true, Bool.not_eq_true', decide_eq_true_eq, decide_eq_false_iff_not] at h
  obtain ⟨w, hw⟩ : ∃ w, encodeBody (.get a) = w := ⟨_, rfl⟩
  rw [hw]
  replace hw : 0x1A000001 + a * 1024 = w := hw
  have e29_24 : fld w 29 24 = 0x1A := by simp only [fld_eq]; omega
  have e23_17 : fld w 23 17 = 0 := by simp only [fld_eq]; omega
  have e16_10 : fld w 16 10 = a := by simp only [fld_eq]; omega
  have e9_0 : fld w 9 0 = 1 := by simp only [fld_eq]; omega
  rw [to1A _ e29_24]
  simp [dec1A, immOk_none, immOk_some, immOf_none, immOf_some, immMS, e23_17, e16_10, e9_0]

theorem tsend (d a b : Nat) : Statement (.tsend d a b) := by
  intro h _ kk hk
  simp only [Instr.wf, Imm.wf, Bool.and_eq_true, Bool.not_eq_true', decide_eq_true_eq, decide_eq_false_iff_not] at h
  obtain ⟨w, hw⟩ : ∃ w, encodeBody (.tsend d a b) = w := ⟨_, rfl⟩
  rw [hw]
  replace hw : 0x1A000002 + d * 131072 + a * 1024 + b * 8 = w := hw
  have e29_24 : fld w 29 24 = 0x1A := by simp only [fld_eq]; omega
  have e23_17 : fld w 23 17 = d := by simp only [fld_eq]; omega
  have e16_10 : fld w 16 10 = a := by simp only [fld_eq]; omega
  have e9_3 : fld w 9 3 = b := by simp only [fld_eq]; omega
  have n9_0_0 : ¬ fld w 9 0 = 0 := by simp only [fld_eq]; omega
  have n9_0_1 : ¬ fld w 9 0 = 1 := by simp only [fld_eq]; omega
  have e2_0 : fld w 2 0 = 2 := by simp only [fld_eq]; omega
  rw [to1A _ e29_24]
  simp [dec1A, immOk_none, immOk_some, immOf_none, immOf_some, immMS, e23_17, e16_10, e9_3, n9_0_0, n9_0_1, e2_0]

theorem tcancel (d a : Nat) : Statement (.tcancel d a) := by
  intro h _ kk hk
  simp only [Instr.wf, Imm.wf, Bool.and_eq_true, Bool.not_eq_true', decide_eq_true_eq, decide_eq_false_iff_not] at h
  obtain ⟨w, hw⟩ : ∃ w, encodeBody (.tcancel d a) = w := ⟨_, rfl⟩
  rw [hw]
  replace hw : 0x1A000003 + d * 131072 + a * 1024 = w := hw
  have e29_24 : fld w 29 24 = 0x1A := by simp only [fld_eq]; omega
  have e23_17 : fld w 23 17 = d := by simp only [fld_eq]; omega
  have e16_10 : fld w 16 10 = a := by simp only [fld_eq]; omega
  have e9_3 : fld w 9 3 = 0 := by simp only [fld_eq]; omega
  have e9_0 : fld w 9 0 = 3 := by simp only [fld_eq]; omega
  have e2_0 : fld w 2 0 = 3 := by simp only [fld_eq]; omega
  rw [to1A _ e29_24]
  simp [dec1A, immOk_none, immOk_some, immOf_none, immOf_some, immMS, e23_17, e16_10, e9_3, e9_0, e2_0]

theorem scset (d a b : Nat) : Statement (.scset d a b) := by
  intro h _ kk hk
  simp only [Instr.wf, Imm.wf, Bool.and_eq_true, Bool.not_eq_true', decide_eq_true_eq, decide_eq_false_iff_not] at h
  obtain ⟨w, hw⟩ : ∃ w, encodeBody (.scset d a b) = w := ⟨_, rfl⟩
  rw [hw]
  replace hw : 0x1A000004 + d * 131072 + a * 1024 + b * 8 = w := hw
  have e29_24 : fld w 29 24 = 0x1A := by simp only [fld_eq]; omega
  have e23_17 : fld w 23 17 = d := by simp only [fld_eq]; omega
  have e16_10 : fld w 16 10 = a := by simp only [fld_eq]; omega
  have e9_3 : fld w 9 3 = b := by simp only [fld_eq]; omega
  have n9_0_0 : ¬ fld w 9 0 = 0 := by simp only [fld_eq]; omega
  have n9_0_1 : ¬ fld w 9 0 = 1 := by simp only [fld_eq]; omega
  have n9_0_3 : ¬ fld w 9 0 = 3 := by simp only [fld_eq]; omega
  have e2_0 : fld w 2 0 = 4 := by simp only [fld_eq]; omega
  rw [to1A _ e29_24]
  simp [dec1A, immOk_none, immOk_some, immOf_none, immOf_some, immMS, e23_17, e16_10, e9_3, n9_0_0, n9_0_1, n9_0_3, e2_0] <;> omega

theorem scadd (d a b : Nat) : Statement (.scadd d a b) := by
  intro h _ kk hk
  simp only [Instr.wf, Imm.wf, Bool.and_eq_true, Bool.not_eq_true', decide_eq_true_eq, decide_eq_false_iff_not] at h
  obtain ⟨w, hw⟩ : ∃ w, encodeBody (.scadd d a b) = w := ⟨_, rfl⟩
  rw [hw]
  replace hw : 0x1A000005 + d * 131072 + a * 1024 + b * 8 = w := hw
  have e29_24 : fld w 29 24 = 0x1A := by simp only [fld_eq]; omega
  have e23_17 : fld w 23 17 = d := by simp only [fld_eq]; omega
  have e16_10 : fld w 16 10 = a := by simp only [fld_eq]; omega
  have e9_3 : fld w 9 3 = b := by simp only [fld_eq]; omega
  have n9_0_0 : ¬ fld w 9 0 = 0 := by simp only [fld_eq]; omega
  have n9_0_1 : ¬ fld w 9 0 = 1 := by simp only [fld_eq]; omega
  have n9_0_3 : ¬ fld w 9 0 = 3 := by simp only [fld_eq]; omega
  have e2_0 : fld w 2 0 = 5 := by simp only [fld_eq]; omega
  rw [to1A _ e29_24]
  simp [dec1A, immOk_none, immOk_some, immOf_none, immOf_some, immMS, e23_17, e16_10, e9_3, n9_0_0, n9_0_1, n9_0_3, e2_0] <;> omega

theorem scwait (d a b : Nat) : Statement (.scwait d a b) := by
  intro h _ kk hk
  simp only [Instr.wf, Imm.wf, Bool.and_eq_true, Bool.not_eq_true', decide_eq_true_eq, decide_eq_false_iff_not] at h
  obtain ⟨w, hw⟩ : ∃ w, encodeBody (.scwait d a b) = w := ⟨_, rfl⟩
  rw [hw]
  replace hw : 0x1A000006 + d * 131072 + a * 1024 + b * 8 = w := hw
  have e29_24 : fld w 29 24 = 0x1A := by simp only [fld_eq]; omega
  have e23_17 : fld w 23 17 = d := by simp only [fld_eq]; omega
  have e16_10 : fld w 16 10 = a := by simp only [fld_eq]; omega
  have e9_3 : fld w 9 3 = b := by simp only [fld_eq]; omega
  have n9_0_0 : ¬ fld w 9 0 = 0 := by simp only [fld_eq]; omega
  have n9_0_1 : ¬ fld w 9 0 = 1 := by simp only [fld_eq]; omega
  have n9_0_3 : ¬ fld w 9 0 = 3 := by simp only [fld_eq]; omega
  have e2_0 : fld w 2 0 = 6 := by simp only [fld_eq]; omega
  rw [to1A _ e29_24]
  simp [dec1A, immOk_none, immOk_some, immOf_none, immOf_some, immMS, e23_17, e16_10, e9_3, n9_0_0, n9_0_1, n9_0_3, e2_0] <;> omega

theorem scrd (d b : Nat) : Statement (.scrd d b) := by
  intro h _ kk hk
  simp only [Instr.wf, Imm.wf, Bool.and_eq_true, Bool.not_eq_true', decide_eq_true_eq, decide_eq_false_iff_not] at h
  obtain ⟨w, hw⟩ : ∃ w, encodeBody (.scrd d b) = w := ⟨_, rfl⟩
  rw [hw]
  replace hw : 0x1A000007 + d * 131072 + b * 8 = w := hw
  have e29_24 : fld w 29 24 = 0x1A := by simp only [fld_eq]; omega
  have e23_17 : fld w 23 17 = d := by simp only [fld_eq]; omega
  have e16_10 : fld w 16 10 = 0 := by simp only [fld_eq]; omega
  have e9_3 : fld w 9 3 = b := by simp only [fld_eq]; omega
  have n9_0_0 : ¬ fld w 9 0 = 0 := by simp only [fld_eq]; omega
  have n9_0_1 : ¬ fld w 9 0 = 1 := by simp only [fld_eq]; omega
  have n9_0_3 : ¬ fld w 9 0 = 3 := by simp only [fld_eq]; omega
  have e2_0 : fld w 2 0 = 7 := by simp only [fld_eq]; omega
  rw [to1A _ e29_24]
  simp [dec1A, immOk_none, immOk_some, immOf_none, immOf_some, immMS, e23_17, e16_10, e9_3, n9_0_0, n9_0_1, n9_0_3, e2_0] <;> omega

theorem wrq (d a : Nat) : Statement (.wrq d a) := by
  intro h _ kk hk
  simp only [Instr.wf, Imm.wf, Bool.and_eq_true, Bool.not_eq_true', decide_eq_true_eq, decide_eq_false_iff_not] at h
  obtain ⟨w, hw⟩ : ∃ w, encodeBody (.wrq d a) = w := ⟨_, rfl⟩
  rw [hw]
  replace hw : 0x1B000000 + d * 131072 + a * 1024 = w := hw
  have e29_24 : fld w 29 24 = 0x1B := by simp only [fld_eq]; omega
  have e23_17 : fld w 23 17 = d := by simp only [fld_eq]; omega
  have e16_10 : fld w 16 10 = a := by simp only [fld_eq]; omega
  have e9_0 : fld w 9 0 = 0 := by simp only [fld_eq]; omega
  rw [to1B _ e29_24]
  simp [dec1B, immOk_none, immOk_some, immOf_none, immOf_some, immMS, e23_17, e16_10, e9_0]

theorem wrcq (d : Nat) : Statement (.wrcq d) := by
  intro h _ kk hk
  simp only [Instr.wf, Imm.wf, Bool.and_eq_true, Bool.not_eq_true', decide_eq_true_eq, decide_eq_false_iff_not] at h
  obtain ⟨w, hw⟩ : ∃ w, encodeBody (.wrcq d) = w := ⟨_, rfl⟩
  rw [hw]
  replace hw : 0x1B000001 + d * 131072 = w := hw
  have e29_24 : fld w 29 24 = 0x1B := by simp only [fld_eq]; omega
  have e23_17 : fld w 23 17 = d := by simp only [fld_eq]; omega
  have e16_10 : fld w 16 10 = 0 := by simp only [fld_eq]; omega
  have e16_0 : fld w 16 0 = 1 := by simp only [fld_eq]; omega
  have e9_0 : fld w 9 0 = 1 := by simp only [fld_eq]; omega
  rw [to1B _ e29_24]
  simp [dec1B, immOk_none, immOk_some, immOf_none, immOf_some, immMS, e23_17, e16_10, e16_0, e9_0]

theorem uestat (d b : Nat) : Statement (.uestat d b) := by
  intro h _ kk hk
  simp only [Instr.wf, Imm.wf, Bool.and_eq_true, Bool.not_eq_true', decide_eq_true_eq, decide_eq_false_iff_not] at h
  obtain ⟨w, hw⟩ : ∃ w, encodeBody (.uestat d b) = w := ⟨_, rfl⟩
  rw [hw]
  replace hw : 0x1B000002 + d * 131072 + b * 8 = w := hw
  have e29_24 : fld w 29 24 = 0x1B := by simp only [fld_eq]; omega
  have e23_17 : fld w 23 17 = d := by simp only [fld_eq]; omega
  have e16_10 : fld w 16 10 = 0 := by simp only [fld_eq]; omega
  have n16_0_1 : ¬ fld w 16 0 = 1 := by simp only [fld_eq]; omega
  have e9_3 : fld w 9 3 = b := by simp only [fld_eq]; omega
  have n9_0_0 : ¬ fld w 9 0 = 0 := by simp only [fld_eq]; omega
  have e2_0 : fld w 2 0 = 2 := by simp only [fld_eq]; omega
  rw [to1B _ e29_24]
  simp [dec1B, immOk_none, immOk_some, immOf_none, immOf_some, immMS, e23_17, e16_10, n16_0_1, e9_3, n9_0_0, e2_0] <;> omega

theorem mfalloc (d a b : Nat) : Statement (.mfalloc d a b) := by
  intro h _ kk hk
  simp only [Instr.wf, Imm.wf, Bool.and_eq_true, Bool.not_eq_true', decide_eq_true_eq, decide_eq_false_iff_not] at h
  obtain ⟨w, hw⟩ : ∃ w, encodeBody (.mfalloc d a b) = w := ⟨_, rfl⟩
  rw [hw]
  replace hw : 0x1C000000 + d * 131072 + a * 1024 + b * 8 = w := hw
  have e29_24 : fld w 29 24 = 0x1C := by simp only [fld_eq]; omega
  have e23_17 : fld w 23 17 = d := by simp only [fld_eq]; omega
  have e16_10 : fld w 16 10 = a := by simp only [fld_eq]; omega
  have e9_3 : fld w 9 3 = b := by simp only [fld_eq]; omega
  have e2_0 : fld w 2 0 = 0 := by simp only [fld_eq]; omega
  rw [to1C _ e29_24]
  simp [dec1C, immOk_none, immOk_some, immOf_none, immOf_some, immMS, e23_17, e16_10, e9_3, e2_0]

theorem mffree (d a : Nat) : Statement (.mffree d a) := by
  intro h _ kk hk
  simp only [Instr.wf, Imm.wf, Bool.and_eq_true, Bool.not_eq_true', decide_eq_true_eq, decide_eq_false_iff_not] at h
  obtain ⟨w, hw⟩ : ∃ w, encodeBody (.mffree d a) = w := ⟨_, rfl⟩
  rw [hw]
  replace hw : 0x1C000001 + d * 131072 + a * 1024 = w := hw
  have e29_24 : fld w 29 24 = 0x1C := by simp only [fld_eq]; omega
  have e23_17 : fld w 23 17 = d := by simp only [fld_eq]; omega
  have e16_10 : fld w 16 10 = a := by simp only [fld_eq]; omega
  have e9_3 : fld w 9 3 = 0 := by simp only [fld_eq]; omega
  have e9_0 : fld w 9 0 = 1 := by simp only [fld_eq]; omega
  have e2_0 : fld w 2 0 = 1 := by simp only [fld_eq]; omega
  rw [to1C _ e29_24]
  simp [dec1C, immOk_none, immOk_some, immOf_none, immOf_some, immMS, e23_17, e16_10, e9_3, e9_0, e2_0]

theorem mfquota (d : Nat) : Statement (.mfquota d) := by
  intro h _ kk hk
  simp only [Instr.wf, Imm.wf, Bool.and_eq_true, Bool.not_eq_true', decide_eq_true_eq, decide_eq_false_iff_not] at h
  obtain ⟨w, hw⟩ : ∃ w, encodeBody (.mfquota d) = w := ⟨_, rfl⟩
  rw [hw]
  replace hw : 0x1C000002 + d * 131072 = w := hw
  have e29_24 : fld w 29 24 = 0x1C := by simp only [fld_eq]; omega
  have e23_17 : fld w 23 17 = d := by simp only [fld_eq]; omega
  have e16_10 : fld w 16 10 = 0 := by simp only [fld_eq]; omega
  have e16_0 : fld w 16 0 = 2 := by simp only [fld_eq]; omega
  have e9_3 : fld w 9 3 = 0 := by simp only [fld_eq]; omega
  have e9_0 : fld w 9 0 = 2 := by simp only [fld_eq]; omega
  have e2_0 : fld w 2 0 = 2 := by simp only [fld_eq]; omega
  rw [to1C _ e29_24]
  simp [dec1C, immOk_none, immOk_some, immOf_none, immOf_some, immMS, e23_17, e16_10, e16_0, e9_3, e9_0, e2_0]

theorem mfstat (d a : Nat) : Statement (.mfstat d a) := by
  intro h _ kk hk
  simp only [Instr.wf, Imm.wf, Bool.and_eq_true, Bool.not_eq_true', decide_eq_true_eq, decide_eq_false_iff_not] at h
  obtain ⟨w, hw⟩ : ∃ w, encodeBody (.mfstat d a) = w := ⟨_, rfl⟩
  rw [hw]
  replace hw : 0x1C000003 + d * 131072 + a * 1024 = w := hw
  have e29_24 : fld w 29 24 = 0x1C := by simp only [fld_eq]; omega
  have e23_17 : fld w 23 17 = d := by simp only [fld_eq]; omega
  have e16_10 : fld w 16 10 = a := by simp only [fld_eq]; omega
  have n16_0_2 : ¬ fld w 16 0 = 2 := by simp only [fld_eq]; omega
  have e9_3 : fld w 9 3 = 0 := by simp only [fld_eq]; omega
  have e9_0 : fld w 9 0 = 3 := by simp only [fld_eq]; omega
  have e2_0 : fld w 2 0 = 3 := by simp only [fld_eq]; omega
  rw [to1C _ e29_24]
  simp [dec1C, immOk_none, immOk_some, immOf_none, immOf_some, immMS, e23_17, e16_10, n16_0_2, e9_3, e9_0, e2_0]

theorem swb (d a : Nat) : Statement (.swb d a) := by
  intro h _ kk hk
  simp only [Instr.wf, Imm.wf, Bool.and_eq_true, Bool.not_eq_true', decide_eq_true_eq, decide_eq_false_iff_not] at h
  obtain ⟨w, hw⟩ : ∃ w, encodeBody (.swb d a) = w := ⟨_, rfl⟩
  rw [hw]
  replace hw : 0x1D000000 + d * 131072 + a * 1024 = w := hw
  have e29_24 : fld w 29 24 = 0x1D := by simp only [fld_eq]; omega
  have e23_17 : fld w 23 17 = d := by simp only [fld_eq]; omega
  have e16_10 : fld w 16 10 = a := by simp only [fld_eq]; omega
  have e9_0 : fld w 9 0 = 0 := by simp only [fld_eq]; omega
  rw [to1D _ e29_24]
  simp [dec1D, immOk_none, immOk_some, immOf_none, immOf_some, immMS, e23_17, e16_10, e9_0]

theorem swn (d a : Nat) : Statement (.swn d a) := by
  intro h _ kk hk
  simp only [Instr.wf, Imm.wf, Bool.and_eq_true, Bool.not_eq_true', decide_eq_true_eq, decide_eq_false_iff_not] at h
  obtain ⟨w, hw⟩ : ∃ w, encodeBody (.swn d a) = w := ⟨_, rfl⟩
  rw [hw]
  replace hw : 0x1D000001 + d * 131072 + a * 1024 = w := hw
  have e29_24 : fld w 29 24 = 0x1D := by simp only [fld_eq]; omega
  have e23_17 : fld w 23 17 = d := by simp only [fld_eq]; omega
  have e16_10 : fld w 16 10 = a := by simp only [fld_eq]; omega
  have e9_0 : fld w 9 0 = 1 := by simp only [fld_eq]; omega
  rw [to1D _ e29_24]
  simp [dec1D, immOk_none, immOk_some, immOf_none, immOf_some, immMS, e23_17, e16_10, e9_0]

theorem swe (d a : Nat) : Statement (.swe d a) := by
  intro h _ kk hk
  simp only [Instr.wf, Imm.wf, Bool.and_eq_true, Bool.not_eq_true', decide_eq_true_eq, decide_eq_false_iff_not] at h
  obtain ⟨w, hw⟩ : ∃ w, encodeBody (.swe d a) = w := ⟨_, rfl⟩
  rw [hw]
  replace hw : 0x1D000002 + d * 131072 + a * 1024 = w := hw
  have e29_24 : fld w 29 24 = 0x1D := by simp only [fld_eq]; omega
  have e23_17 : fld w 23 17 = d := by simp only [fld_eq]; omega
  have e16_10 : fld w 16 10 = a := by simp only [fld_eq]; omega
  have e9_0 : fld w 9 0 = 2 := by simp only [fld_eq]; omega
  rw [to1D _ e29_24]
  simp [dec1D, immOk_none, immOk_some, immOf_none, immOf_some, immMS, e23_17, e16_10, e9_0]

theorem resq (d a : Nat) : Statement (.resq d a) := by
  intro h _ kk hk
  simp only [Instr.wf, Imm.wf, Bool.and_eq_true, Bool.not_eq_true', decide_eq_true_eq, decide_eq_false_iff_not] at h
  obtain ⟨w, hw⟩ : ∃ w, encodeBody (.resq d a) = w := ⟨_, rfl⟩
  rw [hw]
  replace hw : 0x1D000003 + d * 131072 + a * 1024 = w := hw
  have e29_24 : fld w 29 24 = 0x1D := by simp only [fld_eq]; omega
  have e23_17 : fld w 23 17 = d := by simp only [fld_eq]; omega
  have e16_10 : fld w 16 10 = a := by simp only [fld_eq]; omega
  have e9_0 : fld w 9 0 = 3 := by simp only [fld_eq]; omega
  rw [to1D _ e29_24]
  simp [dec1D, immOk_none, immOk_some, immOf_none, immOf_some, immMS, e23_17, e16_10, e9_0]

theorem swstat (d a : Nat) : Statement (.swstat d a) := by
  intro h _ kk hk
  simp only [Instr.wf, Imm.wf, Bool.and_eq_true, Bool.not_eq_true', decide_eq_true_eq, decide_eq_false_iff_not] at h
  obtain ⟨w, hw⟩ : ∃ w, encodeBody (.swstat d a) = w := ⟨_, rfl⟩
  rw [hw]
  replace hw : 0x1D000004 + d * 131072 + a * 1024 = w := hw
  have e29_24 : fld w 29 24 = 0x1D := by simp only [fld_eq]; omega
  have e23_17 : fld w 23 17 = d := by simp only [fld_eq]; omega
  have e16_10 : fld w 16 10 = a := by simp only [fld_eq]; omega
  have e9_0 : fld w 9 0 = 4 := by simp only [fld_eq]; omega
  rw [to1D _ e29_24]
  simp [dec1D, immOk_none, immOk_some, immOf_none, immOf_some, immMS, e23_17, e16_10, e9_0]

theorem qnew (d a : Nat) : Statement (.qnew d a) := by
  intro h _ kk hk
  simp only [Instr.wf, Imm.wf, Bool.and_eq_true, Bool.not_eq_true', decide_eq_true_eq, decide_eq_false_iff_not] at h
  obtain ⟨w, hw⟩ : ∃ w, encodeBody (.qnew d a) = w := ⟨_, rfl⟩
  rw [hw]
  replace hw : 0x1E000000 + d * 131072 + a * 1024 = w := hw
  have e29_24 : fld w 29 24 = 0x1E := by simp only [fld_eq]; omega
  have e23_17 : fld w 23 17 = d := by simp only [fld_eq]; omega
  have e16_10 : fld w 16 10 = a := by simp only [fld_eq]; omega
  have e9_0 : fld w 9 0 = 0 := by simp only [fld_eq]; omega
  rw [to1E _ e29_24]
  simp [dec1E, immOk_none, immOk_some, immOf_none, immOf_some, immMS, e23_17, e16_10, e9_0]

theorem qenq (a b : Nat) : Statement (.qenq a b) := by
  intro h _ kk hk
  simp only [Instr.wf, Imm.wf, Bool.and_eq_true, Bool.not_eq_true', decide_eq_true_eq, decide_eq_false_iff_not] at h
  obtain ⟨w, hw⟩ : ∃ w, encodeBody (.qenq a b) = w := ⟨_, rfl⟩
  rw [hw]
  replace hw : 0x1E000001 + a * 1024 + b * 8 = w := hw
  have e29_24 : fld w 29 24 = 0x1E := by simp only [fld_eq]; omega
  have e23_17 : fld w 23 17 = 0 := by simp only [fld_eq]; omega
  have e16_10 : fld w 16 10 = a := by simp only [fld_eq]; omega
  have e9_3 : fld w 9 3 = b := by simp only [fld_eq]; omega
  have n9_0_0 : ¬ fld w 9 0 = 0 := by simp only [fld_eq]; omega
  have e2_0 : fld w 2 0 = 1 := by simp only [fld_eq]; omega
  rw [to1E _ e29_24]
  simp [dec1E, immOk_none, immOk_some, immOf_none, immOf_some, immMS, e23_17, e16_10, e9_3, n9_0_0, e2_0]

theorem qdeq (d a : Nat) : Statement (.qdeq d a) := by
  intro h _ kk hk
  simp only [Instr.wf, Imm.wf, Bool.and_eq_true, Bool.not_eq_true', decide_eq_true_eq, decide_eq_false_iff_not] at h
  obtain ⟨w, hw⟩ : ∃ w, encodeBody (.qdeq d a) = w := ⟨_, rfl⟩
  rw [hw]
  replace hw : 0x1E000002 + d * 131072 + a * 1024 = w := hw
  have e29_24 : fld w 29 24 = 0x1E := by simp only [fld_eq]; omega
  have e23_17 : fld w 23 17 = d := by simp only [fld_eq]; omega
  have e16_10 : fld w 16 10 = a := by simp only [fld_eq]; omega
  have e9_3 : fld w 9 3 = 0 := by simp only [fld_eq]; omega
  have e9_0 : fld w 9 0 = 2 := by simp only [fld_eq]; omega
  have e2_0 : fld w 2 0 = 2 := by simp only [fld_eq]; omega
  rw [to1E _ e29_24]
  simp [dec1E, immOk_none, immOk_some, immOf_none, immOf_some, immMS, e23_17, e16_10, e9_3, e9_0, e2_0]

theorem qtry (d a b : Nat) : Statement (.qtry d a b) := by
  intro h _ kk hk
  simp only [Instr.wf, Imm.wf, Bool.and_eq_true, Bool.not_eq_true', decide_eq_true_eq, decide_eq_false_iff_not] at h
  obtain ⟨w, hw⟩ : ∃ w, encodeBody (.qtry d a b) = w := ⟨_, rfl⟩
  rw [hw]
  replace hw : 0x1E000003 + d * 131072 + a * 1024 + b * 8 = w := hw
  have e29_24 : fld w 29 24 = 0x1E := by simp only [fld_eq]; omega
  have e23_17 : fld w 23 17 = d := by simp only [fld_eq]; omega
  have e16_10 : fld w 16 10 = a := by simp only [fld_eq]; omega
  have e9_3 : fld w 9 3 = b := by simp only [fld_eq]; omega
  have n9_0_0 : ¬ fld w 9 0 = 0 := by simp only [fld_eq]; omega
  have n9_0_2 : ¬ fld w 9 0 = 2 := by simp only [fld_eq]; omega
  have e2_0 : fld w 2 0 = 3 := by simp only [fld_eq]; omega
  rw [to1E _ e29_24]
  simp [dec1E, immOk_none, immOk_some, immOf_none, immOf_some, immMS, e23_17, e16_10, e9_3, n9_0_0, n9_0_2, e2_0]

theorem qfree (d a : Nat) : Statement (.qfree d a) := by
  intro h _ kk hk
  simp only [Instr.wf, Imm.wf, Bool.and_eq_true, Bool.not_eq_true', decide_eq_true_eq, decide_eq_false_iff_not] at h
  obtain ⟨w, hw⟩ : ∃ w, encodeBody (.qfree d a) = w := ⟨_, rfl⟩
  rw [hw]
  replace hw : 0x1E000004 + d * 131072 + a * 1024 = w := hw
  have e29_24 : fld w 29 24 = 0x1E := by simp only [fld_eq]; omega
  have e23_17 : fld w 23 17 = d := by simp only [fld_eq]; omega
  have e16_10 : fld w 16 10 = a := by simp only [fld_eq]; omega
  have e9_3 : fld w 9 3 = 0 := by simp only [fld_eq]; omega
  have e9_0 : fld w 9 0 = 4 := by simp only [fld_eq]; omega
  have e2_0 : fld w 2 0 = 4 := by simp only [fld_eq]; omega
  rw [to1E _ e29_24]
  simp [dec1E, immOk_none, immOk_some, immOf_none, immOf_some, immMS, e23_17, e16_10, e9_3, e9_0, e2_0]

theorem gang (d a : Nat) : Statement (.gang d a) := by
  intro h _ kk hk
  simp only [Instr.wf, Imm.wf, Bool.and_eq_true, Bool.not_eq_true', decide_eq_true_eq, decide_eq_false_iff_not] at h
  obtain ⟨w, hw⟩ : ∃ w, encodeBody (.gang d a) = w := ⟨_, rfl⟩
  rw [hw]
  replace hw : 0x1F000000 + d * 131072 + a * 1024 = w := hw
  have e29_24 : fld w 29 24 = 0x1F := by simp only [fld_eq]; omega
  have e23_17 : fld w 23 17 = d := by simp only [fld_eq]; omega
  have e16_10 : fld w 16 10 = a := by simp only [fld_eq]; omega
  have e9_0 : fld w 9 0 = 0 := by simp only [fld_eq]; omega
  rw [to1F _ e29_24]
  simp [dec1F, immOk_none, immOk_some, immOf_none, immOf_some, immMS, e23_17, e16_10, e9_0]

theorem pload (d a b : Nat) : Statement (.pload d a b) := by
  intro h _ kk hk
  simp only [Instr.wf, Imm.wf, Bool.and_eq_true, Bool.not_eq_true', decide_eq_true_eq, decide_eq_false_iff_not] at h
  obtain ⟨w, hw⟩ : ∃ w, encodeBody (.pload d a b) = w := ⟨_, rfl⟩
  rw [hw]
  replace hw : 0x20000000 + d * 131072 + a * 1024 + b * 8 = w := hw
  have e29_24 : fld w 29 24 = 0x20 := by simp only [fld_eq]; omega
  have e23_17 : fld w 23 17 = d := by simp only [fld_eq]; omega
  have e16_10 : fld w 16 10 = a := by simp only [fld_eq]; omega
  have e9_3 : fld w 9 3 = b := by simp only [fld_eq]; omega
  have e2_0 : fld w 2 0 = 0 := by simp only [fld_eq]; omega
  rw [to20 _ e29_24]
  simp [dec20, immOk_none, immOk_some, immOf_none, immOf_some, immMS, e23_17, e16_10, e9_3, e2_0] <;> omega

theorem pstore (d a : Nat) : Statement (.pstore d a) := by
  intro h _ kk hk
  simp only [Instr.wf, Imm.wf, Bool.and_eq_true, Bool.not_eq_true', decide_eq_true_eq, decide_eq_false_iff_not] at h
  obtain ⟨w, hw⟩ : ∃ w, encodeBody (.pstore d a) = w := ⟨_, rfl⟩
  rw [hw]
  replace hw : 0x20000001 + d * 131072 + a * 1024 = w := hw
  have e29_24 : fld w 29 24 = 0x20 := by simp only [fld_eq]; omega
  have e23_17 : fld w 23 17 = d := by simp only [fld_eq]; omega
  have e16_10 : fld w 16 10 = a := by simp only [fld_eq]; omega
  have e9_3 : fld w 9 3 = 0 := by simp only [fld_eq]; omega
  have e9_0 : fld w 9 0 = 1 := by simp only [fld_eq]; omega
  have e2_0 : fld w 2 0 = 1 := by simp only [fld_eq]; omega
  rw [to20 _ e29_24]
  simp [dec20, immOk_none, immOk_some, immOf_none, immOf_some, immMS, e23_17, e16_10, e9_3, e9_0, e2_0] <;> omega

theorem vld (d a o : Nat) : Statement (.vld d a o) := by
  intro h _ kk hk
  simp only [Instr.wf, Imm.wf, Bool.and_eq_true, Bool.not_eq_true', decide_eq_true_eq, decide_eq_false_iff_not] at h
  obtain ⟨w, hw⟩ : ∃ w, encodeBody (.vld d a o) = w := ⟨_, rfl⟩
  rw [hw]
  replace hw : 0x21000000 + d * 524288 + a * 4096 + o = w := hw
  have e29_24 : fld w 29 24 = 0x21 := by simp only [fld_eq]; omega
  have e23_19 : fld w 23 19 = d := by simp only [fld_eq]; omega
  have e18_12 : fld w 18 12 = a := by simp only [fld_eq]; omega
  have e11_8 : fld w 11 8 = 0 := by simp only [fld_eq]; omega
  have e7_0 : fld w 7 0 = o := by simp only [fld_eq]; omega
  rw [to21 _ e29_24]
  simp [dec21, immOk_none, immOk_some, immOf_none, immOf_some, immMS, e23_19, e18_12, e11_8, e7_0]

theorem vldStr (d a o : Nat) : Statement (.vldStr d a o) := by
  intro h _ kk hk
  simp only [Instr.wf, Imm.wf, Bool.and_eq_true, Bool.not_eq_true', decide_eq_true_eq, decide_eq_false_iff_not] at h
  obtain ⟨w, hw⟩ : ∃ w, encodeBody (.vldStr d a o) = w := ⟨_, rfl⟩
  rw [hw]
  replace hw : 0x21000100 + d * 524288 + a * 4096 + o = w := hw
  have e29_24 : fld w 29 24 = 0x21 := by simp only [fld_eq]; omega
  have e23_19 : fld w 23 19 = d := by simp only [fld_eq]; omega
  have e18_12 : fld w 18 12 = a := by simp only [fld_eq]; omega
  have e11_8 : fld w 11 8 = 1 := by simp only [fld_eq]; omega
  have e7_0 : fld w 7 0 = o := by simp only [fld_eq]; omega
  rw [to21 _ e29_24]
  simp [dec21, immOk_none, immOk_some, immOf_none, immOf_some, immMS, e23_19, e18_12, e11_8, e7_0]

theorem vldBc (d a o : Nat) : Statement (.vldBc d a o) := by
  intro h _ kk hk
  simp only [Instr.wf, Imm.wf, Bool.and_eq_true, Bool.not_eq_true', decide_eq_true_eq, decide_eq_false_iff_not] at h
  obtain ⟨w, hw⟩ : ∃ w, encodeBody (.vldBc d a o) = w := ⟨_, rfl⟩
  rw [hw]
  replace hw : 0x21000200 + d * 524288 + a * 4096 + o = w := hw
  have e29_24 : fld w 29 24 = 0x21 := by simp only [fld_eq]; omega
  have e23_19 : fld w 23 19 = d := by simp only [fld_eq]; omega
  have e18_12 : fld w 18 12 = a := by simp only [fld_eq]; omega
  have e11_8 : fld w 11 8 = 2 := by simp only [fld_eq]; omega
  have e7_0 : fld w 7 0 = o := by simp only [fld_eq]; omega
  rw [to21 _ e29_24]
  simp [dec21, immOk_none, immOk_some, immOf_none, immOf_some, immMS, e23_19, e18_12, e11_8, e7_0]

theorem vst (d a o : Nat) : Statement (.vst d a o) := by
  intro h _ kk hk
  simp only [Instr.wf, Imm.wf, Bool.and_eq_true, Bool.not_eq_true', decide_eq_true_eq, decide_eq_false_iff_not] at h
  obtain ⟨w, hw⟩ : ∃ w, encodeBody (.vst d a o) = w := ⟨_, rfl⟩
  rw [hw]
  replace hw : 0x22000000 + d * 524288 + a * 4096 + o = w := hw
  have e29_24 : fld w 29 24 = 0x22 := by simp only [fld_eq]; omega
  have e23_19 : fld w 23 19 = d := by simp only [fld_eq]; omega
  have e18_12 : fld w 18 12 = a := by simp only [fld_eq]; omega
  have e11_8 : fld w 11 8 = 0 := by simp only [fld_eq]; omega
  have e7_0 : fld w 7 0 = o := by simp only [fld_eq]; omega
  rw [to22 _ e29_24]
  simp [dec22, immOk_none, immOk_some, immOf_none, immOf_some, immMS, e23_19, e18_12, e11_8, e7_0]

theorem vstStr (d a o : Nat) : Statement (.vstStr d a o) := by
  intro h _ kk hk
  simp only [Instr.wf, Imm.wf, Bool.and_eq_true, Bool.not_eq_true', decide_eq_true_eq, decide_eq_false_iff_not] at h
  obtain ⟨w, hw⟩ : ∃ w, encodeBody (.vstStr d a o) = w := ⟨_, rfl⟩
  rw [hw]
  replace hw : 0x22000100 + d * 524288 + a * 4096 + o = w := hw
  have e29_24 : fld w 29 24 = 0x22 := by simp only [fld_eq]; omega
  have e23_19 : fld w 23 19 = d := by simp only [fld_eq]; omega
  have e18_12 : fld w 18 12 = a := by simp only [fld_eq]; omega
  have e11_8 : fld w 11 8 = 1 := by simp only [fld_eq]; omega
  have e7_0 : fld w 7 0 = o := by simp only [fld_eq]; omega
  rw [to22 _ e29_24]
  simp [dec22, immOk_none, immOk_some, immOf_none, immOf_some, immMS, e23_19, e18_12, e11_8, e7_0]

theorem csrr (d c : Nat) : Statement (.csrr d c) := by
  intro h _ kk hk
  simp only [Instr.wf, Imm.wf, Bool.and_eq_true, Bool.not_eq_true', decide_eq_true_eq, decide_eq_false_iff_not] at h
  obtain ⟨w, hw⟩ : ∃ w, encodeBody (.csrr d c) = w := ⟨_, rfl⟩
  rw [hw]
  replace hw : 0x23000000 + d * 131072 + c = w := hw
  have e29_24 : fld w 29 24 = 0x23 := by simp only [fld_eq]; omega
  have e23_17 : fld w 23 17 = d := by simp only [fld_eq]; omega
  have e16_8 : fld w 16 8 = 0 := by simp only [fld_eq]; omega
  have e7_0 : fld w 7 0 = c := by simp only [fld_eq]; omega
  rw [to23 _ e29_24]
  simp [dec23, immOk_none, immOk_some, immOf_none, immOf_some, immMS, e23_17, e16_8, e7_0]

theorem csrw (a c : Nat) : Statement (.csrw a c) := by
  intro h _ kk hk
  simp only [Instr.wf, Imm.wf, Bool.and_eq_true, Bool.not_eq_true', decide_eq_true_eq, decide_eq_false_iff_not] at h
  obtain ⟨w, hw⟩ : ∃ w, encodeBody (.csrw a c) = w := ⟨_, rfl⟩
  rw [hw]
  replace hw : 0x23000100 + a * 1024 + c = w := hw
  have e29_24 : fld w 29 24 = 0x23 := by simp only [fld_eq]; omega
  have e23_17 : fld w 23 17 = 0 := by simp only [fld_eq]; omega
  have e16_10 : fld w 16 10 = a := by simp only [fld_eq]; omega
  have n16_8_0 : ¬ fld w 16 8 = 0 := by simp only [fld_eq]; omega
  have e9_8 : fld w 9 8 = 1 := by simp only [fld_eq]; omega
  have e7_0 : fld w 7 0 = c := by simp only [fld_eq]; omega
  rw [to23 _ e29_24]
  simp [dec23, immOk_none, immOk_some, immOf_none, immOf_some, immMS, e23_17, e16_10, n16_8_0, e9_8, e7_0]

theorem csrx (d a c : Nat) : Statement (.csrx d a c) := by
  intro h _ kk hk
  simp only [Instr.wf, Imm.wf, Bool.and_eq_true, Bool.not_eq_true', decide_eq_true_eq, decide_eq_false_iff_not] at h
  obtain ⟨w, hw⟩ : ∃ w, encodeBody (.csrx d a c) = w := ⟨_, rfl⟩
  rw [hw]
  replace hw : 0x23000200 + d * 131072 + a * 1024 + c = w := hw
  have e29_24 : fld w 29 24 = 0x23 := by simp only [fld_eq]; omega
  have e23_17 : fld w 23 17 = d := by simp only [fld_eq]; omega
  have e16_10 : fld w 16 10 = a := by simp only [fld_eq]; omega
  have n16_8_0 : ¬ fld w 16 8 = 0 := by simp only [fld_eq]; omega
  have e9_8 : fld w 9 8 = 2 := by simp only [fld_eq]; omega
  have e7_0 : fld w 7 0 = c := by simp only [fld_eq]; omega
  rw [to23 _ e29_24]
  simp [dec23, immOk_none, immOk_some, immOf_none, immOf_some, immMS, e23_17, e16_10, n16_8_0, e9_8, e7_0]

theorem launch (d a : Nat) : Statement (.launch d a) := by
  intro h _ kk hk
  simp only [Instr.wf, Imm.wf, Bool.and_eq_true, Bool.not_eq_true', decide_eq_true_eq, decide_eq_false_iff_not] at h
  obtain ⟨w, hw⟩ : ∃ w, encodeBody (.launch d a) = w := ⟨_, rfl⟩
  rw [hw]
  replace hw : 0x24000000 + d * 131072 + a * 1024 = w := hw
  have e29_24 : fld w 29 24 = 0x24 := by simp only [fld_eq]; omega
  have e23_17 : fld w 23 17 = d := by simp only [fld_eq]; omega
  have e16_10 : fld w 16 10 = a := by simp only [fld_eq]; omega
  have e9_0 : fld w 9 0 = 0 := by simp only [fld_eq]; omega
  rw [to24 _ e29_24]
  simp [dec24, immOk_none, immOk_some, immOf_none, immOf_some, immMS, e23_17, e16_10, e9_0]

theorem bencho (d a b : Nat) : Statement (.bencho d a b) := by
  intro h _ kk hk
  simp only [Instr.wf, Imm.wf, Bool.and_eq_true, Bool.not_eq_true', decide_eq_true_eq, decide_eq_false_iff_not] at h
  obtain ⟨w, hw⟩ : ∃ w, encodeBody (.bencho d a b) = w := ⟨_, rfl⟩
  rw [hw]
  replace hw : 0x24000001 + d * 131072 + a * 1024 + b * 8 = w := hw
  have e29_24 : fld w 29 24 = 0x24 := by simp only [fld_eq]; omega
  have e23_17 : fld w 23 17 = d := by simp only [fld_eq]; omega
  have e16_10 : fld w 16 10 = a := by simp only [fld_eq]; omega
  have e9_3 : fld w 9 3 = b := by simp only [fld_eq]; omega
  have n9_0_0 : ¬ fld w 9 0 = 0 := by simp only [fld_eq]; omega
  have e2_0 : fld w 2 0 = 1 := by simp only [fld_eq]; omega
  rw [to24 _ e29_24]
  simp [dec24, immOk_none, immOk_some, immOf_none, immOf_some, immMS, e23_17, e16_10, e9_3, n9_0_0, e2_0]

theorem benchi (d a b : Nat) : Statement (.benchi d a b) := by
  intro h _ kk hk
  simp only [Instr.wf, Imm.wf, Bool.and_eq_true, Bool.not_eq_true', decide_eq_true_eq, decide_eq_false_iff_not] at h
  obtain ⟨w, hw⟩ : ∃ w, encodeBody (.benchi d a b) = w := ⟨_, rfl⟩
  rw [hw]
  replace hw : 0x24000002 + d * 131072 + a * 1024 + b * 8 = w := hw
  have e29_24 : fld w 29 24 = 0x24 := by simp only [fld_eq]; omega
  have e23_17 : fld w 23 17 = d := by simp only [fld_eq]; omega
  have e16_10 : fld w 16 10 = a := by simp only [fld_eq]; omega
  have e9_3 : fld w 9 3 = b := by simp only [fld_eq]; omega
  have n9_0_0 : ¬ fld w 9 0 = 0 := by simp only [fld_eq]; omega
  have e2_0 : fld w 2 0 = 2 := by simp only [fld_eq]; omega
  rw [to24 _ e29_24]
  simp [dec24, immOk_none, immOk_some, immOf_none, immOf_some, immMS, e23_17, e16_10, e9_3, n9_0_0, e2_0]

theorem mapset (d a : Nat) : Statement (.mapset d a) := by
  intro h _ kk hk
  simp only [Instr.wf, Imm.wf, Bool.and_eq_true, Bool.not_eq_true', decide_eq_true_eq, decide_eq_false_iff_not] at h
  obtain ⟨w, hw⟩ : ∃ w, encodeBody (.mapset d a) = w := ⟨_, rfl⟩
  rw [hw]
  replace hw : 0x24000003 + d * 131072 + a * 1024 = w := hw
  have e29_24 : fld w 29 24 = 0x24 := by simp only [fld_eq]; omega
  have e23_17 : fld w 23 17 = d := by simp only [fld_eq]; omega
  have e16_10 : fld w 16 10 = a := by simp only [fld_eq]; omega
  have e9_3 : fld w 9 3 = 0 := by simp only [fld_eq]; omega
  have e9_0 : fld w 9 0 = 3 := by simp only [fld_eq]; omega
  have e2_0 : fld w 2 0 = 3 := by simp only [fld_eq]; omega
  rw [to24 _ e29_24]
  simp [dec24, immOk_none, immOk_some, immOf_none, immOf_some, immMS, e23_17, e16_10, e9_3, e9_0, e2_0]

theorem xinv (d a b : Nat) : Statement (.xinv d a b) := by
  intro h _ kk hk
  simp only [Instr.wf, Imm.wf, Bool.and_eq_true, Bool.not_eq_true', decide_eq_true_eq, decide_eq_false_iff_not] at h
  obtain ⟨w, hw⟩ : ∃ w, encodeBody (.xinv d a b) = w := ⟨_, rfl⟩
  rw [hw]
  replace hw : 0x24000004 + d * 131072 + a * 1024 + b * 8 = w := hw
  have e29_24 : fld w 29 24 = 0x24 := by simp only [fld_eq]; omega
  have e23_17 : fld w 23 17 = d := by simp only [fld_eq]; omega
  have e16_10 : fld w 16 10 = a := by simp only [fld_eq]; omega
  have e9_3 : fld w 9 3 = b := by simp only [fld_eq]; omega
  have n9_0_0 : ¬ fld w 9 0 = 0 := by simp only [fld_eq]; omega
  have n9_0_3 : ¬ fld w 9 0 = 3 := by simp only [fld_eq]; omega
  have e2_0 : fld w 2 0 = 4 := by simp only [fld_eq]; omega
  rw [to24 _ e29_24]
  simp [dec24, immOk_none, immOk_some, immOf_none, immOf_some, immMS, e23_17, e16_10, e9_3, n9_0_0, n9_0_3, e2_0]

theorem keyset (d a : Nat) : Statement (.keyset d a) := by
  intro h _ kk hk
  simp only [Instr.wf, Imm.wf, Bool.and_eq_true, Bool.not_eq_true', decide_eq_true_eq, decide_eq_false_iff_not] at h
  obtain ⟨w, hw⟩ : ∃ w, encodeBody (.keyset d a) = w := ⟨_, rfl⟩
  rw [hw]
  replace hw : 0x24000005 + d * 131072 + a * 1024 = w := hw
  have e29_24 : fld w 29 24 = 0x24 := by simp only [fld_eq]; omega
  have e23_17 : fld w 23 17 = d := by simp only [fld_eq]; omega
  have e16_10 : fld w 16 10 = a := by simp only [fld_eq]; omega
  have e9_3 : fld w 9 3 = 0 := by simp only [fld_eq]; omega
  have e9_0 : fld w 9 0 = 5 := by simp only [fld_eq]; omega
  have e2_0 : fld w 2 0 = 5 := by simp only [fld_eq]; omega
  rw [to24 _ e29_24]
  simp [dec24, immOk_none, immOk_some, immOf_none, immOf_some, immMS, e23_17, e16_10, e9_3, e9_0, e2_0]

theorem selft (d a : Nat) : Statement (.selft d a) := by
  intro h _ kk hk
  simp only [Instr.wf, Imm.wf, Bool.and_eq_true, Bool.not_eq_true', decide_eq_true_eq, decide_eq_false_iff_not] at h
  obtain ⟨w, hw⟩ : ∃ w, encodeBody (.selft d a) = w := ⟨_, rfl⟩
  rw [hw]
  replace hw : 0x24000006 + d * 131072 + a * 1024 = w := hw
  have e29_24 : fld w 29 24 = 0x24 := by simp only [fld_eq]; omega
  have e23_17 : fld w 23 17 = d := by simp only [fld_eq]; omega
  have e16_10 : fld w 16 10 = a := by simp only [fld_eq]; omega
  have e9_3 : fld w 9 3 = 0 := by simp only [fld_eq]; omega
  have e9_0 : fld w 9 0 = 6 := by simp only [fld_eq]; omega
  have e2_0 : fld w 2 0 = 6 := by simp only [fld_eq]; omega
  rw [to24 _ e29_24]
  simp [dec24, immOk_none, immOk_some, immOf_none, immOf_some, immMS, e23_17, e16_10, e9_3, e9_0, e2_0]

theorem vre (a b : Nat) : Statement (.vre a b) := by
  intro h _ kk hk
  simp only [Instr.wf, Imm.wf, Bool.and_eq_true, Bool.not_eq_true', decide_eq_true_eq, decide_eq_false_iff_not] at h
  obtain ⟨w, hw⟩ : ∃ w, encodeBody (.vre a b) = w := ⟨_, rfl⟩
  rw [hw]
  replace hw : 0x25000001 + a * 1024 + b * 8 = w := hw
  have e29_24 : fld w 29 24 = 0x25 := by simp only [fld_eq]; omega
  have e23_17 : fld w 23 17 = 0 := by simp only [fld_eq]; omega
  have n23_0_0 : ¬ fld w 23 0 = 0 := by simp only [fld_eq]; omega
  have e16_10 : fld w 16 10 = a := by simp only [fld_eq]; omega
  have e9_3 : fld w 9 3 = b := by simp only [fld_eq]; omega
  have e2_0 : fld w 2 0 = 1 := by simp only [fld_eq]; omega
  rw [to25 _ e29_24]
  simp [dec25, immOk_none, immOk_some, immOf_none, immOf_some, immMS, e23_17, n23_0_0, e16_10, e9_3, e2_0]

theorem add (d a b : Nat) : Statement (.add d a b) :=
  g3 0x28000000 .add (by decide) (fun _ _ _ => rfl) (fun _ _ _ => rfl) (fun k w h1 h2 => by
    rw [to28 k h1]; simp only [dec28, h2]; rfl) d a b

theorem sub (d a b : Nat) : Statement (.sub d a b) :=
  g3 0x28000001 .sub (by decide) (fun _ _ _ => rfl) (fun _ _ _ => rfl) (fun k w h1 h2 => by
    rw [to28 k h1]; simp only [dec28, h2]; rfl) d a b

theorem and (d a b : Nat) : Statement (.and d a b) :=
  g3 0x28000002 .and (by decide) (fun _ _ _ => rfl) (fun _ _ _ => rfl) (fun k w h1 h2 => by
    rw [to28 k h1]; simp only [dec28, h2]; rfl) d a b

theorem or (d a b : Nat) : Statement (.or d a b) :=
  g3 0x28000003 .or (by decide) (fun _ _ _ => rfl) (fun _ _ _ => rfl) (fun k w h1 h2 => by
    rw [to28 k h1]; simp only [dec28, h2]; rfl) d a b

theorem xor (d a b : Nat) : Statement (.xor d a b) :=
  g3 0x28000004 .xor (by decide) (fun _ _ _ => rfl) (fun _ _ _ => rfl) (fun k w h1 h2 => by
    rw [to28 k h1]; simp only [dec28, h2]; rfl) d a b

theorem andn (d a b : Nat) : Statement (.andn d a b) :=
  g3 0x28000005 .andn (by decide) (fun _ _ _ => rfl) (fun _ _ _ => rfl) (fun k w h1 h2 => by
    rw [to28 k h1]; simp only [dec28, h2]; rfl) d a b

theorem sll (d a b : Nat) : Statement (.sll d a b) :=
  g3 0x28000006 .sll (by decide) (fun _ _ _ => rfl) (fun _ _ _ => rfl) (fun k w h1 h2 => by
    rw [to28 k h1]; simp only [dec28, h2]; rfl) d a b

theorem srl (d a b : Nat) : Statement (.srl d a b) :=
  g3 0x28000007 .srl (by decide) (fun _ _ _ => rfl) (fun _ _ _ => rfl) (fun k w h1 h2 => by
    rw [to28 k h1]; simp only [dec28, h2]; rfl) d a b

theorem sra (d a b : Nat) : Statement (.sra d a b) :=
  g3 0x29000000 .sra (by decide) (fun _ _ _ => rfl) (fun _ _ _ => rfl) (fun k w h1 h2 => by
    rw [to29 k h1]; simp only [dec29, h2]; rfl) d a b

theorem rotr (d a b : Nat) : Statement (.rotr d a b) :=
  g3 0x29000001 .rotr (by decide) (fun _ _ _ => rfl) (fun _ _ _ => rfl) (fun k w h1 h2 => by
    rw [to29 k h1]; simp only [dec29, h2]; rfl) d a b

theorem min (d a b : Nat) : Statement (.min d a b) :=
  g3 0x29000002 .min (by decide) (fun _ _ _ => rfl) (fun _ _ _ => rfl) (fun k w h1 h2 => by
    rw [to29 k h1]; simp only [dec29, h2]; rfl) d a b

theorem max (d a b : Nat) : Statement (.max d a b) :=
  g3 0x29000003 .max (by decide) (fun _ _ _ => rfl) (fun _ _ _ => rfl) (fun k w h1 h2 => by
    rw [to29 k h1]; simp only [dec29, h2]; rfl) d a b

theorem minu (d a b : Nat) : Statement (.minu d a b) :=
  g3 0x29000004 .minu (by decide) (fun _ _ _ => rfl) (fun _ _ _ => rfl) (fun k w h1 h2 => by
    rw [to29 k h1]; simp only [dec29, h2]; rfl) d a b

theorem maxu (d a b : Nat) : Statement (.maxu d a b) :=
  g3 0x29000005 .maxu (by decide) (fun _ _ _ => rfl) (fun _ _ _ => rfl) (fun k w h1 h2 => by
    rw [to29 k h1]; simp only [dec29, h2]; rfl) d a b

theorem addw (d a b : Nat) : Statement (.addw d a b) :=
  g3 0x29000006 .addw (by decide) (fun _ _ _ => rfl) (fun _ _ _ => rfl) (fun k w h1 h2 => by
    rw [to29 k h1]; simp only [dec29, h2]; rfl) d a b

theorem subw (d a b : Nat) : Statement (.subw d a b) :=
  g3 0x29000007 .subw (by decide) (fun _ _ _ => rfl) (fun _ _ _ => rfl) (fun k w h1 h2 => by
    rw [to29 k h1]; simp only [dec29, h2]; rfl) d a b

theorem mul (d a b : Nat) : Statement (.mul d a b) :=
  g3 0x2A000000 .mul (by decide) (fun _ _ _ => rfl) (fun _ _ _ => rfl) (fun k w h1 h2 => by
    rw [to2A k h1]; simp only [dec2A, h2]; rfl) d a b

theorem mulh (d a b : Nat) : Statement (.mulh d a b) :=
  g3 0x2A000001 .mulh (by decide) (fun _ _ _ => rfl) (fun _ _ _ => rfl) (fun k w h1 h2 => by
    rw [to2A k h1]; simp only [dec2A, h2]; rfl) d a b

theorem mulhu (d a b : Nat) : Statement (.mulhu d a b) :=
  g3 0x2A000002 .mulhu (by decide) (fun _ _ _ => rfl) (fun _ _ _ => rfl) (fun k w h1 h2 => by
    rw [to2A k h1]; simp only [dec2A, h2]; rfl) d a b

theorem mulw (d a b : Nat) : Statement (.mulw d a b) :=
  g3 0x2A000003 .mulw (by decide) (fun _ _ _ => rfl) (fun _ _ _ => rfl) (fun k w h1 h2 => by
    rw [to2A k h1]; simp only [dec2A, h2]; rfl) d a b

theorem div (d a b : Nat) : Statement (.div d a b) :=
  g3 0x2A000004 .div (by decide) (fun _ _ _ => rfl) (fun _ _ _ => rfl) (fun k w h1 h2 => by
    rw [to2A k h1]; simp only [dec2A, h2]; rfl) d a b

theorem divu (d a b : Nat) : Statement (.divu d a b) :=
  g3 0x2A000005 .divu (by decide) (fun _ _ _ => rfl) (fun _ _ _ => rfl) (fun k w h1 h2 => by
    rw [to2A k h1]; simp only [dec2A, h2]; rfl) d a b

theorem rem (d a b : Nat) : Statement (.rem d a b) :=
  g3 0x2A000006 .rem (by decide) (fun _ _ _ => rfl) (fun _ _ _ => rfl) (fun k w h1 h2 => by
    rw [to2A k h1]; simp only [dec2A, h2]; rfl) d a b

theorem remu (d a b : Nat) : Statement (.remu d a b) :=
  g3 0x2A000007 .remu (by decide) (fun _ _ _ => rfl) (fun _ _ _ => rfl) (fun k w h1 h2 => by
    rw [to2A k h1]; simp only [dec2A, h2]; rfl) d a b

theorem clz (d a : Nat) : Statement (.clz d a) := by
  intro h _ kk hk
  simp only [Instr.wf, Imm.wf, Bool.and_eq_true, Bool.not_eq_true', decide_eq_true_eq, decide_eq_false_iff_not] at h
  obtain ⟨w, hw⟩ : ∃ w, encodeBody (.clz d a) = w := ⟨_, rfl⟩
  rw [hw]
  replace hw : 0x2B000000 + d * 131072 + a * 1024 = w := hw
  have e29_24 : fld w 29 24 = 0x2B := by simp only [fld_eq]; omega
  have e23_17 : fld w 23 17 = d := by simp only [fld_eq]; omega
  have e16_10 : fld w 16 10 = a := by simp only [fld_eq]; omega
  have e9_0 : fld w 9 0 = 0 := by simp only [fld_eq]; omega
  rw [to2B _ e29_24]
  simp [dec2B, immOk_none, immOk_some, immOf_none, immOf_some, immMS, e23_17, e16_10, e9_0]

theorem ctz (d a : Nat) : Statement (.ctz d a) := by
  intro h _ kk hk
  simp only [Instr.wf, Imm.wf, Bool.and_eq_true, Bool.not_eq_true', decide_eq_true_eq, decide_eq_false_iff_not] at h
  obtain ⟨w, hw⟩ : ∃ w, encodeBody (.ctz d a) = w := ⟨_, rfl⟩
  rw [hw]
  replace hw : 0x2B000001 + d * 131072 + a * 1024 = w := hw
  have e29_24 : fld w 29 24 = 0x2B := by simp only [fld_eq]; omega
  have e23_17 : fld w 23 17 = d := by simp only [fld_eq]; omega
  have e16_10 : fld w 16 10 = a := by simp only [fld_eq]; omega
  have e9_0 : fld w 9 0 = 1 := by simp only [fld_eq]; omega
  rw [to2B _ e29_24]
  simp [dec2B, immOk_none, immOk_some, immOf_none, immOf_some, immMS, e23_17, e16_10, e9_0]

theorem popc (d a : Nat) : Statement (.popc d a) := by
  intro h _ kk hk
  simp only [Instr.wf, Imm.wf, Bool.and_eq_true, Bool.not_eq_true', decide_eq_true_eq, decide_eq_false_iff_not] at h
  obtain ⟨w, hw⟩ : ∃ w, encodeBody (.popc d a) = w := ⟨_, rfl⟩
  rw [hw]
  replace hw : 0x2B000002 + d * 131072 + a * 1024 = w := hw
  have e29_24 : fld w 29 24 = 0x2B := by simp only [fld_eq]; omega
  have e23_17 : fld w 23 17 = d := by simp only [fld_eq]; omega
  have e16_10 : fld w 16 10 = a := by simp only [fld_eq]; omega
  have e9_0 : fld w 9 0 = 2 := by simp only [fld_eq]; omega
  rw [to2B _ e29_24]
  simp [dec2B, immOk_none, immOk_some, immOf_none, immOf_some, immMS, e23_17, e16_10, e9_0]

theorem brev (d a : Nat) : Statement (.brev d a) := by
  intro h _ kk hk
  simp only [Instr.wf, Imm.wf, Bool.and_eq_true, Bool.not_eq_true', decide_eq_true_eq, decide_eq_false_iff_not] at h
  obtain ⟨w, hw⟩ : ∃ w, encodeBody (.brev d a) = w := ⟨_, rfl⟩
  rw [hw]
  replace hw : 0x2B000003 + d * 131072 + a * 1024 = w := hw
  have e29_24 : fld w 29 24 = 0x2B := by simp only [fld_eq]; omega
  have e23_17 : fld w 23 17 = d := by simp only [fld_eq]; omega
  have e16_10 : fld w 16 10 = a := by simp only [fld_eq]; omega
  have e9_0 : fld w 9 0 = 3 := by simp only [fld_eq]; omega
  rw [to2B _ e29_24]
  simp [dec2B, immOk_none, immOk_some, immOf_none, immOf_some, immMS, e23_17, e16_10, e9_0]

theorem bswap (d a : Nat) : Statement (.bswap d a) := by
  intro h _ kk hk
  simp only [Instr.wf, Imm.wf, Bool.and_eq_true, Bool.not_eq_true', decide_eq_true_eq, decide_eq_false_iff_not] at h
  obtain ⟨w, hw⟩ : ∃ w, encodeBody (.bswap d a) = w := ⟨_, rfl⟩
  rw [hw]
  replace hw : 0x2B000004 + d * 131072 + a * 1024 = w := hw
  have e29_24 : fld w 29 24 = 0x2B := by simp only [fld_eq]; omega
  have e23_17 : fld w 23 17 = d := by simp only [fld_eq]; omega
  have e16_10 : fld w 16 10 = a := by simp only [fld_eq]; omega
  have e9_0 : fld w 9 0 = 4 := by simp only [fld_eq]; omega
  rw [to2B _ e29_24]
  simp [dec2B, immOk_none, immOk_some, immOf_none, immOf_some, immMS, e23_17, e16_10, e9_0]

theorem sext (d a b : Nat) : Statement (.sext d a b) := by
  intro h _ kk hk
  simp only [Instr.wf, Imm.wf, Bool.and_eq_true, Bool.not_eq_true', decide_eq_true_eq, decide_eq_false_iff_not] at h
  obtain ⟨w, hw⟩ : ∃ w, encodeBody (.sext d a b) = w := ⟨_, rfl⟩
  rw [hw]
  replace hw : 0x2B000005 + d * 131072 + a * 1024 + b * 8 = w := hw
  have e29_24 : fld w 29 24 = 0x2B := by simp only [fld_eq]; omega
  have e23_17 : fld w 23 17 = d := by simp only [fld_eq]; omega
  have e16_10 : fld w 16 10 = a := by simp only [fld_eq]; omega
  have e9_3 : fld w 9 3 = b := by simp only [fld_eq]; omega
  have n9_0_0 : ¬ fld w 9 0 = 0 := by simp only [fld_eq]; omega
  have n9_0_1 : ¬ fld w 9 0 = 1 := by simp only [fld_eq]; omega
  have n9_0_2 : ¬ fld w 9 0 = 2 := by simp only [fld_eq]; omega
  have n9_0_3 : ¬ fld w 9 0 = 3 := by simp only [fld_eq]; omega
  have n9_0_4 : ¬ fld w 9 0 = 4 := by simp only [fld_eq]; omega
  have e2_0 : fld w 2 0 = 5 := by simp only [fld_eq]; omega
  rw [to2B _ e29_24]
  simp [dec2B, immOk_none, immOk_some, immOf_none, immOf_some, immMS, e23_17, e16_10, e9_3, n9_0_0, n9_0_1, n9_0_2, n9_0_3, n9_0_4, e2_0] <;> omega

theorem zext (d a b : Nat) : Statement (.zext d a b) := by
  intro h _ kk hk
  simp only [Instr.wf, Imm.wf, Bool.and_eq_true, Bool.not_eq_true', decide_eq_true_eq, decide_eq_false_iff_not] at h
  obtain ⟨w, hw⟩ : ∃ w, encodeBody (.zext d a b) = w := ⟨_, rfl⟩
  rw [hw]
  replace hw : 0x2B000006 + d * 131072 + a * 1024 + b * 8 = w := hw
  have e29_24 : fld w 29 24 = 0x2B := by simp only [fld_eq]; omega
  have e23_17 : fld w 23 17 = d := by simp only [fld_eq]; omega
  have e16_10 : fld w 16 10 = a := by simp only [fld_eq]; omega
  have e9_3 : fld w 9 3 = b := by simp only [fld_eq]; omega
  have n9_0_0 : ¬ fld w 9 0 = 0 := by simp only [fld_eq]; omega
  have n9_0_1 : ¬ fld w 9 0 = 1 := by simp only [fld_eq]; omega
  have n9_0_2 : ¬ fld w 9 0 = 2 := by simp only [fld_eq]; omega
  have n9_0_3 : ¬ fld w 9 0 = 3 := by simp only [fld_eq]; omega
  have n9_0_4 : ¬ fld w 9 0 = 4 := by simp only [fld_eq]; omega
  have e2_0 : fld w 2 0 = 6 := by simp only [fld_eq]; omega
  rw [to2B _ e29_24]
  simp [dec2B, immOk_none, immOk_some, immOf_none, immOf_some, immMS, e23_17, e16_10, e9_3, n9_0_0, n9_0_1, n9_0_2, n9_0_3, n9_0_4, e2_0] <;> omega

theorem addi (d a : Nat) (i : Imm) : Statement (.addi d a i) := by
  intro h _ kk hk
  rcases i with v | v
  · simp only [Instr.wf, Imm.wf, Bool.and_eq_true, Bool.not_eq_true', decide_eq_true_eq, decide_eq_false_iff_not] at h
    obtain rfl : kk = none := by simpa [Instr.kind, Imm.kind, KKind.fits] using hk
    obtain ⟨w, hw⟩ : ∃ w, encodeBody (.addi d a (.short v)) = w := ⟨_, rfl⟩
    rw [hw]
    replace hw : 0x2C000000 + d * 131072 + a * 1024 + v = w := hw
    have e29_24 : fld w 29 24 = 0x2C := by simp only [fld_eq]; omega
    have e23_17 : fld w 23 17 = d := by simp only [fld_eq]; omega
    have e16_10 : fld w 16 10 = a := by simp only [fld_eq]; omega
    have e9_0 : fld w 9 0 = v := by simp only [fld_eq]; omega
    rw [to2C _ e29_24]
    simp [dec2C, immOk_none, immOk_some, immOf_none, immOf_some, immMS, e23_17, e16_10, e9_0]
  · simp only [Instr.wf, Imm.wf, Bool.and_eq_true, Bool.not_eq_true', decide_eq_true_eq, decide_eq_false_iff_not] at h
    obtain rfl : kk = some v := by simpa [Instr.kind, Imm.kind, KKind.fits] using hk
    obtain ⟨w, hw⟩ : ∃ w, encodeBody (.addi d a (.long v)) = w := ⟨_, rfl⟩
    rw [hw]
    replace hw : 0x2C000000 + d * 131072 + a * 1024 + 0 = w := hw
    have e29_24 : fld w 29 24 = 0x2C := by simp only [fld_eq]; omega
    have e23_17 : fld w 23 17 = d := by simp only [fld_eq]; omega
    have e16_10 : fld w 16 10 = a := by simp only [fld_eq]; omega
    have e9_0 : fld w 9 0 = 0 := by simp only [fld_eq]; omega
    rw [to2C _ e29_24]
    simp [dec2C, immOk_none, immOk_some, immOf_none, immOf_some, immMS, e23_17, e16_10, e9_0]

theorem andi (d a : Nat) (i : Imm) : Statement (.andi d a i) := by
  intro h _ kk hk
  rcases i with v | v
  · simp only [Instr.wf, Imm.wf, Bool.and_eq_true, Bool.not_eq_true', decide_eq_true_eq, decide_eq_false_iff_not] at h
    obtain rfl : kk = none := by simpa [Instr.kind, Imm.kind, KKind.fits] using hk
    obtain ⟨w, hw⟩ : ∃ w, encodeBody (.andi d a (.short v)) = w := ⟨_, rfl⟩
    rw [hw]
    replace hw : 0x2D000000 + d * 131072 + a * 1024 + v = w := hw
    have e29_24 : fld w 29 24 = 0x2D := by simp only [fld_eq]; omega
    have e23_17 : fld w 23 17 = d := by simp only [fld_eq]; omega
    have e16_10 : fld w 16 10 = a := by simp only [fld_eq]; omega
    have e9_0 : fld w 9 0 = v := by simp only [fld_eq]; omega
    rw [to2D _ e29_24]
    simp [dec2D, immOk_none, immOk_some, immOf_none, immOf_some, immMS, e23_17, e16_10, e9_0]
  · simp only [Instr.wf, Imm.wf, Bool.and_eq_true, Bool.not_eq_true', decide_eq_true_eq, decide_eq_false_iff_not] at h
    obtain rfl : kk = some v := by simpa [Instr.kind, Imm.kind, KKind.fits] using hk
    obtain ⟨w, hw⟩ : ∃ w, encodeBody (.andi d a (.long v)) = w := ⟨_, rfl⟩
    rw [hw]
    replace hw : 0x2D000000 + d * 131072 + a * 1024 + 0 = w := hw
    have e29_24 : fld w 29 24 = 0x2D := by simp only [fld_eq]; omega
    have e23_17 : fld w 23 17 = d := by simp only [fld_eq]; omega
    have e16_10 : fld w 16 10 = a := by simp only [fld_eq]; omega
    have e9_0 : fld w 9 0 = 0 := by simp only [fld_eq]; omega
    rw [to2D _ e29_24]
    simp [dec2D, immOk_none, immOk_some, immOf_none, immOf_some, immMS, e23_17, e16_10, e9_0]

theorem ori (d a : Nat) (i : Imm) : Statement (.ori d a i) := by
  intro h _ kk hk
  rcases i with v | v
  · simp only [Instr.wf, Imm.wf, Bool.and_eq_true, Bool.not_eq_true', decide_eq_true_eq, decide_eq_false_iff_not] at h
    obtain rfl : kk = none := by simpa [Instr.kind, Imm.kind, KKind.fits] using hk
    obtain ⟨w, hw⟩ : ∃ w, encodeBody (.ori d a (.short v)) = w := ⟨_, rfl⟩
    rw [hw]
    replace hw : 0x2E000000 + d * 131072 + a * 1024 + v = w := hw
    have e29_24 : fld w 29 24 = 0x2E := by simp only [fld_eq]; omega
    have e23_17 : fld w 23 17 = d := by simp only [fld_eq]; omega
    have e16_10 : fld w 16 10 = a := by simp only [fld_eq]; omega
    have e9_0 : fld w 9 0 = v := by simp only [fld_eq]; omega
    rw [to2E _ e29_24]
    simp [dec2E, immOk_none, immOk_some, immOf_none, immOf_some, immMS, e23_17, e16_10, e9_0]
  · simp only [Instr.wf, Imm.wf, Bool.and_eq_true, Bool.not_eq_true', decide_eq_true_eq, decide_eq_false_iff_not] at h
    obtain rfl : kk = some v := by simpa [Instr.kind, Imm.kind, KKind.fits] using hk
    obtain ⟨w, hw⟩ : ∃ w, encodeBody (.ori d a (.long v)) = w := ⟨_, rfl⟩
    rw [hw]
    replace hw : 0x2E000000 + d * 131072 + a * 1024 + 0 = w := hw
    have e29_24 : fld w 29 24 = 0x2E := by simp only [fld_eq]; omega
    have e23_17 : fld w 23 17 = d := by simp only [fld_eq]; omega
    have e16_10 : fld w 16 10 = a := by simp only [fld_eq]; omega
    have e9_0 : fld w 9 0 = 0 := by simp only [fld_eq]; omega
    rw [to2E _ e29_24]
    simp [dec2E, immOk_none, immOk_some, immOf_none, immOf_some, immMS, e23_17, e16_10, e9_0]

theorem xori (d a : Nat) (i : Imm) : Statement (.xori d a i) := by
  intro h _ kk hk
  rcases i with v | v
  · simp only [Instr.wf, Imm.wf, Bool.and_eq_true, Bool.not_eq_true', decide_eq_true_eq, decide_eq_false_iff_not] at h
    obtain rfl : kk = none := by simpa [Instr.kind, Imm.kind, KKind.fits] using hk
    obtain ⟨w, hw⟩ : ∃ w, encodeBody (.xori d a (.short v)) = w := ⟨_, rfl⟩
    rw [hw]
    replace hw : 0x2F000000 + d * 131072 + a * 1024 + v = w := hw
    have e29_24 : fld w 29 24 = 0x2F := by simp only [fld_eq]; omega
    have e23_17 : fld w 23 17 = d := by simp only [fld_eq]; omega
    have e16_10 : fld w 16 10 = a := by simp only [fld_eq]; omega
    have e9_0 : fld w 9 0 = v := by simp only [fld_eq]; omega
    rw [to2F _ e29_24]
    simp [dec2F, immOk_none, immOk_some, immOf_none, immOf_some, immMS, e23_17, e16_10, e9_0]
  · simp only [Instr.wf, Imm.wf, Bool.and_eq_true, Bool.not_eq_true', decide_eq_true_eq, decide_eq_false_iff_not] at h
    obtain rfl : kk = some v := by simpa [Instr.kind, Imm.kind, KKind.fits] using hk
    obtain ⟨w, hw⟩ : ∃ w, encodeBody (.xori d a (.long v)) = w := ⟨_, rfl⟩
    rw [hw]
    replace hw : 0x2F000000 + d * 131072 + a * 1024 + 0 = w := hw
    have e29_24 : fld w 29 24 = 0x2F := by simp only [fld_eq]; omega
    have e23_17 : fld w 23 17 = d := by simp only [fld_eq]; omega
    have e16_10 : fld w 16 10 = a := by simp only [fld_eq]; omega
    have e9_0 : fld w 9 0 = 0 := by simp only [fld_eq]; omega
    rw [to2F _ e29_24]
    simp [dec2F, immOk_none, immOk_some, immOf_none, immOf_some, immMS, e23_17, e16_10, e9_0]

theorem slli (d a s : Nat) : Statement (.slli d a s) := by
  intro h _ kk hk
  simp only [Instr.wf, Imm.wf, Bool.and_eq_true, Bool.not_eq_true', decide_eq_true_eq, decide_eq_false_iff_not] at h
  obtain ⟨w, hw⟩ : ∃ w, encodeBody (.slli d a s) = w := ⟨_, rfl⟩
  rw [hw]
  replace hw : 0x30000000 + d * 131072 + a * 1024 + s = w := hw
  have e29_24 : fld w 29 24 = 0x30 := by simp only [fld_eq]; omega
  have e23_17 : fld w 23 17 = d := by simp only [fld_eq]; omega
  have e16_10 : fld w 16 10 = a := by simp only [fld_eq]; omega
  have e9_6 : fld w 9 6 = 0 := by simp only [fld_eq]; omega
  have e5_0 : fld w 5 0 = s := by simp only [fld_eq]; omega
  rw [to30 _ e29_24]
  simp [dec30, immOk_none, immOk_some, immOf_none, immOf_some, immMS, e23_17, e16_10, e9_6, e5_0]

theorem srli (d a s : Nat) : Statement (.srli d a s) := by
  intro h _ kk hk
  simp only [Instr.wf, Imm.wf, Bool.and_eq_true, Bool.not_eq_true', decide_eq_true_eq, decide_eq_false_iff_not] at h
  obtain ⟨w, hw⟩ : ∃ w, encodeBody (.srli d a s) = w := ⟨_, rfl⟩
  rw [hw]
  replace hw : 0x30000100 + d * 131072 + a * 1024 + s = w := hw
  have e29_24 : fld w 29 24 = 0x30 := by simp only [fld_eq]; omega
  have e23_17 : fld w 23 17 = d := by simp only [fld_eq]; omega
  have e16_10 : fld w 16 10 = a := by simp only [fld_eq]; omega
  have e9_6 : fld w 9 6 = 4 := by simp only [fld_eq]; omega
  have e5_0 : fld w 5 0 = s := by simp only [fld_eq]; omega
  rw [to30 _ e29_24]
  simp [dec30, immOk_none, immOk_some, immOf_none, immOf_some, immMS, e23_17, e16_10, e9_6, e5_0]

theorem srai (d a s : Nat) : Statement (.srai d a s) := by
  intro h _ kk hk
  simp only [Instr.wf, Imm.wf, Bool.and_eq_true, Bool.not_eq_true', decide_eq_true_eq, decide_eq_false_iff_not] at h
  obtain ⟨w, hw⟩ : ∃ w, encodeBody (.srai d a s) = w := ⟨_, rfl⟩
  rw [hw]
  replace hw : 0x30000200 + d * 131072 + a * 1024 + s = w := hw
  have e29_24 : fld w 29 24 = 0x30 := by simp only [fld_eq]; omega
  have e23_17 : fld w 23 17 = d := by simp only [fld_eq]; omega
  have e16_10 : fld w 16 10 = a := by simp only [fld_eq]; omega
  have e9_6 : fld w 9 6 = 8 := by simp only [fld_eq]; omega
  have e5_0 : fld w 5 0 = s := by simp only [fld_eq]; omega
  rw [to30 _ e29_24]
  simp [dec30, immOk_none, immOk_some, immOf_none, immOf_some, immMS, e23_17, e16_10, e9_6, e5_0]

theorem rotri (d a s : Nat) : Statement (.rotri d a s) := by
  intro h _ kk hk
  simp only [Instr.wf, Imm.wf, Bool.and_eq_true, Bool.not_eq_true', decide_eq_true_eq, decide_eq_false_iff_not] at h
  obtain ⟨w, hw⟩ : ∃ w, encodeBody (.rotri d a s) = w := ⟨_, rfl⟩
  rw [hw]
  replace hw : 0x30000300 + d * 131072 + a * 1024 + s = w := hw
  have e29_24 : fld w 29 24 = 0x30 := by simp only [fld_eq]; omega
  have e23_17 : fld w 23 17 = d := by simp only [fld_eq]; omega
  have e16_10 : fld w 16 10 = a := by simp only [fld_eq]; omega
  have e9_6 : fld w 9 6 = 12 := by simp only [fld_eq]; omega
  have e5_0 : fld w 5 0 = s := by simp only [fld_eq]; omega
  rw [to30 _ e29_24]
  simp [dec30, immOk_none, immOk_some, immOf_none, immOf_some, immMS, e23_17, e16_10, e9_6, e5_0]

theorem movi (d : Nat) (i : Imm) : Statement (.movi d i) := by
  intro h _ kk hk
  rcases i with v | v
  · simp only [Instr.wf, Imm.wf, Bool.and_eq_true, Bool.not_eq_true', decide_eq_true_eq, decide_eq_false_iff_not] at h
    obtain rfl : kk = none := by simpa [Instr.kind, Imm.kind, KKind.fits] using hk
    obtain ⟨w, hw⟩ : ∃ w, encodeBody (.movi d (.short v)) = w := ⟨_, rfl⟩
    rw [hw]
    replace hw : 0x31000000 + d * 131072 + v = w := hw
    have e29_24 : fld w 29 24 = 0x31 := by simp only [fld_eq]; omega
    have e23_17 : fld w 23 17 = d := by simp only [fld_eq]; omega
    have e16_0 : fld w 16 0 = v := by simp only [fld_eq]; omega
    rw [to31 _ e29_24]
    simp [dec31, immOk_none, immOk_some, immOf_none, immOf_some, immMS, e23_17, e16_0]
  · simp only [Instr.wf, Imm.wf, Bool.and_eq_true, Bool.not_eq_true', decide_eq_true_eq, decide_eq_false_iff_not] at h
    obtain rfl : kk = some v := by simpa [Instr.kind, Imm.kind, KKind.fits] using hk
    obtain ⟨w, hw⟩ : ∃ w, encodeBody (.movi d (.long v)) = w := ⟨_, rfl⟩
    rw [hw]
    replace hw : 0x31000000 + d * 131072 + 0 = w := hw
    have e29_24 : fld w 29 24 = 0x31 := by simp only [fld_eq]; omega
    have e23_17 : fld w 23 17 = d := by simp only [fld_eq]; omega
    have e16_0 : fld w 16 0 = 0 := by simp only [fld_eq]; omega
    rw [to31 _ e29_24]
    simp [dec31, immOk_none, immOk_some, immOf_none, immOf_some, immMS, e23_17, e16_0]

theorem movhi (d k : Nat) : Statement (.movhi d k) := by
  intro h _ kk hk
  simp only [Instr.wf, Imm.wf, Bool.and_eq_true, Bool.not_eq_true', decide_eq_true_eq, decide_eq_false_iff_not] at h
  obtain rfl : kk = some k := by simpa [Instr.kind, KKind.fits] using hk
  obtain ⟨w, hw⟩ : ∃ w, encodeBody (.movhi d k) = w := ⟨_, rfl⟩
  rw [hw]
  replace hw : 0x32000000 + d * 131072 = w := hw
  have e29_24 : fld w 29 24 = 0x32 := by simp only [fld_eq]; omega
  have e23_17 : fld w 23 17 = d := by simp only [fld_eq]; omega
  have e16_0 : fld w 16 0 = 0 := by simp only [fld_eq]; omega
  rw [to32 _ e29_24]
  simp [dec32, immOk_none, immOk_some, immOf_none, immOf_some, immMS, e23_17, e16_0]

theorem cmp (k c a : Nat) (b : CmpRhs) : Statement (.cmp k c a b) := by
  intro h _ q hk
  simp only [Instr.wf, Bool.and_eq_true, decide_eq_true_eq] at h
  obtain ⟨w, hw⟩ : ∃ w, encodeBody (.cmp k c a b) = w := ⟨_, rfl⟩
  rw [hw]
  rcases b with r | v | v
  all_goals simp only [CmpRhs.wf, Imm.wf, decide_eq_true_eq] at h
  · replace hw : 0x33000000 + k * 4194304 + c * 262144 + a * 2048 + (r * 2) * 8 = w := hw
    have e : fld w 3 3 = 0 := by simp only [fld_eq]; omega
    have f : fld w 2 0 = 0 := by simp only [fld_eq]; omega
    have g : fld w 23 22 = k ∧ fld w 21 18 = c ∧ fld w 17 11 = a ∧ fld w 10 4 = r := by simp only [fld_eq]; omega
    rw [to33 _ (by simp only [fld_eq]; omega)]
    simp [dec33, e, f, g, cmpOk, cmpRhs]; omega
  · obtain rfl : q = none := by simpa [Instr.kind, CmpRhs.kind, Imm.kind, KKind.fits] using hk
    replace hw : 0x33000000 + k * 4194304 + c * 262144 + a * 2048 + (v * 2 + 1) * 8 = w := hw
    have e : fld w 3 3 = 1 := by simp only [fld_eq]; omega
    have f : fld w 2 0 = 0 := by simp only [fld_eq]; omega
    have g : fld w 23 22 = k ∧ fld w 21 18 = c ∧ fld w 17 11 = a ∧ fld w 10 4 = v := by simp only [fld_eq]; omega
    rw [to33 _ (by simp only [fld_eq]; omega)]
    simp [dec33, e, f, g, cmpOk, cmpRhs, immOk_none, immOf_none]; omega
  · obtain rfl : q = some v := by simpa [Instr.kind, CmpRhs.kind, Imm.kind, KKind.fits] using hk
    replace hw : 0x33000000 + k * 4194304 + c * 262144 + a * 2048 + (0 * 2 + 1) * 8 = w := hw
    have e : fld w 3 3 = 1 := by simp only [fld_eq]; omega
    have f : fld w 2 0 = 0 := by simp only [fld_eq]; omega
    have g : fld w 23 22 = k ∧ fld w 21 18 = c ∧ fld w 17 11 = a ∧ fld w 10 4 = 0 := by simp only [fld_eq]; omega
    rw [to33 _ (by simp only [fld_eq]; omega)]
    simp [dec33, e, f, g, cmpOk, cmpRhs, immOk_some, immOf_some]; omega

theorem cmpW (k c a : Nat) (b : CmpRhs) : Statement (.cmpW k c a b) := by
  intro h _ q hk
  simp only [Instr.wf, Bool.and_eq_true, decide_eq_true_eq] at h
  obtain ⟨w, hw⟩ : ∃ w, encodeBody (.cmpW k c a b) = w := ⟨_, rfl⟩
  rw [hw]
  rcases b with r | v | v
  all_goals simp only [CmpRhs.wf, Imm.wf, decide_eq_true_eq] at h
  · replace hw : 0x33000001 + k * 4194304 + c * 262144 + a * 2048 + (r * 2) * 8 = w := hw
    have e : fld w 3 3 = 0 := by simp only [fld_eq]; omega
    have f : fld w 2 0 = 1 := by simp only [fld_eq]; omega
    have g : fld w 23 22 = k ∧ fld w 21 18 = c ∧ fld w 17 11 = a ∧ fld w 10 4 = r := by simp only [fld_eq]; omega
    rw [to33 _ (by simp only [fld_eq]; omega)]
    simp [dec33, e, f, g, cmpOk, cmpRhs]; omega
  · obtain rfl : q = none := by simpa [Instr.kind, CmpRhs.kind, Imm.kind, KKind.fits] using hk
    replace hw : 0x33000001 + k * 4194304 + c * 262144 + a * 2048 + (v * 2 + 1) * 8 = w := hw
    have e : fld w 3 3 = 1 := by simp only [fld_eq]; omega
    have f : fld w 2 0 = 1 := by simp only [fld_eq]; omega
    have g : fld w 23 22 = k ∧ fld w 21 18 = c ∧ fld w 17 11 = a ∧ fld w 10 4 = v := by simp only [fld_eq]; omega
    rw [to33 _ (by simp only [fld_eq]; omega)]
    simp [dec33, e, f, g, cmpOk, cmpRhs, immOk_none, immOf_none]; omega
  · obtain rfl : q = some v := by simpa [Instr.kind, CmpRhs.kind, Imm.kind, KKind.fits] using hk
    replace hw : 0x33000001 + k * 4194304 + c * 262144 + a * 2048 + (0 * 2 + 1) * 8 = w := hw
    have e : fld w 3 3 = 1 := by simp only [fld_eq]; omega
    have f : fld w 2 0 = 1 := by simp only [fld_eq]; omega
    have g : fld w 23 22 = k ∧ fld w 21 18 = c ∧ fld w 17 11 = a ∧ fld w 10 4 = 0 := by simp only [fld_eq]; omega
    rw [to33 _ (by simp only [fld_eq]; omega)]
    simp [dec33, e, f, g, cmpOk, cmpRhs, immOk_some, immOf_some]; omega

theorem setcEq (d a b : Nat) : Statement (.setcEq d a b) :=
  g3 0x34000000 .setcEq (by decide) (fun _ _ _ => rfl) (fun _ _ _ => rfl) (fun k w h1 h2 => by
    rw [to34 k h1]; simp only [dec34, h2]; rfl) d a b

theorem setcNe (d a b : Nat) : Statement (.setcNe d a b) :=
  g3 0x34000001 .setcNe (by decide) (fun _ _ _ => rfl) (fun _ _ _ => rfl) (fun k w h1 h2 => by
    rw [to34 k h1]; simp only [dec34, h2]; rfl) d a b

theorem setcLt (d a b : Nat) : Statement (.setcLt d a b) :=
  g3 0x34000002 .setcLt (by decide) (fun _ _ _ => rfl) (fun _ _ _ => rfl) (fun k w h1 h2 => by
    rw [to34 k h1]; simp only [dec34, h2]; rfl) d a b

theorem setcGe (d a b : Nat) : Statement (.setcGe d a b) :=
  g3 0x34000003 .setcGe (by decide) (fun _ _ _ => rfl) (fun _ _ _ => rfl) (fun k w h1 h2 => by
    rw [to34 k h1]; simp only [dec34, h2]; rfl) d a b

theorem setcLtu (d a b : Nat) : Statement (.setcLtu d a b) :=
  g3 0x34000004 .setcLtu (by decide) (fun _ _ _ => rfl) (fun _ _ _ => rfl) (fun k w h1 h2 => by
    rw [to34 k h1]; simp only [dec34, h2]; rfl) d a b

theorem setcGeu (d a b : Nat) : Statement (.setcGeu d a b) :=
  g3 0x34000005 .setcGeu (by decide) (fun _ _ _ => rfl) (fun _ _ _ => rfl) (fun k w h1 h2 => by
    rw [to34 k h1]; simp only [dec34, h2]; rfl) d a b

theorem setcBs (d a b : Nat) : Statement (.setcBs d a b) :=
  g3 0x34000006 .setcBs (by decide) (fun _ _ _ => rfl) (fun _ _ _ => rfl) (fun k w h1 h2 => by
    rw [to34 k h1]; simp only [dec34, h2]; rfl) d a b

theorem setcBc (d a b : Nat) : Statement (.setcBc d a b) :=
  g3 0x34000007 .setcBc (by decide) (fun _ _ _ => rfl) (fun _ _ _ => rfl) (fun k w h1 h2 => by
    rw [to34 k h1]; simp only [dec34, h2]; rfl) d a b

theorem faddD (d a b : Nat) : Statement (.faddD d a b) := by
  intro h _ kk hk
  simp only [Instr.wf, Imm.wf, Bool.and_eq_true, Bool.not_eq_true', decide_eq_true_eq, decide_eq_false_iff_not] at h
  obtain ⟨w, hw⟩ : ∃ w, encodeBody (.faddD d a b) = w := ⟨_, rfl⟩
  rw [hw]
  replace hw : 0x35000000 + d * 131072 + a * 1024 + b * 8 = w := hw
  have e29_24 : fld w 29 24 = 0x35 := by simp only [fld_eq]; omega
  have e23_17 : fld w 23 17 = d := by simp only [fld_eq]; omega
  have e16_10 : fld w 16 10 = a := by simp only [fld_eq]; omega
  have e9_3 : fld w 9 3 = b := by simp only [fld_eq]; omega
  have e2_0 : fld w 2 0 = 0 := by simp only [fld_eq]; omega
  rw [to35 _ e29_24]
  simp [dec35, immOk_none, immOk_some, immOf_none, immOf_some, immMS, e23_17, e16_10, e9_3, e2_0]

theorem fsubD (d a b : Nat) : Statement (.fsubD d a b) := by
  intro h _ kk hk
  simp only [Instr.wf, Imm.wf, Bool.and_eq_true, Bool.not_eq_true', decide_eq_true_eq, decide_eq_false_iff_not] at h
  obtain ⟨w, hw⟩ : ∃ w, encodeBody (.fsubD d a b) = w := ⟨_, rfl⟩
  rw [hw]
  replace hw : 0x35000001 + d * 131072 + a * 1024 + b * 8 = w := hw
  have e29_24 : fld w 29 24 = 0x35 := by simp only [fld_eq]; omega
  have e23_17 : fld w 23 17 = d := by simp only [fld_eq]; omega
  have e16_10 : fld w 16 10 = a := by simp only [fld_eq]; omega
  have e9_3 : fld w 9 3 = b := by simp only [fld_eq]; omega
  have e2_0 : fld w 2 0 = 1 := by simp only [fld_eq]; omega
  rw [to35 _ e29_24]
  simp [dec35, immOk_none, immOk_some, immOf_none, immOf_some, immMS, e23_17, e16_10, e9_3, e2_0]

theorem fmulD (d a b : Nat) : Statement (.fmulD d a b) := by
  intro h _ kk hk
  simp only [Instr.wf, Imm.wf, Bool.and_eq_true, Bool.not_eq_true', decide_eq_true_eq, decide_eq_false_iff_not] at h
  obtain ⟨w, hw⟩ : ∃ w, encodeBody (.fmulD d a b) = w := ⟨_, rfl⟩
  rw [hw]
  replace hw : 0x35000002 + d * 131072 + a * 1024 + b * 8 = w := hw
  have e29_24 : fld w 29 24 = 0x35 := by simp only [fld_eq]; omega
  have e23_17 : fld w 23 17 = d := by simp only [fld_eq]; omega
  have e16_10 : fld w 16 10 = a := by simp only [fld_eq]; omega
  have e9_3 : fld w 9 3 = b := by simp only [fld_eq]; omega
  have e2_0 : fld w 2 0 = 2 := by simp only [fld_eq]; omega
  rw [to35 _ e29_24]
  simp [dec35, immOk_none, immOk_some, immOf_none, immOf_some, immMS, e23_17, e16_10, e9_3, e2_0]

theorem fdivD (d a b : Nat) : Statement (.fdivD d a b) := by
  intro h _ kk hk
  simp only [Instr.wf, Imm.wf, Bool.and_eq_true, Bool.not_eq_true', decide_eq_true_eq, decide_eq_false_iff_not] at h
  obtain ⟨w, hw⟩ : ∃ w, encodeBody (.fdivD d a b) = w := ⟨_, rfl⟩
  rw [hw]
  replace hw : 0x35000003 + d * 131072 + a * 1024 + b * 8 = w := hw
  have e29_24 : fld w 29 24 = 0x35 := by simp only [fld_eq]; omega
  have e23_17 : fld w 23 17 = d := by simp only [fld_eq]; omega
  have e16_10 : fld w 16 10 = a := by simp only [fld_eq]; omega
  have e9_3 : fld w 9 3 = b := by simp only [fld_eq]; omega
  have e2_0 : fld w 2 0 = 3 := by simp only [fld_eq]; omega
  rw [to35 _ e29_24]
  simp [dec35, immOk_none, immOk_some, immOf_none, immOf_some, immMS, e23_17, e16_10, e9_3, e2_0]

theorem fminD (d a b : Nat) : Statement (.fminD d a b) := by
  intro h _ kk hk
  simp only [Instr.wf, Imm.wf, Bool.and_eq_true, Bool.not_eq_true', decide_eq_true_eq, decide_eq_false_iff_not] at h
  obtain ⟨w, hw⟩ : ∃ w, encodeBody (.fminD d a b) = w := ⟨_, rfl⟩
  rw [hw]
  replace hw : 0x35000004 + d * 131072 + a * 1024 + b * 8 = w := hw
  have e29_24 : fld w 29 24 = 0x35 := by simp only [fld_eq]; omega
  have e23_17 : fld w 23 17 = d := by simp only [fld_eq]; omega
  have e16_10 : fld w 16 10 = a := by simp only [fld_eq]; omega
  have e9_3 : fld w 9 3 = b := by simp only [fld_eq]; omega
  have e2_0 : fld w 2 0 = 4 := by simp only [fld_eq]; omega
  rw [to35 _ e29_24]
  simp [dec35, immOk_none, immOk_some, immOf_none, immOf_some, immMS, e23_17, e16_10, e9_3, e2_0]

theorem fmaxD (d a b : Nat) : Statement (.fmaxD d a b) := by
  intro h _ kk hk
  simp only [Instr.wf, Imm.wf, Bool.and_eq_true, Bool.not_eq_true', decide_eq_true_eq, decide_eq_false_iff_not] at h
  obtain ⟨w, hw⟩ : ∃ w, encodeBody (.fmaxD d a b) = w := ⟨_, rfl⟩
  rw [hw]
  replace hw : 0x35000005 + d * 131072 + a * 1024 + b * 8 = w := hw
  have e29_24 : fld w 29 24 = 0x35 := by simp only [fld_eq]; omega
  have e23_17 : fld w 23 17 = d := by simp only [fld_eq]; omega
  have e16_10 : fld w 16 10 = a := by simp only [fld_eq]; omega
  have e9_3 : fld w 9 3 = b := by simp only [fld_eq]; omega
  have e2_0 : fld w 2 0 = 5 := by simp only [fld_eq]; omega
  rw [to35 _ e29_24]
  simp [dec35, immOk_none, immOk_some, immOf_none, immOf_some, immMS, e23_17, e16_10, e9_3, e2_0]

theorem fsqrtD (d a : Nat) : Statement (.fsqrtD d a) := by
  intro h _ kk hk
  simp only [Instr.wf, Imm.wf, Bool.and_eq_true, Bool.not_eq_true', decide_eq_true_eq, decide_eq_false_iff_not] at h
  obtain ⟨w, hw⟩ : ∃ w, encodeBody (.fsqrtD d a) = w := ⟨_, rfl⟩
  rw [hw]
  replace hw : 0x35000006 + d * 131072 + a * 1024 = w := hw
  have e29_24 : fld w 29 24 = 0x35 := by simp only [fld_eq]; omega
  have e23_17 : fld w 23 17 = d := by simp only [fld_eq]; omega
  have e16_10 : fld w 16 10 = a := by simp only [fld_eq]; omega
  have e9_3 : fld w 9 3 = 0 := by simp only [fld_eq]; omega
  have e9_0 : fld w 9 0 = 6 := by simp only [fld_eq]; omega
  have e2_0 : fld w 2 0 = 6 := by simp only [fld_eq]; omega
  rw [to35 _ e29_24]
  simp [dec35, immOk_none, immOk_some, immOf_none, immOf_some, immMS, e23_17, e16_10, e9_3, e9_0, e2_0]

theorem fcpsD (d a b : Nat) : Statement (.fcpsD d a b) := by
  intro h _ kk hk
  simp only [Instr.wf, Imm.wf, Bool.and_eq_true, Bool.not_eq_true', decide_eq_true_eq, decide_eq_false_iff_not] at h
  obtain ⟨w, hw⟩ : ∃ w, encodeBody (.fcpsD d a b) = w := ⟨_, rfl⟩
  rw [hw]
  replace hw : 0x35000007 + d * 131072 + a * 1024 + b * 8 = w := hw
  have e29_24 : fld w 29 24 = 0x35 := by simp only [fld_eq]; omega
  have e23_17 : fld w 23 17 = d := by simp only [fld_eq]; omega
  have e16_10 : fld w 16 10 = a := by simp only [fld_eq]; omega
  have e9_3 : fld w 9 3 = b := by simp only [fld_eq]; omega
  have n9_0_6 : ¬ fld w 9 0 = 6 := by simp only [fld_eq]; omega
  have e2_0 : fld w 2 0 = 7 := by simp only [fld_eq]; omega
  rw [to35 _ e29_24]
  simp [dec35, immOk_none, immOk_some, immOf_none, immOf_some, immMS, e23_17, e16_10, e9_3, n9_0_6, e2_0]

theorem faddS (d a b : Nat) : Statement (.faddS d a b) := by
  intro h _ kk hk
  simp only [Instr.wf, Imm.wf, Bool.and_eq_true, Bool.not_eq_true', decide_eq_true_eq, decide_eq_false_iff_not] at h
  obtain ⟨w, hw⟩ : ∃ w, encodeBody (.faddS d a b) = w := ⟨_, rfl⟩
  rw [hw]
  replace hw : 0x36000000 + d * 131072 + a * 1024 + b * 8 = w := hw
  have e29_24 : fld w 29 24 = 0x36 := by simp only [fld_eq]; omega
  have e23_17 : fld w 23 17 = d := by simp only [fld_eq]; omega
  have e16_10 : fld w 16 10 = a := by simp only [fld_eq]; omega
  have e9_3 : fld w 9 3 = b := by simp only [fld_eq]; omega
  have e2_0 : fld w 2 0 = 0 := by simp only [fld_eq]; omega
  rw [to36 _ e29_24]
  simp [dec36, immOk_none, immOk_some, immOf_none, immOf_some, immMS, e23_17, e16_10, e9_3, e2_0]

theorem fsubS (d a b : Nat) : Statement (.fsubS d a b) := by
  intro h _ kk hk
  simp only [Instr.wf, Imm.wf, Bool.and_eq_true, Bool.not_eq_true', decide_eq_true_eq, decide_eq_false_iff_not] at h
  obtain ⟨w, hw⟩ : ∃ w, encodeBody (.fsubS d a b) = w := ⟨_, rfl⟩
  rw [hw]
  replace hw : 0x36000001 + d * 131072 + a * 1024 + b * 8 = w := hw
  have e29_24 : fld w 29 24 = 0x36 := by simp only [fld_eq]; omega
  have e23_17 : fld w 23 17 = d := by simp only [fld_eq]; omega
  have e16_10 : fld w 16 10 = a := by simp only [fld_eq]; omega
  have e9_3 : fld w 9 3 = b := by simp only [fld_eq]; omega
  have e2_0 : fld w 2 0 = 1 := by simp only [fld_eq]; omega
  rw [to36 _ e29_24]
  simp [dec36, immOk_none, immOk_some, immOf_none, immOf_some, immMS, e23_17, e16_10, e9_3, e2_0]

theorem fmulS (d a b : Nat) : Statement (.fmulS d a b) := by
  intro h _ kk hk
  simp only [Instr.wf, Imm.wf, Bool.and_eq_true, Bool.not_eq_true', decide_eq_true_eq, decide_eq_false_iff_not] at h
  obtain ⟨w, hw⟩ : ∃ w, encodeBody (.fmulS d a b) = w := ⟨_, rfl⟩
  rw [hw]
  replace hw : 0x36000002 + d * 131072 + a * 1024 + b * 8 = w := hw
  have e29_24 : fld w 29 24 = 0x36 := by simp only [fld_eq]; omega
  have e23_17 : fld w 23 17 = d := by simp only [fld_eq]; omega
  have e16_10 : fld w 16 10 = a := by simp only [fld_eq]; omega
  have e9_3 : fld w 9 3 = b := by simp only [fld_eq]; omega
  have e2_0 : fld w 2 0 = 2 := by simp only [fld_eq]; omega
  rw [to36 _ e29_24]
  simp [dec36, immOk_none, immOk_some, immOf_none, immOf_some, immMS, e23_17, e16_10, e9_3, e2_0]

theorem fdivS (d a b : Nat) : Statement (.fdivS d a b) := by
  intro h _ kk hk
  simp only [Instr.wf, Imm.wf, Bool.and_eq_true, Bool.not_eq_true', decide_eq_true_eq, decide_eq_false_iff_not] at h
  obtain ⟨w, hw⟩ : ∃ w, encodeBody (.fdivS d a b) = w := ⟨_, rfl⟩
  rw [hw]
  replace hw : 0x36000003 + d * 131072 + a * 1024 + b * 8 = w := hw
  have e29_24 : fld w 29 24 = 0x36 := by simp only [fld_eq]; omega
  have e23_17 : fld w 23 17 = d := by simp only [fld_eq]; omega
  have e16_10 : fld w 16 10 = a := by simp only [fld_eq]; omega
  have e9_3 : fld w 9 3 = b := by simp only [fld_eq]; omega
  have e2_0 : fld w 2 0 = 3 := by simp only [fld_eq]; omega
  rw [to36 _ e29_24]
  simp [dec36, immOk_none, immOk_some, immOf_none, immOf_some, immMS, e23_17, e16_10, e9_3, e2_0]

theorem fminS (d a b : Nat) : Statement (.fminS d a b) := by
  intro h _ kk hk
  simp only [Instr.wf, Imm.wf, Bool.and_eq_true, Bool.not_eq_true', decide_eq_true_eq, decide_eq_false_iff_not] at h
  obtain ⟨w, hw⟩ : ∃ w, encodeBody (.fminS d a b) = w := ⟨_, rfl⟩
  rw [hw]
  replace hw : 0x36000004 + d * 131072 + a * 1024 + b * 8 = w := hw
  have e29_24 : fld w 29 24 = 0x36 := by simp only [fld_eq]; omega
  have e23_17 : fld w 23 17 = d := by simp only [fld_eq]; omega
  have e16_10 : fld w 16 10 = a := by simp only [fld_eq]; omega
  have e9_3 : fld w 9 3 = b := by simp only [fld_eq]; omega
  have e2_0 : fld w 2 0 = 4 := by simp only [fld_eq]; omega
  rw [to36 _ e29_24]
  simp [dec36, immOk_none, immOk_some, immOf_none, immOf_some, immMS, e23_17, e16_10, e9_3, e2_0]

theorem fmaxS (d a b : Nat) : Statement (.fmaxS d a b) := by
  intro h _ kk hk
  simp only [Instr.wf, Imm.wf, Bool.and_eq_true, Bool.not_eq_true', decide_eq_true_eq, decide_eq_false_iff_not] at h
  obtain ⟨w, hw⟩ : ∃ w, encodeBody (.fmaxS d a b) = w := ⟨_, rfl⟩
  rw [hw]
  replace hw : 0x36000005 + d * 131072 + a * 1024 + b * 8 = w := hw
  have e29_24 : fld w 29 24 = 0x36 := by simp only [fld_eq]; omega
  have e23_17 : fld w 23 17 = d := by simp only [fld_eq]; omega
  have e16_10 : fld w 16 10 = a := by simp only [fld_eq]; omega
  have e9_3 : fld w 9 3 = b := by simp only [fld_eq]; omega
  have e2_0 : fld w 2 0 = 5 := by simp only [fld_eq]; omega
  rw [to36 _ e29_24]
  simp [dec36, immOk_none, immOk_some, immOf_none, immOf_some, immMS, e23_17, e16_10, e9_3, e2_0]

theorem fsqrtS (d a : Nat) : Statement (.fsqrtS d a) := by
  intro h _ kk hk
  simp only [Instr.wf, Imm.wf, Bool.and_eq_true, Bool.not_eq_true', decide_eq_true_eq, decide_eq_false_iff_not] at h
  obtain ⟨w, hw⟩ : ∃ w, encodeBody (.fsqrtS d a) = w := ⟨_, rfl⟩
  rw [hw]
  replace hw : 0x36000006 + d * 131072 + a * 1024 = w := hw
  have e29_24 : fld w 29 24 = 0x36 := by simp only [fld_eq]; omega
  have e23_17 : fld w 23 17 = d := by simp only [fld_eq]; omega
  have e16_10 : fld w 16 10 = a := by simp only [fld_eq]; omega
  have e9_3 : fld w 9 3 = 0 := by simp only [fld_eq]; omega
  have e9_0 : fld w 9 0 = 6 := by simp only [fld_eq]; omega
  have e2_0 : fld w 2 0 = 6 := by simp only [fld_eq]; omega
  rw [to36 _ e29_24]
  simp [dec36, immOk_none, immOk_some, immOf_none, immOf_some, immMS, e23_17, e16_10, e9_3, e9_0, e2_0]

theorem fcpsS (d a b : Nat) : Statement (.fcpsS d a b) := by
  intro h _ kk hk
  simp only [Instr.wf, Imm.wf, Bool.and_eq_true, Bool.not_eq_true', decide_eq_true_eq, decide_eq_false_iff_not] at h
  obtain ⟨w, hw⟩ : ∃ w, encodeBody (.fcpsS d a b) = w := ⟨_, rfl⟩
  rw [hw]
  replace hw : 0x36000007 + d * 131072 + a * 1024 + b * 8 = w := hw
  have e29_24 : fld w 29 24 = 0x36 := by simp only [fld_eq]; omega
  have e23_17 : fld w 23 17 = d := by simp only [fld_eq]; omega
  have e16_10 : fld w 16 10 = a := by simp only [fld_eq]; omega
  have e9_3 : fld w 9 3 = b := by simp only [fld_eq]; omega
  have n9_0_6 : ¬ fld w 9 0 = 6 := by simp only [fld_eq]; omega
  have e2_0 : fld w 2 0 = 7 := by simp only [fld_eq]; omega
  rw [to36 _ e29_24]
  simp [dec36, immOk_none, immOk_some, immOf_none, immOf_some, immMS, e23_17, e16_10, e9_3, n9_0_6, e2_0]

theorem fmaD (d a b : Nat) : Statement (.fmaD d a b) :=
  g3 0x37000000 .fmaD (by decide) (fun _ _ _ => rfl) (fun _ _ _ => rfl) (fun k w h1 h2 => by
    rw [to37 k h1]; simp only [dec37, h2]; rfl) d a b

theorem fmsD (d a b : Nat) : Statement (.fmsD d a b) :=
  g3 0x37000001 .fmsD (by decide) (fun _ _ _ => rfl) (fun _ _ _ => rfl) (fun k w h1 h2 => by
    rw [to37 k h1]; simp only [dec37, h2]; rfl) d a b

theorem fnmaD (d a b : Nat) : Statement (.fnmaD d a b) :=
  g3 0x37000002 .fnmaD (by decide) (fun _ _ _ => rfl) (fun _ _ _ => rfl) (fun k w h1 h2 => by
    rw [to37 k h1]; simp only [dec37, h2]; rfl) d a b

theorem fmaS (d a b : Nat) : Statement (.fmaS d a b) :=
  g3 0x37000004 .fmaS (by decide) (fun _ _ _ => rfl) (fun _ _ _ => rfl) (fun k w h1 h2 => by
    rw [to37 k h1]; simp only [dec37, h2]; rfl) d a b

theorem fmsS (d a b : Nat) : Statement (.fmsS d a b) :=
  g3 0x37000005 .fmsS (by decide) (fun _ _ _ => rfl) (fun _ _ _ => rfl) (fun k w h1 h2 => by
    rw [to37 k h1]; simp only [dec37, h2]; rfl) d a b

theorem fnmaS (d a b : Nat) : Statement (.fnmaS d a b) :=
  g3 0x37000006 .fnmaS (by decide) (fun _ _ _ => rfl) (fun _ _ _ => rfl) (fun k w h1 h2 => by
    rw [to37 k h1]; simp only [dec37, h2]; rfl) d a b

theorem fcvt (d a b r : Nat) : Statement (.fcvt d a b r) := by
  intro h _ kk hk
  simp only [Instr.wf, Imm.wf, Bool.and_eq_true, Bool.not_eq_true', decide_eq_true_eq, decide_eq_false_iff_not] at h
  obtain ⟨w, hw⟩ : ∃ w, encodeBody (.fcvt d a b r) = w := ⟨_, rfl⟩
  rw [hw]
  replace hw : 0x38000000 + d * 131072 + a * 1024 + b * 8 + r = w := hw
  have e29_24 : fld w 29 24 = 0x38 := by simp only [fld_eq]; omega
  have e23_17 : fld w 23 17 = d := by simp only [fld_eq]; omega
  have e16_10 : fld w 16 10 = a := by simp only [fld_eq]; omega
  have e9_3 : fld w 9 3 = b := by simp only [fld_eq]; omega
  have e2_0 : fld w 2 0 = r := by simp only [fld_eq]; omega
  rw [to38 _ e29_24]
  simp [dec38, immOk_none, immOk_some, immOf_none, immOf_some, immMS, e23_17, e16_10, e9_3, e2_0] <;> omega

theorem frcp (d a : Nat) : Statement (.frcp d a) := by
  intro h _ kk hk
  simp only [Instr.wf, Imm.wf, Bool.and_eq_true, Bool.not_eq_true', decide_eq_true_eq, decide_eq_false_iff_not] at h
  obtain ⟨w, hw⟩ : ∃ w, encodeBody (.frcp d a) = w := ⟨_, rfl⟩
  rw [hw]
  replace hw : 0x39000000 + d * 131072 + a * 1024 = w := hw
  have e29_24 : fld w 29 24 = 0x39 := by simp only [fld_eq]; omega
  have e23_17 : fld w 23 17 = d := by simp only [fld_eq]; omega
  have e16_10 : fld w 16 10 = a := by simp only [fld_eq]; omega
  have e9_0 : fld w 9 0 = 0 := by simp only [fld_eq]; omega
  rw [to39 _ e29_24]
  simp [dec39, immOk_none, immOk_some, immOf_none, immOf_some, immMS, e23_17, e16_10, e9_0]

theorem frsq (d a : Nat) : Statement (.frsq d a) := by
  intro h _ kk hk
  simp only [Instr.wf, Imm.wf, Bool.and_eq_true, Bool.not_eq_true', decide_eq_true_eq, decide_eq_false_iff_not] at h
  obtain ⟨w, hw⟩ : ∃ w, encodeBody (.frsq d a) = w := ⟨_, rfl⟩
  rw [hw]
  replace hw : 0x39000001 + d * 131072 + a * 1024 = w := hw
  have e29_24 : fld w 29 24 = 0x39 := by simp only [fld_eq]; omega
  have e23_17 : fld w 23 17 = d := by simp only [fld_eq]; omega
  have e16_10 : fld w 16 10 = a := by simp only [fld_eq]; omega
  have e9_0 : fld w 9 0 = 1 := by simp only [fld_eq]; omega
  rw [to39 _ e29_24]
  simp [dec39, immOk_none, immOk_some, immOf_none, immOf_some, immMS, e23_17, e16_10, e9_0]

theorem fexp2 (d a : Nat) : Statement (.fexp2 d a) := by
  intro h _ kk hk
  simp only [Instr.wf, Imm.wf, Bool.and_eq_true, Bool.not_eq_true', decide_eq_true_eq, decide_eq_false_iff_not] at h
  obtain ⟨w, hw⟩ : ∃ w, encodeBody (.fexp2 d a) = w := ⟨_, rfl⟩
  rw [hw]
  replace hw : 0x39000002 + d * 131072 + a * 1024 = w := hw
  have e29_24 : fld w 29 24 = 0x39 := by simp only [fld_eq]; omega
  have e23_17 : fld w 23 17 = d := by simp only [fld_eq]; omega
  have e16_10 : fld w 16 10 = a := by simp only [fld_eq]; omega
  have e9_0 : fld w 9 0 = 2 := by simp only [fld_eq]; omega
  rw [to39 _ e29_24]
  simp [dec39, immOk_none, immOk_some, immOf_none, immOf_some, immMS, e23_17, e16_10, e9_0]

theorem flog2 (d a : Nat) : Statement (.flog2 d a) := by
  intro h _ kk hk
  simp only [Instr.wf, Imm.wf, Bool.and_eq_true, Bool.not_eq_true', decide_eq_true_eq, decide_eq_false_iff_not] at h
  obtain ⟨w, hw⟩ : ∃ w, encodeBody (.flog2 d a) = w := ⟨_, rfl⟩
  rw [hw]
  replace hw : 0x39000003 + d * 131072 + a * 1024 = w := hw
  have e29_24 : fld w 29 24 = 0x39 := by simp only [fld_eq]; omega
  have e23_17 : fld w 23 17 = d := by simp only [fld_eq]; omega
  have e16_10 : fld w 16 10 = a := by simp only [fld_eq]; omega
  have e9_0 : fld w 9 0 = 3 := by simp only [fld_eq]; omega
  rw [to39 _ e29_24]
  simp [dec39, immOk_none, immOk_some, immOf_none, immOf_some, immMS, e23_17, e16_10, e9_0]

theorem fclass (d a : Nat) : Statement (.fclass d a) := by
  intro h _ kk hk
  simp only [Instr.wf, Imm.wf, Bool.and_eq_true, Bool.not_eq_true', decide_eq_true_eq, decide_eq_false_iff_not] at h
  obtain ⟨w, hw⟩ : ∃ w, encodeBody (.fclass d a) = w := ⟨_, rfl⟩
  rw [hw]
  replace hw : 0x39000004 + d * 131072 + a * 1024 = w := hw
  have e29_24 : fld w 29 24 = 0x39 := by simp only [fld_eq]; omega
  have e23_17 : fld w 23 17 = d := by simp only [fld_eq]; omega
  have e16_10 : fld w 16 10 = a := by simp only [fld_eq]; omega
  have e9_0 : fld w 9 0 = 4 := by simp only [fld_eq]; omega
  rw [to39 _ e29_24]
  simp [dec39, immOk_none, immOk_some, immOf_none, immOf_some, immMS, e23_17, e16_10, e9_0]

theorem fcmpD (k c a b : Nat) : Statement (.fcmpD k c a b) := by
  intro h _ kk hk
  simp only [Instr.wf, Imm.wf, Bool.and_eq_true, Bool.not_eq_true', decide_eq_true_eq, decide_eq_false_iff_not] at h
  obtain ⟨w, hw⟩ : ∃ w, encodeBody (.fcmpD k c a b) = w := ⟨_, rfl⟩
  rw [hw]
  replace hw : 0x3A000000 + k * 4194304 + c * 262144 + a * 2048 + b * 16 = w := hw
  have e29_24 : fld w 29 24 = 0x3A := by simp only [fld_eq]; omega
  have e23_22 : fld w 23 22 = k := by simp only [fld_eq]; omega
  have e21_18 : fld w 21 18 = c := by simp only [fld_eq]; omega
  have e17_11 : fld w 17 11 = a := by simp only [fld_eq]; omega
  have e10_4 : fld w 10 4 = b := by simp only [fld_eq]; omega
  have e3_0 : fld w 3 0 = 0 := by simp only [fld_eq]; omega
  rw [to3A _ e29_24]
  simp [dec3A, immOk_none, immOk_some, immOf_none, immOf_some, immMS, e23_22, e21_18, e17_11, e10_4, e3_0] <;> omega

theorem fcmpS (k c a b : Nat) : Statement (.fcmpS k c a b) := by
  intro h _ kk hk
  simp only [Instr.wf, Imm.wf, Bool.and_eq_true, Bool.not_eq_true', decide_eq_true_eq, decide_eq_false_iff_not] at h
  obtain ⟨w, hw⟩ : ∃ w, encodeBody (.fcmpS k c a b) = w := ⟨_, rfl⟩
  rw [hw]
  replace hw : 0x3A000001 + k * 4194304 + c * 262144 + a * 2048 + b * 16 = w := hw
  have e29_24 : fld w 29 24 = 0x3A := by simp only [fld_eq]; omega
  have e23_22 : fld w 23 22 = k := by simp only [fld_eq]; omega
  have e21_18 : fld w 21 18 = c := by simp only [fld_eq]; omega
  have e17_11 : fld w 17 11 = a := by simp only [fld_eq]; omega
  have e10_4 : fld w 10 4 = b := by simp only [fld_eq]; omega
  have e3_0 : fld w 3 0 = 1 := by simp only [fld_eq]; omega
  rw [to3A _ e29_24]
  simp [dec3A, immOk_none, immOk_some, immOf_none, immOf_some, immMS, e23_22, e21_18, e17_11, e10_4, e3_0] <;> omega

theorem vfadd (d a b : Nat) : Statement (.vfadd d a b) := by
  intro h _ kk hk
  simp only [Instr.wf, Imm.wf, Bool.and_eq_true, Bool.not_eq_true', decide_eq_true_eq, decide_eq_false_iff_not] at h
  obtain ⟨w, hw⟩ : ∃ w, encodeBody (.vfadd d a b) = w := ⟨_, rfl⟩
  rw [hw]
  replace hw : 0x3B000000 + d * 524288 + a * 16384 + b * 512 = w := hw
  have e29_24 : fld w 29 24 = 0x3B := by simp only [fld_eq]; omega
  have e23_19 : fld w 23 19 = d := by simp only [fld_eq]; omega
  have e18_14 : fld w 18 14 = a := by simp only [fld_eq]; omega
  have e13_9 : fld w 13 9 = b := by simp only [fld_eq]; omega
  have e8_0 : fld w 8 0 = 0 := by simp only [fld_eq]; omega
  rw [to3B _ e29_24]
  simp [dec3B, immOk_none, immOk_some, immOf_none, immOf_some, immMS, e23_19, e18_14, e13_9, e8_0]

theorem vfsub (d a b : Nat) : Statement (.vfsub d a b) := by
  intro h _ kk hk
  simp only [Instr.wf, Imm.wf, Bool.and_eq_true, Bool.not_eq_true', decide_eq_true_eq, decide_eq_false_iff_not] at h
  obtain ⟨w, hw⟩ : ∃ w, encodeBody (.vfsub d a b) = w := ⟨_, rfl⟩
  rw [hw]
  replace hw : 0x3B000001 + d * 524288 + a * 16384 + b * 512 = w := hw
  have e29_24 : fld w 29 24 = 0x3B := by simp only [fld_eq]; omega
  have e23_19 : fld w 23 19 = d := by simp only [fld_eq]; omega
  have e18_14 : fld w 18 14 = a := by simp only [fld_eq]; omega
  have e13_9 : fld w 13 9 = b := by simp only [fld_eq]; omega
  have e8_0 : fld w 8 0 = 1 := by simp only [fld_eq]; omega
  rw [to3B _ e29_24]
  simp [dec3B, immOk_none, immOk_some, immOf_none, immOf_some, immMS, e23_19, e18_14, e13_9, e8_0]

theorem vfmul (d a b : Nat) : Statement (.vfmul d a b) := by
  intro h _ kk hk
  simp only [Instr.wf, Imm.wf, Bool.and_eq_true, Bool.not_eq_true', decide_eq_true_eq, decide_eq_false_iff_not] at h
  obtain ⟨w, hw⟩ : ∃ w, encodeBody (.vfmul d a b) = w := ⟨_, rfl⟩
  rw [hw]
  replace hw : 0x3B000002 + d * 524288 + a * 16384 + b * 512 = w := hw
  have e29_24 : fld w 29 24 = 0x3B := by simp only [fld_eq]; omega
  have e23_19 : fld w 23 19 = d := by simp only [fld_eq]; omega
  have e18_14 : fld w 18 14 = a := by simp only [fld_eq]; omega
  have e13_9 : fld w 13 9 = b := by simp only [fld_eq]; omega
  have e8_0 : fld w 8 0 = 2 := by simp only [fld_eq]; omega
  rw [to3B _ e29_24]
  simp [dec3B, immOk_none, immOk_some, immOf_none, immOf_some, immMS, e23_19, e18_14, e13_9, e8_0]

theorem vfma (d a b c : Nat) : Statement (.vfma d a b c) := by
  intro h _ kk hk
  simp only [Instr.wf, Imm.wf, Bool.and_eq_true, Bool.not_eq_true', decide_eq_true_eq, decide_eq_false_iff_not] at h
  obtain ⟨w, hw⟩ : ∃ w, encodeBody (.vfma d a b c) = w := ⟨_, rfl⟩
  rw [hw]
  replace hw : 0x3B000003 + d * 524288 + a * 16384 + b * 512 + c * 16 = w := hw
  have e29_24 : fld w 29 24 = 0x3B := by simp only [fld_eq]; omega
  have e23_19 : fld w 23 19 = d := by simp only [fld_eq]; omega
  have e18_14 : fld w 18 14 = a := by simp only [fld_eq]; omega
  have e13_9 : fld w 13 9 = b := by simp only [fld_eq]; omega
  have e8_4 : fld w 8 4 = c := by simp only [fld_eq]; omega
  have n8_0_0 : ¬ fld w 8 0 = 0 := by simp only [fld_eq]; omega
  have n8_0_1 : ¬ fld w 8 0 = 1 := by simp only [fld_eq]; omega
  have n8_0_2 : ¬ fld w 8 0 = 2 := by simp only [fld_eq]; omega
  have e3_0 : fld w 3 0 = 3 := by simp only [fld_eq]; omega
  rw [to3B _ e29_24]
  simp [dec3B, immOk_none, immOk_some, immOf_none, immOf_some, immMS, e23_19, e18_14, e13_9, e8_4, n8_0_0, n8_0_1, n8_0_2, e3_0]

theorem vfmin (d a b : Nat) : Statement (.vfmin d a b) := by
  intro h _ kk hk
  simp only [Instr.wf, Imm.wf, Bool.and_eq_true, Bool.not_eq_true', decide_eq_true_eq, decide_eq_false_iff_not] at h
  obtain ⟨w, hw⟩ : ∃ w, encodeBody (.vfmin d a b) = w := ⟨_, rfl⟩
  rw [hw]
  replace hw : 0x3B000004 + d * 524288 + a * 16384 + b * 512 = w := hw
  have e29_24 : fld w 29 24 = 0x3B := by simp only [fld_eq]; omega
  have e23_19 : fld w 23 19 = d := by simp only [fld_eq]; omega
  have e18_14 : fld w 18 14 = a := by simp only [fld_eq]; omega
  have e13_9 : fld w 13 9 = b := by simp only [fld_eq]; omega
  have e8_4 : fld w 8 4 = 0 := by simp only [fld_eq]; omega
  have e8_0 : fld w 8 0 = 4 := by simp only [fld_eq]; omega
  have e3_0 : fld w 3 0 = 4 := by simp only [fld_eq]; omega
  rw [to3B _ e29_24]
  simp [dec3B, immOk_none, immOk_some, immOf_none, immOf_some, immMS, e23_19, e18_14, e13_9, e8_4, e8_0, e3_0]

theorem vfmax (d a b : Nat) : Statement (.vfmax d a b) := by
  intro h _ kk hk
  simp only [Instr.wf, Imm.wf, Bool.and_eq_true, Bool.not_eq_true', decide_eq_true_eq, decide_eq_false_iff_not] at h
  obtain ⟨w, hw⟩ : ∃ w, encodeBody (.vfmax d a b) = w := ⟨_, rfl⟩
  rw [hw]
  replace hw : 0x3B000005 + d * 524288 + a * 16384 + b * 512 = w := hw
  have e29_24 : fld w 29 24 = 0x3B := by simp only [fld_eq]; omega
  have e23_19 : fld w 23 19 = d := by simp only [fld_eq]; omega
  have e18_14 : fld w 18 14 = a := by simp only [fld_eq]; omega
  have e13_9 : fld w 13 9 = b := by simp only [fld_eq]; omega
  have e8_4 : fld w 8 4 = 0 := by simp only [fld_eq]; omega
  have e8_0 : fld w 8 0 = 5 := by simp only [fld_eq]; omega
  have e3_0 : fld w 3 0 = 5 := by simp only [fld_eq]; omega
  rw [to3B _ e29_24]
  simp [dec3B, immOk_none, immOk_some, immOf_none, immOf_some, immMS, e23_19, e18_14, e13_9, e8_4, e8_0, e3_0]

theorem vfrcp (d a : Nat) : Statement (.vfrcp d a) := by
  intro h _ kk hk
  simp only [Instr.wf, Imm.wf, Bool.and_eq_true, Bool.not_eq_true', decide_eq_true_eq, decide_eq_false_iff_not] at h
  obtain ⟨w, hw⟩ : ∃ w, encodeBody (.vfrcp d a) = w := ⟨_, rfl⟩
  rw [hw]
  replace hw : 0x3B000006 + d * 524288 + a * 16384 = w := hw
  have e29_24 : fld w 29 24 = 0x3B := by simp only [fld_eq]; omega
  have e23_19 : fld w 23 19 = d := by simp only [fld_eq]; omega
  have e18_14 : fld w 18 14 = a := by simp only [fld_eq]; omega
  have e13_9 : fld w 13 9 = 0 := by simp only [fld_eq]; omega
  have e13_0 : fld w 13 0 = 6 := by simp only [fld_eq]; omega
  have e8_4 : fld w 8 4 = 0 := by simp only [fld_eq]; omega
  have e8_0 : fld w 8 0 = 6 := by simp only [fld_eq]; omega
  have e3_0 : fld w 3 0 = 6 := by simp only [fld_eq]; omega
  rw [to3B _ e29_24]
  simp [dec3B, immOk_none, immOk_some, immOf_none, immOf_some, immMS, e23_19, e18_14, e13_9, e13_0, e8_4, e8_0, e3_0]

theorem vfexp2 (d a : Nat) : Statement (.vfexp2 d a) := by
  intro h _ kk hk
  simp only [Instr.wf, Imm.wf, Bool.and_eq_true, Bool.not_eq_true', decide_eq_true_eq, decide_eq_false_iff_not] at h
  obtain ⟨w, hw⟩ : ∃ w, encodeBody (.vfexp2 d a) = w := ⟨_, rfl⟩
  rw [hw]
  replace hw : 0x3B000007 + d * 524288 + a * 16384 = w := hw
  have e29_24 : fld w 29 24 = 0x3B := by simp only [fld_eq]; omega
  have e23_19 : fld w 23 19 = d := by simp only [fld_eq]; omega
  have e18_14 : fld w 18 14 = a := by simp only [fld_eq]; omega
  have e13_9 : fld w 13 9 = 0 := by simp only [fld_eq]; omega
  have e13_0 : fld w 13 0 = 7 := by simp only [fld_eq]; omega
  have e8_4 : fld w 8 4 = 0 := by simp only [fld_eq]; omega
  have e8_0 : fld w 8 0 = 7 := by simp only [fld_eq]; omega
  have e3_0 : fld w 3 0 = 7 := by simp only [fld_eq]; omega
  rw [to3B _ e29_24]
  simp [dec3B, immOk_none, immOk_some, immOf_none, immOf_some, immMS, e23_19, e18_14, e13_9, e13_0, e8_4, e8_0, e3_0]

theorem vadd (d a b : Nat) : Statement (.vadd d a b) := by
  intro h _ kk hk
  simp only [Instr.wf, Imm.wf, Bool.and_eq_true, Bool.not_eq_true', decide_eq_true_eq, decide_eq_false_iff_not] at h
  obtain ⟨w, hw⟩ : ∃ w, encodeBody (.vadd d a b) = w := ⟨_, rfl⟩
  rw [hw]
  replace hw : 0x3C000000 + d * 524288 + a * 16384 + b * 512 = w := hw
  have e29_24 : fld w 29 24 = 0x3C := by simp only [fld_eq]; omega
  have e23_19 : fld w 23 19 = d := by simp only [fld_eq]; omega
  have e18_14 : fld w 18 14 = a := by simp only [fld_eq]; omega
  have e13_9 : fld w 13 9 = b := by simp only [fld_eq]; omega
  have e8_0 : fld w 8 0 = 0 := by simp only [fld_eq]; omega
  rw [to3C _ e29_24]
  simp [dec3C, immOk_none, immOk_some, immOf_none, immOf_some, immMS, e23_19, e18_14, e13_9, e8_0]

theorem vsub (d a b : Nat) : Statement (.vsub d a b) := by
  intro h _ kk hk
  simp only [Instr.wf, Imm.wf, Bool.and_eq_true, Bool.not_eq_true', decide_eq_true_eq, decide_eq_false_iff_not] at h
  obtain ⟨w, hw⟩ : ∃ w, encodeBody (.vsub d a b) = w := ⟨_, rfl⟩
  rw [hw]
  replace hw : 0x3C000001 + d * 524288 + a * 16384 + b * 512 = w := hw
  have e29_24 : fld w 29 24 = 0x3C := by simp only [fld_eq]; omega
  have e23_19 : fld w 23 19 = d := by simp only [fld_eq]; omega
  have e18_14 : fld w 18 14 = a := by simp only [fld_eq]; omega
  have e13_9 : fld w 13 9 = b := by simp only [fld_eq]; omega
  have e8_0 : fld w 8 0 = 1 := by simp only [fld_eq]; omega
  rw [to3C _ e29_24]
  simp [dec3C, immOk_none, immOk_some, immOf_none, immOf_some, immMS, e23_19, e18_14, e13_9, e8_0]

theorem vmul (d a b : Nat) : Statement (.vmul d a b) := by
  intro h _ kk hk
  simp only [Instr.wf, Imm.wf, Bool.and_eq_true, Bool.not_eq_true', decide_eq_true_eq, decide_eq_false_iff_not] at h
  obtain ⟨w, hw⟩ : ∃ w, encodeBody (.vmul d a b) = w := ⟨_, rfl⟩
  rw [hw]
  replace hw : 0x3C000002 + d * 524288 + a * 16384 + b * 512 = w := hw
  have e29_24 : fld w 29 24 = 0x3C := by simp only [fld_eq]; omega
  have e23_19 : fld w 23 19 = d := by simp only [fld_eq]; omega
  have e18_14 : fld w 18 14 = a := by simp only [fld_eq]; omega
  have e13_9 : fld w 13 9 = b := by simp only [fld_eq]; omega
  have e8_0 : fld w 8 0 = 2 := by simp only [fld_eq]; omega
  rw [to3C _ e29_24]
  simp [dec3C, immOk_none, immOk_some, immOf_none, immOf_some, immMS, e23_19, e18_14, e13_9, e8_0]

theorem vmin (d a b : Nat) : Statement (.vmin d a b) := by
  intro h _ kk hk
  simp only [Instr.wf, Imm.wf, Bool.and_eq_true, Bool.not_eq_true', decide_eq_true_eq, decide_eq_false_iff_not] at h
  obtain ⟨w, hw⟩ : ∃ w, encodeBody (.vmin d a b) = w := ⟨_, rfl⟩
  rw [hw]
  replace hw : 0x3C000003 + d * 524288 + a * 16384 + b * 512 = w := hw
  have e29_24 : fld w 29 24 = 0x3C := by simp only [fld_eq]; omega
  have e23_19 : fld w 23 19 = d := by simp only [fld_eq]; omega
  have e18_14 : fld w 18 14 = a := by simp only [fld_eq]; omega
  have e13_9 : fld w 13 9 = b := by simp only [fld_eq]; omega
  have e8_0 : fld w 8 0 = 3 := by simp only [fld_eq]; omega
  rw [to3C _ e29_24]
  simp [dec3C, immOk_none, immOk_some, immOf_none, immOf_some, immMS, e23_19, e18_14, e13_9, e8_0]

theorem vmax (d a b : Nat) : Statement (.vmax d a b) := by
  intro h _ kk hk
  simp only [Instr.wf, Imm.wf, Bool.and_eq_true, Bool.not_eq_true', decide_eq_true_eq, decide_eq_false_iff_not] at h
  obtain ⟨w, hw⟩ : ∃ w, encodeBody (.vmax d a b) = w := ⟨_, rfl⟩
  rw [hw]
  replace hw : 0x3C000004 + d * 524288 + a * 16384 + b * 512 = w := hw
  have e29_24 : fld w 29 24 = 0x3C := by simp only [fld_eq]; omega
  have e23_19 : fld w 23 19 = d := by simp only [fld_eq]; omega
  have e18_14 : fld w 18 14 = a := by simp only [fld_eq]; omega
  have e13_9 : fld w 13 9 = b := by simp only [fld_eq]; omega
  have e8_0 : fld w 8 0 = 4 := by simp only [fld_eq]; omega
  rw [to3C _ e29_24]
  simp [dec3C, immOk_none, immOk_some, immOf_none, immOf_some, immMS, e23_19, e18_14, e13_9, e8_0]

theorem vminu (d a b : Nat) : Statement (.vminu d a b) := by
  intro h _ kk hk
  simp only [Instr.wf, Imm.wf, Bool.and_eq_true, Bool.not_eq_true', decide_eq_true_eq, decide_eq_false_iff_not] at h
  obtain ⟨w, hw⟩ : ∃ w, encodeBody (.vminu d a b) = w := ⟨_, rfl⟩
  rw [hw]
  replace hw : 0x3C000005 + d * 524288 + a * 16384 + b * 512 = w := hw
  have e29_24 : fld w 29 24 = 0x3C := by simp only [fld_eq]; omega
  have e23_19 : fld w 23 19 = d := by simp only [fld_eq]; omega
  have e18_14 : fld w 18 14 = a := by simp only [fld_eq]; omega
  have e13_9 : fld w 13 9 = b := by simp only [fld_eq]; omega
  have e8_0 : fld w 8 0 = 5 := by simp only [fld_eq]; omega
  rw [to3C _ e29_24]
  simp [dec3C, immOk_none, immOk_some, immOf_none, immOf_some, immMS, e23_19, e18_14, e13_9, e8_0]

theorem vmaxu (d a b : Nat) : Statement (.vmaxu d a b) := by
  intro h _ kk hk
  simp only [Instr.wf, Imm.wf, Bool.and_eq_true, Bool.not_eq_true', decide_eq_true_eq, decide_eq_false_iff_not] at h
  obtain ⟨w, hw⟩ : ∃ w, encodeBody (.vmaxu d a b) = w := ⟨_, rfl⟩
  rw [hw]
  replace hw : 0x3C000006 + d * 524288 + a * 16384 + b * 512 = w := hw
  have e29_24 : fld w 29 24 = 0x3C := by simp only [fld_eq]; omega
  have e23_19 : fld w 23 19 = d := by simp only [fld_eq]; omega
  have e18_14 : fld w 18 14 = a := by simp only [fld_eq]; omega
  have e13_9 : fld w 13 9 = b := by simp only [fld_eq]; omega
  have e8_0 : fld w 8 0 = 6 := by simp only [fld_eq]; omega
  rw [to3C _ e29_24]
  simp [dec3C, immOk_none, immOk_some, immOf_none, immOf_some, immMS, e23_19, e18_14, e13_9, e8_0]

theorem vand (d a b : Nat) : Statement (.vand d a b) := by
  intro h _ kk hk
  simp only [Instr.wf, Imm.wf, Bool.and_eq_true, Bool.not_eq_true', decide_eq_true_eq, decide_eq_false_iff_not] at h
  obtain ⟨w, hw⟩ : ∃ w, encodeBody (.vand d a b) = w := ⟨_, rfl⟩
  rw [hw]
  replace hw : 0x3C000007 + d * 524288 + a * 16384 + b * 512 = w := hw
  have e29_24 : fld w 29 24 = 0x3C := by simp only [fld_eq]; omega
  have e23_19 : fld w 23 19 = d := by simp only [fld_eq]; omega
  have e18_14 : fld w 18 14 = a := by simp only [fld_eq]; omega
  have e13_9 : fld w 13 9 = b := by simp only [fld_eq]; omega
  have e8_0 : fld w 8 0 = 7 := by simp only [fld_eq]; omega
  rw [to3C _ e29_24]
  simp [dec3C, immOk_none, immOk_some, immOf_none, immOf_some, immMS, e23_19, e18_14, e13_9, e8_0]

theorem vor (d a b : Nat) : Statement (.vor d a b) := by
  intro h _ kk hk
  simp only [Instr.wf, Imm.wf, Bool.and_eq_true, Bool.not_eq_true', decide_eq_true_eq, decide_eq_false_iff_not] at h
  obtain ⟨w, hw⟩ : ∃ w, encodeBody (.vor d a b) = w := ⟨_, rfl⟩
  rw [hw]
  replace hw : 0x3C000008 + d * 524288 + a * 16384 + b * 512 = w := hw
  have e29_24 : fld w 29 24 = 0x3C := by simp only [fld_eq]; omega
  have e23_19 : fld w 23 19 = d := by simp only [fld_eq]; omega
  have e18_14 : fld w 18 14 = a := by simp only [fld_eq]; omega
  have e13_9 : fld w 13 9 = b := by simp only [fld_eq]; omega
  have e8_0 : fld w 8 0 = 8 := by simp only [fld_eq]; omega
  rw [to3C _ e29_24]
  simp [dec3C, immOk_none, immOk_some, immOf_none, immOf_some, immMS, e23_19, e18_14, e13_9, e8_0]

theorem vxor (d a b : Nat) : Statement (.vxor d a b) := by
  intro h _ kk hk
  simp only [Instr.wf, Imm.wf, Bool.and_eq_true, Bool.not_eq_true', decide_eq_true_eq, decide_eq_false_iff_not] at h
  obtain ⟨w, hw⟩ : ∃ w, encodeBody (.vxor d a b) = w := ⟨_, rfl⟩
  rw [hw]
  replace hw : 0x3C000009 + d * 524288 + a * 16384 + b * 512 = w := hw
  have e29_24 : fld w 29 24 = 0x3C := by simp only [fld_eq]; omega
  have e23_19 : fld w 23 19 = d := by simp only [fld_eq]; omega
  have e18_14 : fld w 18 14 = a := by simp only [fld_eq]; omega
  have e13_9 : fld w 13 9 = b := by simp only [fld_eq]; omega
  have e8_0 : fld w 8 0 = 9 := by simp only [fld_eq]; omega
  rw [to3C _ e29_24]
  simp [dec3C, immOk_none, immOk_some, immOf_none, immOf_some, immMS, e23_19, e18_14, e13_9, e8_0]

theorem vsll (d a b : Nat) : Statement (.vsll d a b) := by
  intro h _ kk hk
  simp only [Instr.wf, Imm.wf, Bool.and_eq_true, Bool.not_eq_true', decide_eq_true_eq, decide_eq_false_iff_not] at h
  obtain ⟨w, hw⟩ : ∃ w, encodeBody (.vsll d a b) = w := ⟨_, rfl⟩
  rw [hw]
  replace hw : 0x3C00000A + d * 524288 + a * 16384 + b * 512 = w := hw
  have e29_24 : fld w 29 24 = 0x3C := by simp only [fld_eq]; omega
  have e23_19 : fld w 23 19 = d := by simp only [fld_eq]; omega
  have e18_14 : fld w 18 14 = a := by simp only [fld_eq]; omega
  have e13_9 : fld w 13 9 = b := by simp only [fld_eq]; omega
  have e8_0 : fld w 8 0 = 10 := by simp only [fld_eq]; omega
  rw [to3C _ e29_24]
  simp [dec3C, immOk_none, immOk_some, immOf_none, immOf_some, immMS, e23_19, e18_14, e13_9, e8_0]

theorem vsrl (d a b : Nat) : Statement (.vsrl d a b) := by
  intro h _ kk hk
  simp only [Instr.wf, Imm.wf, Bool.and_eq_true, Bool.not_eq_true', decide_eq_true_eq, decide_eq_false_iff_not] at h
  obtain ⟨w, hw⟩ : ∃ w, encodeBody (.vsrl d a b) = w := ⟨_, rfl⟩
  rw [hw]
  replace hw : 0x3C00000B + d * 524288 + a * 16384 + b * 512 = w := hw
  have e29_24 : fld w 29 24 = 0x3C := by simp only [fld_eq]; omega
  have e23_19 : fld w 23 19 = d := by simp only [fld_eq]; omega
  have e18_14 : fld w 18 14 = a := by simp only [fld_eq]; omega
  have e13_9 : fld w 13 9 = b := by simp only [fld_eq]; omega
  have e8_0 : fld w 8 0 = 11 := by simp only [fld_eq]; omega
  rw [to3C _ e29_24]
  simp [dec3C, immOk_none, immOk_some, immOf_none, immOf_some, immMS, e23_19, e18_14, e13_9, e8_0]

theorem vsra (d a b : Nat) : Statement (.vsra d a b) := by
  intro h _ kk hk
  simp only [Instr.wf, Imm.wf, Bool.and_eq_true, Bool.not_eq_true', decide_eq_true_eq, decide_eq_false_iff_not] at h
  obtain ⟨w, hw⟩ : ∃ w, encodeBody (.vsra d a b) = w := ⟨_, rfl⟩
  rw [hw]
  replace hw : 0x3C00000C + d * 524288 + a * 16384 + b * 512 = w := hw
  have e29_24 : fld w 29 24 = 0x3C := by simp only [fld_eq]; omega
  have e23_19 : fld w 23 19 = d := by simp only [fld_eq]; omega
  have e18_14 : fld w 18 14 = a := by simp only [fld_eq]; omega
  have e13_9 : fld w 13 9 = b := by simp only [fld_eq]; omega
  have e8_0 : fld w 8 0 = 12 := by simp only [fld_eq]; omega
  rw [to3C _ e29_24]
  simp [dec3C, immOk_none, immOk_some, immOf_none, immOf_some, immMS, e23_19, e18_14, e13_9, e8_0]

theorem vred (d a c : Nat) : Statement (.vred d a c) := by
  intro h _ kk hk
  simp only [Instr.wf, Imm.wf, Bool.and_eq_true, Bool.not_eq_true', decide_eq_true_eq, decide_eq_false_iff_not] at h
  obtain ⟨w, hw⟩ : ∃ w, encodeBody (.vred d a c) = w := ⟨_, rfl⟩
  rw [hw]
  replace hw : 0x3D000000 + d * 524288 + a * 16384 + c * 16 = w := hw
  have e29_24 : fld w 29 24 = 0x3D := by simp only [fld_eq]; omega
  have e23_19 : fld w 23 19 = d := by simp only [fld_eq]; omega
  have e18_14 : fld w 18 14 = a := by simp only [fld_eq]; omega
  have e13_9 : fld w 13 9 = 0 := by simp only [fld_eq]; omega
  have e8_4 : fld w 8 4 = c := by simp only [fld_eq]; omega
  have e3_0 : fld w 3 0 = 0 := by simp only [fld_eq]; omega
  rw [to3D _ e29_24]
  simp [dec3D, immOk_none, immOk_some, immOf_none, immOf_some, immMS, e23_19, e18_14, e13_9, e8_4, e3_0] <;> omega

theorem vperm (d a p : Nat) : Statement (.vperm d a p) := by
  intro h _ kk hk
  simp only [Instr.wf, Imm.wf, Bool.and_eq_true, Bool.not_eq_true', decide_eq_true_eq, decide_eq_false_iff_not] at h
  obtain ⟨w, hw⟩ : ∃ w, encodeBody (.vperm d a p) = w := ⟨_, rfl⟩
  rw [hw]
  replace hw : 0x3D000001 + d * 524288 + a * 16384 + p * 512 = w := hw
  have e29_24 : fld w 29 24 = 0x3D := by simp only [fld_eq]; omega
  have e23_19 : fld w 23 19 = d := by simp only [fld_eq]; omega
  have e18_14 : fld w 18 14 = a := by simp only [fld_eq]; omega
  have e13_9 : fld w 13 9 = p := by simp only [fld_eq]; omega
  have e8_4 : fld w 8 4 = 0 := by simp only [fld_eq]; omega
  have e8_0 : fld w 8 0 = 1 := by simp only [fld_eq]; omega
  have e3_0 : fld w 3 0 = 1 := by simp only [fld_eq]; omega
  rw [to3D _ e29_24]
  simp [dec3D, immOk_none, immOk_some, immOf_none, immOf_some, immMS, e23_19, e18_14, e13_9, e8_4, e8_0, e3_0]

theorem vsel (d a b c : Nat) : Statement (.vsel d a b c) := by
  intro h _ kk hk
  simp only [Instr.wf, Imm.wf, Bool.and_eq_true, Bool.not_eq_true', decide_eq_true_eq, decide_eq_false_iff_not] at h
  obtain ⟨w, hw⟩ : ∃ w, encodeBody (.vsel d a b c) = w := ⟨_, rfl⟩
  rw [hw]
  replace hw : 0x3D000002 + d * 524288 + a * 16384 + b * 512 + c * 16 = w := hw
  have e29_24 : fld w 29 24 = 0x3D := by simp only [fld_eq]; omega
  have e23_19 : fld w 23 19 = d := by simp only [fld_eq]; omega
  have e18_14 : fld w 18 14 = a := by simp only [fld_eq]; omega
  have e13_9 : fld w 13 9 = b := by simp only [fld_eq]; omega
  have e8_4 : fld w 8 4 = c := by simp only [fld_eq]; omega
  have n8_0_1 : ¬ fld w 8 0 = 1 := by simp only [fld_eq]; omega
  have e3_0 : fld w 3 0 = 2 := by simp only [fld_eq]; omega
  rw [to3D _ e29_24]
  simp [dec3D, immOk_none, immOk_some, immOf_none, immOf_some, immMS, e23_19, e18_14, e13_9, e8_4, n8_0_1, e3_0]

theorem vcmp (d a b c : Nat) : Statement (.vcmp d a b c) := by
  intro h _ kk hk
  simp only [Instr.wf, Imm.wf, Bool.and_eq_true, Bool.not_eq_true', decide_eq_true_eq, decide_eq_false_iff_not] at h
  obtain ⟨w, hw⟩ : ∃ w, encodeBody (.vcmp d a b c) = w := ⟨_, rfl⟩
  rw [hw]
  replace hw : 0x3D000003 + d * 524288 + a * 16384 + b * 512 + c * 16 = w := hw
  have e29_24 : fld w 29 24 = 0x3D := by simp only [fld_eq]; omega
  have e23_19 : fld w 23 19 = d := by simp only [fld_eq]; omega
  have e18_14 : fld w 18 14 = a := by simp only [fld_eq]; omega
  have e13_9 : fld w 13 9 = b := by simp only [fld_eq]; omega
  have e8_4 : fld w 8 4 = c := by simp only [fld_eq]; omega
  have n8_0_1 : ¬ fld w 8 0 = 1 := by simp only [fld_eq]; omega
  have e3_0 : fld w 3 0 = 3 := by simp only [fld_eq]; omega
  rw [to3D _ e29_24]
  simp [dec3D, immOk_none, immOk_some, immOf_none, immOf_some, immMS, e23_19, e18_14, e13_9, e8_4, n8_0_1, e3_0] <;> omega

theorem vcvt (d a c : Nat) : Statement (.vcvt d a c) := by
  intro h _ kk hk
  simp only [Instr.wf, Imm.wf, Bool.and_eq_true, Bool.not_eq_true', decide_eq_true_eq, decide_eq_false_iff_not] at h
  obtain ⟨w, hw⟩ : ∃ w, encodeBody (.vcvt d a c) = w := ⟨_, rfl⟩
  rw [hw]
  replace hw : 0x3D000004 + d * 524288 + a * 16384 + c * 16 = w := hw
  have e29_24 : fld w 29 24 = 0x3D := by simp only [fld_eq]; omega
  have e23_19 : fld w 23 19 = d := by simp only [fld_eq]; omega
  have e18_14 : fld w 18 14 = a := by simp only [fld_eq]; omega
  have e13_9 : fld w 13 9 = 0 := by simp only [fld_eq]; omega
  have e8_4 : fld w 8 4 = c := by simp only [fld_eq]; omega
  have n8_0_1 : ¬ fld w 8 0 = 1 := by simp only [fld_eq]; omega
  have e3_0 : fld w 3 0 = 4 := by simp only [fld_eq]; omega
  rw [to3D _ e29_24]
  simp [dec3D, immOk_none, immOk_some, immOf_none, immOf_some, immMS, e23_19, e18_14, e13_9, e8_4, n8_0_1, e3_0] <;> omega

theorem vbcast (d s : Nat) : Statement (.vbcast d s) := by
  intro h _ kk hk
  simp only [Instr.wf, Imm.wf, Bool.and_eq_true, Bool.not_eq_true', decide_eq_true_eq, decide_eq_false_iff_not] at h
  obtain ⟨w, hw⟩ : ∃ w, encodeBody (.vbcast d s) = w := ⟨_, rfl⟩
  rw [hw]
  replace hw : 0x3D000005 + d * 524288 + s * 4096 = w := hw
  have e29_24 : fld w 29 24 = 0x3D := by simp only [fld_eq]; omega
  have e23_19 : fld w 23 19 = d := by simp only [fld_eq]; omega
  have e18_12 : fld w 18 12 = s := by simp only [fld_eq]; omega
  have e11_0 : fld w 11 0 = 5 := by simp only [fld_eq]; omega
  have e8_4 : fld w 8 4 = 0 := by simp only [fld_eq]; omega
  have e8_0 : fld w 8 0 = 5 := by simp only [fld_eq]; omega
  have e3_0 : fld w 3 0 = 5 := by simp only [fld_eq]; omega
  rw [to3D _ e29_24]
  simp [dec3D, immOk_none, immOk_some, immOf_none, immOf_some, immMS, e23_19, e18_12, e11_0, e8_4, e8_0, e3_0]

theorem vext (d a n : Nat) : Statement (.vext d a n) := by
  intro h _ kk hk
  simp only [Instr.wf, Imm.wf, Bool.and_eq_true, Bool.not_eq_true', decide_eq_true_eq, decide_eq_false_iff_not] at h
  obtain ⟨w, hw⟩ : ∃ w, encodeBody (.vext d a n) = w := ⟨_, rfl⟩
  rw [hw]
  replace hw : 0x3D000006 + d * 131072 + a * 4096 + n * 32 = w := hw
  have e29_24 : fld w 29 24 = 0x3D := by simp only [fld_eq]; omega
  have e23_17 : fld w 23 17 = d := by simp only [fld_eq]; omega
  have e16_12 : fld w 16 12 = a := by simp only [fld_eq]; omega
  have e11_5 : fld w 11 5 = n := by simp only [fld_eq]; omega
  have n11_0_5 : ¬ fld w 11 0 = 5 := by simp only [fld_eq]; omega
  have n8_0_1 : ¬ fld w 8 0 = 1 := by simp only [fld_eq]; omega
  have e4_0 : fld w 4 0 = 6 := by simp only [fld_eq]; omega
  have e3_0 : fld w 3 0 = 6 := by simp only [fld_eq]; omega
  rw [to3D _ e29_24]
  simp [dec3D, immOk_none, immOk_some, immOf_none, immOf_some, immMS, e23_17, e16_12, e11_5, n11_0_5, n8_0_1, e4_0, e3_0]

theorem qnt (d a b : Nat) : Statement (.qnt d a b) :=
  g3 0x3E000000 .qnt (by decide) (fun _ _ _ => rfl) (fun _ _ _ => rfl) (fun k w h1 h2 => by
    rw [to3E k h1]; simp only [dec3E, h2]; rfl) d a b

theorem dqnt (d a b : Nat) : Statement (.dqnt d a b) :=
  g3 0x3E000001 .dqnt (by decide) (fun _ _ _ => rfl) (fun _ _ _ => rfl) (fun k w h1 h2 => by
    rw [to3E k h1]; simp only [dec3E, h2]; rfl) d a b

theorem baddq (d a b : Nat) : Statement (.baddq d a b) :=
  g3 0x3E000002 .baddq (by decide) (fun _ _ _ => rfl) (fun _ _ _ => rfl) (fun k w h1 h2 => by
    rw [to3E k h1]; simp only [dec3E, h2]; rfl) d a b

theorem scaleq (d a b : Nat) : Statement (.scaleq d a b) :=
  g3 0x3E000003 .scaleq (by decide) (fun _ _ _ => rfl) (fun _ _ _ => rfl) (fun k w h1 h2 => by
    rw [to3E k h1]; simp only [dec3E, h2]; rfl) d a b

theorem pcomp (d a b : Nat) : Statement (.pcomp d a b) := by
  intro h _ kk hk
  simp only [Instr.wf, Imm.wf, Bool.and_eq_true, Bool.not_eq_true', decide_eq_true_eq, decide_eq_false_iff_not] at h
  obtain ⟨w, hw⟩ : ∃ w, encodeBody (.pcomp d a b) = w := ⟨_, rfl⟩
  rw [hw]
  replace hw : 0x3F000000 + d * 131072 + a * 1024 + b * 8 = w := hw
  have e29_24 : fld w 29 24 = 0x3F := by simp only [fld_eq]; omega
  have e23_17 : fld w 23 17 = d := by simp only [fld_eq]; omega
  have e16_10 : fld w 16 10 = a := by simp only [fld_eq]; omega
  have e9_3 : fld w 9 3 = b := by simp only [fld_eq]; omega
  have e2_0 : fld w 2 0 = 0 := by simp only [fld_eq]; omega
  rw [to3F _ e29_24]
  simp [dec3F, immOk_none, immOk_some, immOf_none, immOf_some, immMS, e23_17, e16_10, e9_3, e2_0] <;> omega

theorem pinv (d a : Nat) : Statement (.pinv d a) := by
  intro h _ kk hk
  simp only [Instr.wf, Imm.wf, Bool.and_eq_true, Bool.not_eq_true', decide_eq_true_eq, decide_eq_false_iff_not] at h
  obtain ⟨w, hw⟩ : ∃ w, encodeBody (.pinv d a) = w := ⟨_, rfl⟩
  rw [hw]
  replace hw : 0x3F000001 + d * 131072 + a * 1024 = w := hw
  have e29_24 : fld w 29 24 = 0x3F := by simp only [fld_eq]; omega
  have e23_17 : fld w 23 17 = d := by simp only [fld_eq]; omega
  have e16_10 : fld w 16 10 = a := by simp only [fld_eq]; omega
  have e9_3 : fld w 9 3 = 0 := by simp only [fld_eq]; omega
  have e9_0 : fld w 9 0 = 1 := by simp only [fld_eq]; omega
  have e2_0 : fld w 2 0 = 1 := by simp only [fld_eq]; omega
  rw [to3F _ e29_24]
  simp [dec3F, immOk_none, immOk_some, immOf_none, immOf_some, immMS, e23_17, e16_10, e9_3, e9_0, e2_0] <;> omega

theorem prand (d a b : Nat) : Statement (.prand d a b) := by
  intro h _ kk hk
  simp only [Instr.wf, Imm.wf, Bool.and_eq_true, Bool.not_eq_true', decide_eq_true_eq, decide_eq_false_iff_not] at h
  obtain ⟨w, hw⟩ : ∃ w, encodeBody (.prand d a b) = w := ⟨_, rfl⟩
  rw [hw]
  replace hw : 0x3F000002 + d * 131072 + a * 1024 + b * 8 = w := hw
  have e29_24 : fld w 29 24 = 0x3F := by simp only [fld_eq]; omega
  have e23_17 : fld w 23 17 = d := by simp only [fld_eq]; omega
  have e16_10 : fld w 16 10 = a := by simp only [fld_eq]; omega
  have e9_3 : fld w 9 3 = b := by simp only [fld_eq]; omega
  have n9_0_1 : ¬ fld w 9 0 = 1 := by simp only [fld_eq]; omega
  have e2_0 : fld w 2 0 = 2 := by simp only [fld_eq]; omega
  rw [to3F _ e29_24]
  simp [dec3F, immOk_none, immOk_some, immOf_none, immOf_some, immMS, e23_17, e16_10, e9_3, n9_0_1, e2_0] <;> omega

theorem pidn (d b : Nat) : Statement (.pidn d b) := by
  intro h _ kk hk
  simp only [Instr.wf, Imm.wf, Bool.and_eq_true, Bool.not_eq_true', decide_eq_true_eq, decide_eq_false_iff_not] at h
  obtain ⟨w, hw⟩ : ∃ w, encodeBody (.pidn d b) = w := ⟨_, rfl⟩
  rw [hw]
  replace hw : 0x3F000003 + d * 131072 + b * 8 = w := hw
  have e29_24 : fld w 29 24 = 0x3F := by simp only [fld_eq]; omega
  have e23_17 : fld w 23 17 = d := by simp only [fld_eq]; omega
  have e16_10 : fld w 16 10 = 0 := by simp only [fld_eq]; omega
  have e9_3 : fld w 9 3 = b := by simp only [fld_eq]; omega
  have n9_0_1 : ¬ fld w 9 0 = 1 := by simp only [fld_eq]; omega
  have e2_0 : fld w 2 0 = 3 := by simp only [fld_eq]; omega
  rw [to3F _ e29_24]
  simp [dec3F, immOk_none, immOk_some, immOf_none, immOf_some, immMS, e23_17, e16_10, e9_3, n9_0_1, e2_0] <;> omega

theorem pcyc (d a b : Nat) : Statement (.pcyc d a b) := by
  intro h _ kk hk
  simp only [Instr.wf, Imm.wf, Bool.and_eq_true, Bool.not_eq_true', decide_eq_true_eq, decide_eq_false_iff_not] at h
  obtain ⟨w, hw⟩ : ∃ w, encodeBody (.pcyc d a b) = w := ⟨_, rfl⟩
  rw [hw]
  replace hw : 0x3F000004 + d * 131072 + a * 1024 + b * 8 = w := hw
  have e29_24 : fld w 29 24 = 0x3F := by simp only [fld_eq]; omega
  have e23_17 : fld w 23 17 = d := by simp only [fld_eq]; omega
  have e16_10 : fld w 16 10 = a := by simp only [fld_eq]; omega
  have e9_3 : fld w 9 3 = b := by simp only [fld_eq]; omega
  have n9_0_1 : ¬ fld w 9 0 = 1 := by simp only [fld_eq]; omega
  have e2_0 : fld w 2 0 = 4 := by simp only [fld_eq]; omega
  rw [to3F _ e29_24]
  simp [dec3F, immOk_none, immOk_some, immOf_none, immOf_some, immMS, e23_17, e16_10, e9_3, n9_0_1, e2_0] <;> omega

theorem pmov (d a : Nat) : Statement (.pmov d a) := by
  intro h _ kk hk
  simp only [Instr.wf, Imm.wf, Bool.and_eq_true, Bool.not_eq_true', decide_eq_true_eq, decide_eq_false_iff_not] at h
  obtain ⟨w, hw⟩ : ∃ w, encodeBody (.pmov d a) = w := ⟨_, rfl⟩
  rw [hw]
  replace hw : 0x3F000005 + d * 131072 + a * 1024 = w := hw
  have e29_24 : fld w 29 24 = 0x3F := by simp only [fld_eq]; omega
  have e23_17 : fld w 23 17 = d := by simp only [fld_eq]; omega
  have e16_10 : fld w 16 10 = a := by simp only [fld_eq]; omega
  have e9_3 : fld w 9 3 = 0 := by simp only [fld_eq]; omega
  have e9_0 : fld w 9 0 = 5 := by simp only [fld_eq]; omega
  have e2_0 : fld w 2 0 = 5 := by simp only [fld_eq]; omega
  rw [to3F _ e29_24]
  simp [dec3F, immOk_none, immOk_some, immOf_none, immOf_some, immMS, e23_17, e16_10, e9_3, e9_0, e2_0] <;> omega

theorem illegalEncoding (w : Nat) : Statement (.illegalEncoding w) := of_event rfl (by intro h; cases h)

theorem fetchFault (cause : Nat) : Statement (.fetchFault cause) := of_event rfl (by intro h; cases h)

theorem nop : Statement (.nop) := by
  intro h _ kk hk
  obtain ⟨w, hw⟩ : ∃ w, encodeBody (.nop) = w := ⟨_, rfl⟩
  rw [hw]
  replace hw : 0x00000000 = w := hw
  have e29_24 : fld w 29 24 = 0x00 := by simp only [fld_eq]; omega
  have e23_0 : fld w 23 0 = 0 := by simp only [fld_eq]; omega
  rw [to00 _ e29_24]
  simp [dec00, immOk_none, immOk_some, immOf_none, immOf_some, immMS, e23_0]

theorem yield : Statement (.yield) := by
  intro h _ kk hk
  obtain ⟨w, hw⟩ : ∃ w, encodeBody (.yield) = w := ⟨_, rfl⟩
  rw [hw]
  replace hw : 0x00000001 = w := hw
  have e29_24 : fld w 29 24 = 0x00 := by simp only [fld_eq]; omega
  have e23_0 : fld w 23 0 = 1 := by simp only [fld_eq]; omega
  rw [to00 _ e29_24]
  simp [dec00, immOk_none, immOk_some, immOf_none, immOf_some, immMS, e23_0]

theorem exit : Statement (.exit) := by
  intro h _ kk hk
  obtain ⟨w, hw⟩ : ∃ w, encodeBody (.exit) = w := ⟨_, rfl⟩
  rw [hw]
  replace hw : 0x00000002 = w := hw
  have e29_24 : fld w 29 24 = 0x00 := by simp only [fld_eq]; omega
  have e23_0 : fld w 23 0 = 2 := by simp only [fld_eq]; omega
  rw [to00 _ e29_24]
  simp [dec00, immOk_none, immOk_some, immOf_none, immOf_some, immMS, e23_0]

theorem eret : Statement (.eret) := by
  intro h _ kk hk
  obtain ⟨w, hw⟩ : ∃ w, encodeBody (.eret) = w := ⟨_, rfl⟩
  rw [hw]
  replace hw : 0x00000003 = w := hw
  have e29_24 : fld w 29 24 = 0x00 := by simp only [fld_eq]; omega
  have e23_0 : fld w 23 0 = 3 := by simp only [fld_eq]; omega
  rw [to00 _ e29_24]
  simp [dec00, immOk_none, immOk_some, immOf_none, immOf_some, immMS, e23_0]

theorem disband : Statement (.disband) := by
  intro h _ kk hk
  obtain ⟨w, hw⟩ : ∃ w, encodeBody (.disband) = w := ⟨_, rfl⟩
  rw [hw]
  replace hw : 0x1F000001 = w := hw
  have e29_24 : fld w 29 24 = 0x1F := by simp only [fld_eq]; omega
  have e23_17 : fld w 23 17 = 0 := by simp only [fld_eq]; omega
  have e23_0 : fld w 23 0 = 1 := by simp only [fld_eq]; omega
  have e16_10 : fld w 16 10 = 0 := by simp only [fld_eq]; omega
  have e9_0 : fld w 9 0 = 1 := by simp only [fld_eq]; omega
  rw [to1F _ e29_24]
  simp [dec1F, immOk_none, immOk_some, immOf_none, immOf_some, immMS, e23_17, e23_0, e16_10, e9_0]

theorem vrb : Statement (.vrb) := by
  intro h _ kk hk
  obtain ⟨w, hw⟩ : ∃ w, encodeBody (.vrb) = w := ⟨_, rfl⟩
  rw [hw]
  replace hw : 0x25000000 = w := hw
  have e29_24 : fld w 29 24 = 0x25 := by simp only [fld_eq]; omega
  have e23_0 : fld w 23 0 = 0 := by simp only [fld_eq]; omega
  rw [to25 _ e29_24]
  simp [dec25, immOk_none, immOk_some, immOf_none, immOf_some, immMS, e23_0]

theorem vrstop : Statement (.vrstop) := by
  intro h _ kk hk
  obtain ⟨w, hw⟩ : ∃ w, encodeBody (.vrstop) = w := ⟨_, rfl⟩
  rw [hw]
  replace hw : 0x25000002 = w := hw
  have e29_24 : fld w 29 24 = 0x25 := by simp only [fld_eq]; omega
  have e23_17 : fld w 23 17 = 0 := by simp only [fld_eq]; omega
  have e23_0 : fld w 23 0 = 2 := by simp only [fld_eq]; omega
  have e16_10 : fld w 16 10 = 0 := by simp only [fld_eq]; omega
  have e9_3 : fld w 9 3 = 0 := by simp only [fld_eq]; omega
  have e2_0 : fld w 2 0 = 2 := by simp only [fld_eq]; omega
  rw [to25 _ e29_24]
  simp [dec25, immOk_none, immOk_some, immOf_none, immOf_some, immMS, e23_17, e23_0, e16_10, e9_3, e2_0]

theorem vrwait : Statement (.vrwait) := by
  intro h _ kk hk
  obtain ⟨w, hw⟩ : ∃ w, encodeBody (.vrwait) = w := ⟨_, rfl⟩
  rw [hw]
  replace hw : 0x25000003 = w := hw
  have e29_24 : fld w 29 24 = 0x25 := by simp only [fld_eq]; omega
  have e23_17 : fld w 23 17 = 0 := by simp only [fld_eq]; omega
  have e23_0 : fld w 23 0 = 3 := by simp only [fld_eq]; omega
  have e16_10 : fld w 16 10 = 0 := by simp only [fld_eq]; omega
  have e9_3 : fld w 9 3 = 0 := by simp only [fld_eq]; omega
  have e2_0 : fld w 2 0 = 3 := by simp only [fld_eq]; omega
  rw [to25 _ e29_24]
  simp [dec25, immOk_none, immOk_some, immOf_none, immOf_some, immMS, e23_17, e23_0, e16_10, e9_3, e2_0]

theorem powerOnReset : Statement (.powerOnReset) := of_event rfl (by intro h; cases h)

theorem functionReady (pkg f : Nat) : Statement (.functionReady pkg f) := of_event rfl (by intro h; cases h)

theorem commandFetch (pkg : Nat) : Statement (.commandFetch pkg) := of_event rfl (by intro h; cases h)

theorem init (pkg : Nat) : Statement (.init pkg) := of_event rfl (by intro h; cases h)

theorem hostLaunch (pkg : Nat) : Statement (.hostLaunch pkg) := of_event rfl (by intro h; cases h)

theorem rstat (pkg : Nat) : Statement (.rstat pkg) := of_event rfl (by intro h; cases h)

theorem freset (pkg : Nat) : Statement (.freset pkg) := of_event rfl (by intro h; cases h)

theorem attest (pkg : Nat) : Statement (.attest pkg) := of_event rfl (by intro h; cases h)

theorem fwload (pkg : Nat) : Statement (.fwload pkg) := of_event rfl (by intro h; cases h)

theorem cdoor (pkg v : Nat) : Statement (.cdoor pkg v) := of_event rfl (by intro h; cases h)

theorem qstart (pkg v : Nat) : Statement (.qstart pkg v) := of_event rfl (by intro h; cases h)

theorem registerWrite (pkg off v : Nat) : Statement (.registerWrite pkg off v) := of_event rfl (by intro h; cases h)

theorem migrationGo (die v : Nat) : Statement (.migrationGo die v) := of_event rfl (by intro h; cases h)

theorem migrationComplete (die : Nat) : Statement (.migrationComplete die) := of_event rfl (by intro h; cases h)

theorem stestStart (die u : Nat) : Statement (.stestStart die u) := of_event rfl (by intro h; cases h)

theorem selfTestComplete (die : Nat) (pass : Bool) : Statement (.selfTestComplete die pass) := of_event rfl (by intro h; cases h)

theorem uvUnfreeze (pkg dom : Nat) : Statement (.uvUnfreeze pkg dom) := of_event rfl (by intro h; cases h)

theorem uvFreeze (pkg dom : Nat) : Statement (.uvFreeze pkg dom) := of_event rfl (by intro h; cases h)

theorem uvEnableWrite (pkg dom : Nat) (en : Bool) : Statement (.uvEnableWrite pkg dom en) := of_event rfl (by intro h; cases h)

theorem mfqset (pkg v : Nat) : Statement (.mfqset pkg v) := of_event rfl (by intro h; cases h)

theorem uvStep (pkg dom : Nat) (down : Bool) : Statement (.uvStep pkg dom down) := of_event rfl (by intro h; cases h)

theorem uvMeasureEnd (pkg dom : Nat) (exceeded : Bool) : Statement (.uvMeasureEnd pkg dom exceeded) := of_event rfl (by intro h; cases h)

theorem powerSample (pkg i mw : Nat) : Statement (.powerSample pkg i mw) := of_event rfl (by intro h; cases h)

theorem translationWalkComplete (e slot : Nat) : Statement (.translationWalkComplete e slot) := of_event rfl (by intro h; cases h)

theorem memoryReply (e slot : Nat) : Statement (.memoryReply e slot) := of_event rfl (by intro h; cases h)

theorem storeTakesEffect (e : Nat) : Statement (.storeTakesEffect e) := of_event rfl (by intro h; cases h)

theorem storeReply (e : Nat) : Statement (.storeReply e) := of_event rfl (by intro h; cases h)

theorem pageHeatHalve (die : Nat) : Statement (.pageHeatHalve die) := of_event rfl (by intro h; cases h)

theorem loopSlotReserve (die lp stop : Nat) : Statement (.loopSlotReserve die lp stop) := of_event rfl (by intro h; cases h)

theorem loopStopPowerDown (die lp stop : Nat) : Statement (.loopStopPowerDown die lp stop) := of_event rfl (by intro h; cases h)

theorem loopStopWake (die lp stop : Nat) : Statement (.loopStopWake die lp stop) := of_event rfl (by intro h; cases h)

theorem longLatencyWriteback (e slot : Nat) : Statement (.longLatencyWriteback e slot) := of_event rfl (by intro h; cases h)

theorem eventDelivery (e slot : Nat) : Statement (.eventDelivery e slot) := of_event rfl (by intro h; cases h)

theorem yieldExpiry (e slot : Nat) : Statement (.yieldExpiry e slot) := of_event rfl (by intro h; cases h)

theorem handlerIssueLimit (e slot : Nat) : Statement (.handlerIssueLimit e slot) := of_event rfl (by intro h; cases h)

theorem activeMessageArrival (e : Nat) : Statement (.activeMessageArrival e) := of_event rfl (by intro h; cases h)

theorem handlerStart (e : Nat) : Statement (.handlerStart e) := of_event rfl (by intro h; cases h)

theorem absent (e : Nat) : Statement (.absent e) := of_event rfl (by intro h; cases h)

theorem loopPortWordArrival (e : Nat) : Statement (.loopPortWordArrival e) := of_event rfl (by intro h; cases h)

theorem loopPortCreditReturn (e slot k : Nat) : Statement (.loopPortCreditReturn e slot k) := of_event rfl (by intro h; cases h)

theorem goArrival (e : Nat) : Statement (.goArrival e) := of_event rfl (by intro h; cases h)

theorem parkedThreadPlace (e : Nat) : Statement (.parkedThreadPlace e) := of_event rfl (by intro h; cases h)

theorem mapsetForward (e : Nat) : Statement (.mapsetForward e) := of_event rfl (by intro h; cases h)

theorem exitComplete (e slot : Nat) : Statement (.exitComplete e slot) := of_event rfl (by intro h; cases h)

theorem launchCompletionWrite (pkg l : Nat) : Statement (.launchCompletionWrite pkg l) := of_event rfl (by intro h; cases h)

theorem benchImageWrite (e : Nat) : Statement (.benchImageWrite e) := of_event rfl (by intro h; cases h)

theorem copyStart (e seq : Nat) : Statement (.copyStart e seq) := of_event rfl (by intro h; cases h)

theorem copyComplete (e seq : Nat) : Statement (.copyComplete e seq) := of_event rfl (by intro h; cases h)

theorem mmaStart (e : Nat) : Statement (.mmaStart e) := of_event rfl (by intro h; cases h)

theorem mmaComplete (e : Nat) : Statement (.mmaComplete e) := of_event rfl (by intro h; cases h)

theorem vectorStart (e : Nat) : Statement (.vectorStart e) := of_event rfl (by intro h; cases h)

theorem vectorWriteback (e : Nat) : Statement (.vectorWriteback e) := of_event rfl (by intro h; cases h)

theorem solverComplete (e : Nat) : Statement (.solverComplete e) := of_event rfl (by intro h; cases h)

theorem putArrival (e seq : Nat) : Statement (.putArrival e seq) := of_event rfl (by intro h; cases h)

theorem putComplete (e seq : Nat) : Statement (.putComplete e seq) := of_event rfl (by intro h; cases h)

theorem uePacketArrival (die kind key off : Nat) (bytes : List Nat) : Statement (.uePacketArrival die kind key off bytes) := of_event rfl (by intro h; cases h)

theorem wrqComplete (die id status : Nat) : Statement (.wrqComplete die id status) := of_event rfl (by intro h; cases h)

theorem norecvTimeout (die id : Nat) : Statement (.norecvTimeout die id) := of_event rfl (by intro h; cases h)

theorem syncRoundStart (st : Nat) : Statement (.syncRoundStart st) := of_event rfl (by intro h; cases h)

theorem umpireRoundEnd (st : Nat) : Statement (.umpireRoundEnd st) := of_event rfl (by intro h; cases h)

theorem completionReport (n : Nat) : Statement (.completionReport n) := of_event rfl (by intro h; cases h)

theorem phaseMessage (n : Nat) : Statement (.phaseMessage n) := of_event rfl (by intro h; cases h)

theorem verdictDelivery (n : Nat) : Statement (.verdictDelivery n) := of_event rfl (by intro h; cases h)

theorem memberAbsent (st : Nat) : Statement (.memberAbsent st) := of_event rfl (by intro h; cases h)

theorem tokenPass (obj st : Nat) : Statement (.tokenPass obj st) := of_event rfl (by intro h; cases h)

theorem stepAdvance (obj st : Nat) : Statement (.stepAdvance obj st) := of_event rfl (by intro h; cases h)

theorem rollbackResume (e kid : Nat) : Statement (.rollbackResume e kid) := of_event rfl (by intro h; cases h)

theorem errorDetected (die u gpa : Nat) (corrected : Bool) : Statement (.errorDetected die u gpa corrected) := of_event rfl (by intro h; cases h)

theorem sweeperExamine (cl sw : Nat) : Statement (.sweeperExamine cl sw) := of_event rfl (by intro h; cases h)

theorem sweeperPassStart (cl sw : Nat) : Statement (.sweeperPassStart cl sw) := of_event rfl (by intro h; cases h)

theorem sweeperForce (cl sw : Nat) : Statement (.sweeperForce cl sw) := of_event rfl (by intro h; cases h)

theorem faggGroupClose (e : Nat) : Statement (.faggGroupClose e) := of_event rfl (by intro h; cases h)

theorem requestArrival (e seq : Nat) : Statement (.requestArrival e seq) := of_event rfl (by intro h; cases h)

theorem requestResend (e seq : Nat) : Statement (.requestResend e seq) := of_event rfl (by intro h; cases h)

theorem requestTimeout (e seq : Nat) : Statement (.requestTimeout e seq) := of_event rfl (by intro h; cases h)

theorem dedupExpiry (die : Nat) : Statement (.dedupExpiry die) := of_event rfl (by intro h; cases h)

theorem flitReceive (pkg port seq : Nat) (good authOk : Bool) : Statement (.flitReceive pkg port seq good authOk) := of_event rfl (by intro h; cases h)

theorem replayRequest (pkg port seq : Nat) : Statement (.replayRequest pkg port seq) := of_event rfl (by intro h; cases h)

theorem criticalPacketReceive (pkg src seq : Nat) : Statement (.criticalPacketReceive pkg src seq) := of_event rfl (by intro h; cases h)

theorem portTrainingEnd (pkg port speed lanes : Nat) (recOk : Bool) : Statement (.portTrainingEnd pkg port speed lanes recOk) := of_event rfl (by intro h; cases h)

theorem trainingTimeout (pkg port : Nat) : Statement (.trainingTimeout pkg port) := of_event rfl (by intro h; cases h)

theorem flowMove (pkg port : Nat) : Statement (.flowMove pkg port) := of_event rfl (by intro h; cases h)

theorem flowStallEnd (pkg flow : Nat) : Statement (.flowStallEnd pkg flow) := of_event rfl (by intro h; cases h)

theorem switchLossNotice (dom sw : Nat) : Statement (.switchLossNotice dom sw) := of_event rfl (by intro h; cases h)

theorem rheadAdvance (pkg v : Nat) : Statement (.rheadAdvance pkg v) := of_event rfl (by intro h; cases h)

theorem portCommand (pkg port : Nat) : Statement (.portCommand pkg port) := of_event rfl (by intro h; cases h)

theorem memoryWriteComplete (cl line : Nat) : Statement (.memoryWriteComplete cl line) := of_event rfl (by intro h; cases h)

end Sys2Proof.Laws.Encoding
end

