-- ==== Sys2Proof/Tests/Slice0.lean ====
section
/-! SUPPORT. The author's own tests: words written out bit by bit from the spec's encodings, ill-formed terms that WellFormed
refuses, single steps with results taken from the spec, and for every statement states that meet its hypotheses. -/

namespace Sys2Proof.Tests

set_option Elab.async false

open Machine

/-- The instruction of a LONE bundle with these two words. -/
def lone (w0 k : Nat) : Option Instr :=
  match decodeBundle (w0 + 2 ^ 32 * k) with
  | some ⟨false, .lone i⟩ => some i
  | _ => none

/-! ### Words, bit by bit (Tables 3.1 to 3.5, 18.1, 18.2) -/

theorem test_decode_control :
    lone 0b1_0_000000_0000000_0000000_0000000_000 0x0 = some (.nop) ∧
    lone 0b1_0_000000_0000000_0000000_0000000_001 0x0 = some (.yield) ∧
    lone 0b1_0_000000_0000000_0000000_0000000_010 0x0 = some (.exit) ∧
    lone 0b1_0_000000_0000000_0000000_0000000_011 0x0 = some (.eret) ∧
    lone 0b1_0_000001_0000000_0001001_0101010101 0x0 = some (.trap 9 0x155) ∧
    lone 0b1_0_000010_111111111111111111111110 0x0 = some (.br 0xFFFFFE) ∧
    lone 0b1_0_000011_000000000000000000000011 0x0 = some (.brl 3) ∧
    lone 0b1_0_000100_0000101_0000110_0000000_000 0x0 = some (.jmpl 5 6) ∧
    lone 0b1_0_000101_1_1_0000000000_000000000111 0x64 = some (.lsetupImm 1 (.long 100) 7) ∧
    lone 0b1_0_000101_0_0_0000010001_000000000111 0x0 = some (.lsetupReg 0 17 7) := by decide +kernel

theorem test_decode_memory :
    lone 0b1_0_000110_0000111_0000100_10_1_0000000 0xFFFFFFF8 = some (.ld 7 4 2 1 (.long 0xFFFFFFF8)) ∧
    lone 0b1_0_000111_0000111_0000100_11_0_0000000 0x8 = some (.st 7 4 3 (.long 8)) ∧
    lone 0b1_0_001000_0000111_0000100_01_1_110_0000 0x4 = some (.lda 7 4 1 1 6 (.long 4)) ∧
    lone 0b1_0_001001_0000111_0000100_00_0_001_0000 0x4 = some (.stl 7 4 0 1 (.long 4)) ∧
    lone 0b1_0_001010_0000111_0000100_11_1_010_0001 0x0 = some (.ldfe 7 4 1 2 (.long 0)) ∧
    lone 0b1_0_001011_0000111_0000100_11_0_011_0001 0x0 = some (.ste 7 4 3 (.long 0)) ∧
    lone 0b1_0_001011_0000000_0000100_11_0_011_0010 0x0 = some (.sete 4 3 (.long 0)) ∧
    lone 0b1_0_001100_0000101_0000110_0000111_001 0x0 = some (.amoWSwap 5 6 7) ∧
    lone 0b1_0_001101_0000101_0000110_0000111_101 0x0 = some (.amoDSmax 5 6 7) ∧
    lone 0b1_0_001110_0000101_0000110_0000111_001 0x0 = some (.casD 5 6 7) ∧
    lone 0b1_0_001111_0000101_0000110_0000111_000 0x0 = some (.faggW 5 6 7) ∧
    lone 0b1_0_010000_0000000_0000100_0000000_000 0x0 = some (.fence 4) ∧
    lone 0b1_0_010001_0000001_0000111_0001000_000 0x0 = some (.cmoClean 1 7 8) := by decide +kernel

theorem test_decode_engines :
    lone 0b1_0_010010_0010100_111111_00000_100000 0x0 = some (.cpy 20 63 1) ∧
    lone 0b1_0_010010_0010100_000101_00011_101011 0x0 = some (.cpyp 20 5 1 11) ∧
    lone 0b1_0_010010_0010100_000101_00100_001011 0x0 = some (.cpyr 20 5 0 11) ∧
    lone 0b1_0_010011_0000101_0000110_0000000_001 0x0 = some (.twany 5 6) ∧
    lone 0b1_0_010100_0010_0011_1_0110_01_1_1_00100_00 0x0 = some (.mma 2 3 1 6 1 1 1 4) ∧
    lone 0b1_0_010101_0000000_0000010_0000001_000 0x0 = some (.aclr 2 1) ∧
    lone 0b1_0_010101_0000000_0000000_0000001_001 0x0 = some (.asto 0 1) ∧
    lone 0b1_0_010110_0000101_0000110_0001111_000 0x0 = some (.rdef 5 6 15) ∧
    lone 0b1_0_011010_0000000_0000110_0000000_000 0x0 = some (.put 6) ∧
    lone 0b1_0_011010_0000101_0000110_0001001_110 0x0 = some (.scwait 5 6 9) := by decide +kernel

theorem test_decode_sync :
    lone 0b1_0_010111_0000101_0000110_0000010_010 0x0 = some (.spoke 5 6 2) ∧
    lone 0b1_0_010111_0000000_0000110_0000000_100 0x0 = some (.foulc 6) ∧
    lone 0b1_0_011000_0000101_0000110_0000001_000 0x0 = some (.bar 5 6 1) ∧
    lone 0b1_0_011000_0000101_0000000_0000110_111 0x0 = some (.sound 5 6) ∧
    lone 0b1_0_011001_0000000_0000110_0000111_000 0x0 = some (.send 6 7) ∧
    lone 0b1_0_011001_0000000_0000110_0000000_001 0x0 = some (.go 6) := by decide +kernel

theorem test_decode_units :
    lone 0b1_0_011011_0000101_0000000_0000011_010 0x0 = some (.uestat 5 3) ∧
    lone 0b1_0_011100_0000101_0000110_0000111_000 0x0 = some (.mfalloc 5 6 7) ∧
    lone 0b1_0_011101_0000101_0000110_0000000_011 0x0 = some (.resq 5 6) ∧
    lone 0b1_0_011110_0000101_0000110_0000111_011 0x0 = some (.qtry 5 6 7) ∧
    lone 0b1_0_011111_0000101_0000110_0000000_000 0x0 = some (.gang 5 6) ∧
    lone 0b1_0_100000_0000011_0000110_0000111_000 0x0 = some (.pload 3 6 7) ∧
    lone 0b1_0_100001_11111_0000110_0001_10000000 0x0 = some (.vldStr 31 6 0x80) ∧
    lone 0b1_0_100010_11111_0000110_0000_01111111 0x0 = some (.vst 31 6 0x7F) ∧
    lone 0b1_0_100011_0000101_0000000_00_10001010 0x0 = some (.csrr 5 0x8A) ∧
    lone 0b1_0_100011_0000101_0000110_10_00010100 0x0 = some (.csrx 5 6 0x14) ∧
    lone 0b1_0_100100_0000101_0000110_0000111_001 0x0 = some (.bencho 5 6 7) ∧
    lone 0b1_0_100101_0000000_0000110_0000111_001 0x0 = some (.vre 6 7) := by decide +kernel

theorem test_decode_arithmetic :
    lone 0b1_0_101000_0000101_0000110_0000111_101 0x0 = some (.andn 5 6 7) ∧
    lone 0b1_0_101001_0000101_0000110_0000111_110 0x0 = some (.addw 5 6 7) ∧
    lone 0b1_0_101010_0000101_0000110_0000111_111 0x0 = some (.remu 5 6 7) ∧
    lone 0b1_0_101011_0000101_0000110_0111111_110 0x0 = some (.zext 5 6 63) ∧
    lone 0b1_0_101100_0000101_0000110_0000000000 0x80000000 = some (.addi 5 6 (.long 0x80000000)) ∧
    lone 0b1_0_101101_0000101_0000110_0000000000 0x3 = some (.andi 5 6 (.long 3)) ∧
    lone 0b1_0_101110_0000101_0000110_0000000000 0x3 = some (.ori 5 6 (.long 3)) ∧
    lone 0b1_0_101111_0000101_0000110_0000000000 0x3 = some (.xori 5 6 (.long 3)) ∧
    lone 0b1_0_110000_0000101_0000110_1000111111 0x0 = some (.srai 5 6 63) ∧
    lone 0b1_0_110001_0000101_00000000000000000 0x9 = some (.movi 5 (.long 9)) ∧
    lone 0b1_0_110010_0000101_00000000000000000 0x9 = some (.movhi 5 9) ∧
    lone 0b1_0_110011_10_0010_0000110_0000000_1_000 0xFFFFFFFF = some (.cmp 2 2 6 (.imm (.long 0xFFFFFFFF))) ∧
    lone 0b1_0_110011_00_0111_0000110_0001000_0_001 0x0 = some (.cmpW 0 7 6 (.reg 8)) ∧
    lone 0b1_0_110100_0000101_0000110_0000111_100 0x0 = some (.setcLtu 5 6 7) := by decide +kernel

theorem test_decode_floats :
    lone 0b1_0_110101_0000101_0000110_0000111_011 0x0 = some (.fdivD 5 6 7) ∧
    lone 0b1_0_110110_0000101_0000110_0000111_111 0x0 = some (.fcpsS 5 6 7) ∧
    lone 0b1_0_110111_0000101_0000110_0000111_110 0x0 = some (.fnmaS 5 6 7) ∧
    lone 0b1_0_111000_0000101_0000110_0001101_101 0x0 = some (.fcvt 5 6 13 5) ∧
    lone 0b1_0_111001_0000101_0000110_0000000_010 0x0 = some (.fexp2 5 6) ∧
    lone 0b1_0_111010_01_0100_0000110_0000111_0_001 0x0 = some (.fcmpS 1 4 6 7) := by decide +kernel

theorem test_decode_vectors :
    lone 0b1_0_111011_00001_00010_00011_00100_0011 0x0 = some (.vfma 1 2 3 4) ∧
    lone 0b1_0_111100_00001_00010_00011_00000_1100 0x0 = some (.vsra 1 2 3) ∧
    lone 0b1_0_111101_00001_00010_00011_01011_0011 0x0 = some (.vcmp 1 2 3 11) ∧
    lone 0b1_0_111101_01001_1100100_00000000_0101 0x0 = some (.vbcast 9 100) ∧
    lone 0b1_0_111101_1100100_01001_0000111_0_0110 0x0 = some (.vext 100 9 7) ∧
    lone 0b1_0_111110_0000110_0010100_0001001_000 0x0 = some (.qnt 6 20 9) ∧
    lone 0b1_0_111111_0000011_0000100_0000010_100 0x0 = some (.pcyc 3 4 2) := by decide +kernel
/-- Table 3.2: a pair has LONE = 0 and the A-class body in bits 61:32; VOTE is bit 30. -/
theorem test_decode_pair :
    decodeBundle (0b0_1_000110_0000111_0000100_11_0_0001000 + 2 ^ 32 * 0b00_101000_1110000_1110000_1110000_000) =
      some ⟨true, .pair (.ld 7 4 3 0 (.short 8)) (.add 112 112 112)⟩ := by decide +kernel

/-- Table 18.3 and R49: reserved words are refused: a reserved function, sk = 3, sc = 7, w = 3 with s = 1, a nonzero short field
beside K, an A-class body in W0 of a pair, bits 31:30 of W1 of a pair. -/
theorem test_decode_reserved :
    lone 0b1_0_000000_0000000_0000000_0000000_100 0 = none ∧ lone 0b1_0_110011_11_0000_0000110_0001000_0_000 0 = none ∧
    lone 0b1_0_001000_0000111_0000100_01_1_111_0000 0 = none ∧ lone 0b1_0_000110_0000111_0000100_11_1_0000000 0 = none ∧
    lone 0b1_0_000110_0000111_0000100_11_0_0000001 0 = none ∧ decodeBundle 0b0_0_101000_0000000_0000000_0000000_000 = none ∧
    decodeBundle (2 ^ 32 * 0b01_101000_0000000_0000000_0000000_000) = none := by decide +kernel

/-! ### Ill-formed terms, one for each check of WellFormed -/

theorem test_wf_refuses :
    ([.add 128 0 0, .add 0 128 0, .add 0 0 128, .trap 0 1024, .br 16777216, .lsetupImm 2 (.short 0) 0, .lsetupImm 0 (.short 1024) 0,
      .lsetupImm 0 (.long 4294967296) 0, .lsetupReg 0 0 4096, .ld 0 0 4 0 (.short 0), .ld 0 0 3 1 (.short 0), .ld 0 0 0 2 (.short 0),
      .st 0 0 0 (.short 128), .lda 0 0 0 0 0 (.long 0), .lda 0 0 0 0 7 (.long 0), .lda 0 0 0 0 1 (.short 1), .sete 0 0 (.long 0),
      .fence 0, .fence 7, .cmoZero 3 0 0, .cpy 0 64 0, .cpy 0 0 2, .cpyp 0 0 0 32, .cpyr 0 0 0 16, .mma 16 0 0 0 0 0 0 0, .mma 0 16 0 0 0 0 0 0,
      .mma 0 0 2 0 0 0 0 0, .mma 0 0 0 9 0 0 0 0, .mma 0 0 0 0 3 0 0 0, .mma 0 0 0 7 1 0 0 0, .mma 0 0 0 0 0 2 0 0, .mma 0 0 0 0 0 0 0 1,
      .mma 0 0 0 0 0 0 1 32, .aclr 3 0, .asto 0 2, .rdef 0 0 16, .snew 0 0 0, .snew 0 0 7, .scrd 0 16, .uestat 0 4, .pload 32 0 1, .pload 0 0 0,
      .pload 0 0 8, .vld 32 0 0, .vld 0 128 0, .vld 0 0 256, .csrr 0 256, .sext 0 0 64, .addi 0 0 (.short 1024), .slli 0 0 64, .movi 0 (.short 131072),
      .movhi 0 4294967296, .cmp 3 0 0 (.reg 0), .cmp 0 8 0 (.reg 0), .cmp 0 0 0 (.reg 128), .cmp 0 0 0 (.imm (.short 128)), .fcvt 0 0 14 0,
      .fcvt 0 0 0 6, .fcmpS 0 8 0 0, .vfadd 0 0 32, .vfma 0 0 0 32, .vred 0 0 2, .vperm 0 0 32, .vcmp 0 0 0 16, .vcvt 0 0 8, .pcomp 0 0 32,
      .pcyc 0 0 5, .prand 0 0 8] : List Instr).all (fun i => !i.wf) = true := by decide +kernel

theorem test_bundle_wf_refuses :
    ([⟨false, .lone (.illegalEncoding 0)⟩, ⟨false, .lone (.add 0 0 128)⟩, ⟨false, .lone (.ld 0 0 3 0 (.short 1))⟩, ⟨false, .pair .nop .nop⟩,
      ⟨false, .pair (.add 0 0 0) (.add 0 0 0)⟩, ⟨false, .pair .nop (.movhi 0 1)⟩, ⟨false, .pair .nop (.movi 0 (.long 1))⟩,
      ⟨false, .pair (.lda 0 0 0 0 1 (.long 4)) (.add 0 0 0)⟩] : List Bundle).all (fun b => !b.wf) = true := by decide +kernel

/-! ### A small machine: one etlet, one kernel, one user thread in slot 0 -/

def thr : Thread := { tid := 1, limit := 112, vlimit := 32, svec := 0x8000 }

def lch : Launch :=
  { threads := 1, etlets := 1, clusters := 1, dies := 1, packages := 1, domains := 1, regs := 112, vregs := 32, pregs := 8, pkgs := [0],
    place := [0], live := [0], key := 1 }

def kern : Kernel := { launch := 0, key := 1, pregs := 8 }

/-- The thread with the general registers `g`. -/
def st (g : KMap Word) : State :=
  { pkgs := [(0, { ready := BitVec.allOnes 64, dies := 15, clusters := (List.range 4).map (fun d => (d, BitVec.allOnes 64)) })], launches := [(0, lch)], thr := some { thr with g := g },
    etl := { kernels := [(0, kern)] } }

/-- What a step of an instruction or event leaves. -/
def run1 (i : Instr) (s : State) : State := resState (exec i s) s

/-- Register `n` after the instruction. -/
def reg (i : Instr) (s : State) (n : Nat) : Word := (run1 i s).live n

/-- The first byte of the own scratchpad in the scratchpad window (R78), and its physical address (Table 4.4). -/
def win : Word := 0xFFF000000FFC0000
def spad : Nat := 0x200000000000

/-- The thread waiting for `w`, its d g5. -/
def waits (w : Wait) : State := { st [] with thr := some { thr with st := .waiting w, waitD := 5, res := 9, resAt := 24, flags := 3 }, now := 24 }

/-! ### Results the spec gives or that follow from it by hand -/

/-- R274, R353: carries leave the word; ADDW and SUBW sign-extend 32 bits. -/
theorem test_add : reg (.add 5 6 7) (st [(6, BitVec.allOnes 64), (7, 2)]) 5 = 1 ∧ reg (.addw 5 6 7) (st [(6, 0x7FFFFFFF), (7, 1)]) 5 = 0xFFFFFFFF80000000 ∧
    reg (.sub 5 6 7) (st [(6, 1), (7, 3)]) 5 = 0xFFFFFFFFFFFFFFFE ∧ reg (.subw 5 6 7) (st [(6, 0), (7, 0x80000001)]) 5 = 0x7FFFFFFF := by decide +kernel

theorem test_logic : reg (.and 5 6 7) (st [(6, 12), (7, 10)]) 5 = 8 ∧ reg (.or 5 6 7) (st [(6, 12), (7, 10)]) 5 = 14 ∧
    reg (.xor 5 6 7) (st [(6, 12), (7, 10)]) 5 = 6 ∧ reg (.andn 5 6 7) (st [(6, 12), (7, 10)]) 5 = 4 := by decide +kernel

/-- R346: the count is taken modulo 64; SRA copies the sign; ROTR rotates right. -/
theorem test_shift : reg (.sll 5 6 7) (st [(6, 3), (7, 65)]) 5 = 6 ∧ reg (.srl 5 6 7) (st [(6, 0x8000000000000000), (7, 63)]) 5 = 1 ∧
    reg (.sra 5 6 7) (st [(6, 0x8000000000000000), (7, 63)]) 5 = BitVec.allOnes 64 ∧ reg (.rotr 5 6 7) (st [(6, 1), (7, 1)]) 5 = 0x8000000000000000 ∧
    reg (.slli 5 6 63) (st [(6, 3)]) 5 = 0x8000000000000000 ∧ reg (.srli 5 6 1) (st [(6, 3)]) 5 = 1 ∧ reg (.srai 5 6 1) (st [(6, BitVec.allOnes 64)]) 5 = BitVec.allOnes 64 ∧
    reg (.rotri 5 6 4) (st [(6, 0x1F)]) 5 = 0xF000000000000001 := by decide +kernel

theorem test_minmax : reg (.min 5 6 7) (st [(6, BitVec.allOnes 64), (7, 1)]) 5 = BitVec.allOnes 64 ∧ reg (.max 5 6 7) (st [(6, BitVec.allOnes 64), (7, 1)]) 5 = 1 ∧
    reg (.minu 5 6 7) (st [(6, BitVec.allOnes 64), (7, 1)]) 5 = 1 ∧ reg (.maxu 5 6 7) (st [(6, BitVec.allOnes 64), (7, 1)]) 5 = BitVec.allOnes 64 := by decide +kernel

theorem test_mul : reg (.mul 5 6 7) (st [(6, BitVec.allOnes 64), (7, 3)]) 5 = 0xFFFFFFFFFFFFFFFD ∧ reg (.mulh 5 6 7) (st [(6, BitVec.allOnes 64), (7, 3)]) 5 = BitVec.allOnes 64 ∧
    reg (.mulhu 5 6 7) (st [(6, BitVec.allOnes 64), (7, 3)]) 5 = 2 ∧ reg (.mulw 5 6 7) (st [(6, 0x10001), (7, 0x8000)]) 5 = 0xFFFFFFFF80008000 := by decide +kernel

/-- R297: a divisor of zero gives all ones or the dividend; the most negative number by -1 gives itself and 0. -/
theorem test_div : (run1 (.div 5 6 7) (st [(6, 7), (7, 0)])).th.res = BitVec.allOnes 64 ∧ (run1 (.rem 5 6 7) (st [(6, 7), (7, 0)])).th.res = 7 ∧
    (run1 (.div 5 6 7) (st [(6, 0x8000000000000000), (7, BitVec.allOnes 64)])).th.res = 0x8000000000000000 ∧
    (run1 (.rem 5 6 7) (st [(6, 0xFFFFFFFFFFFFFFF9), (7, 2)])).th.res = BitVec.allOnes 64 ∧
    (run1 (.divu 5 6 7) (st [(6, BitVec.allOnes 64), (7, 2)])).th.res = 0x7FFFFFFFFFFFFFFF ∧ (run1 (.remu 5 6 7) (st [(6, 7), (7, 4)])).th.res = 3 := by decide +kernel

/-- R286, R337, R351, R385: CLZ and CTZ of 0 give 64; ZEXT of 0xFF80 from bit 7 gives 0x80. -/
theorem test_bits : reg (.clz 5 6) (st []) 5 = 64 ∧ reg (.ctz 5 6) (st []) 5 = 64 ∧ reg (.clz 5 6) (st [(6, 1)]) 5 = 63 ∧ reg (.ctz 5 6) (st [(6, 0x50)]) 5 = 4 ∧
    reg (.popc 5 6) (st [(6, 0xFF00FF)]) 5 = 16 ∧ reg (.brev 5 6) (st [(6, 3)]) 5 = 0xC000000000000000 ∧ reg (.bswap 5 6) (st [(6, 0x0102)]) 5 = 0x0201000000000000 ∧
    reg (.zext 5 6 7) (st [(6, 0xFF80)]) 5 = 0x80 ∧ reg (.sext 5 6 7) (st [(6, 0x80)]) 5 = 0xFFFFFFFFFFFFFF80 := by decide +kernel

theorem test_immediates : reg (.addi 5 6 (.short 0x3FF)) (st [(6, 5)]) 5 = 4 ∧ reg (.andi 5 6 (.short 0x200)) (st [(6, BitVec.allOnes 64)]) 5 = 0xFFFFFFFFFFFFFE00 ∧
    reg (.ori 5 6 (.long 0x80000000)) (st []) 5 = 0x80000000 ∧ reg (.xori 5 6 (.short 0x3FF)) (st [(6, 0x400)]) 5 = 0x7FF ∧
    reg (.movi 5 (.long 0x80000000)) (st []) 5 = 0xFFFFFFFF80000000 ∧ reg (.movi 5 (.short 0x1FFFF)) (st []) 5 = BitVec.allOnes 64 ∧
    reg (.movhi 5 0x12345678) (st [(5, 0xFFFFFFFF00000001)]) 5 = 0x1234567800000001 := by decide +kernel

theorem test_setc : reg (.setcEq 5 6 7) (st [(6, 1), (7, 1)]) 5 = 1 ∧ reg (.setcNe 5 6 7) (st [(6, 1), (7, 1)]) 5 = 0 ∧ reg (.setcLt 5 6 7) (st [(6, BitVec.allOnes 64)]) 5 = 1 ∧
    reg (.setcGe 5 6 7) (st [(6, BitVec.allOnes 64)]) 5 = 0 ∧ reg (.setcLtu 5 6 7) (st [(6, BitVec.allOnes 64)]) 5 = 0 ∧ reg (.setcGeu 5 6 7) (st []) 5 = 1 ∧
    reg (.setcBs 5 6 7) (st [(6, 4), (7, 6)]) 5 = 1 ∧ reg (.setcBc 5 6 7) (st [(6, 4), (7, 2)]) 5 = 1 := by decide +kernel

/-- R291: a false compare annuls sk + 1 bundles. -/
theorem test_cmp : (run1 (.cmp 2 0 6 (.reg 7)) (st [(6, 1)])).th.skip = 3 ∧ (run1 (.cmp 2 0 6 (.imm (.short 0x7F))) (st [(6, BitVec.allOnes 64)])).th.skip = 0 ∧
    (run1 (.cmpW 0 2 6 (.reg 7)) (st [(6, 0x80000000)])).th.skip = 0 ∧ (run1 (.fcmpD 0 2 6 7) (st [(6, 0x7FF0000000000001)])).th.skip = 1 ∧
    (run1 (.fcmpS 0 0 6 7) (st [(6, 0x80000000)])).th.skip = 0 := by decide +kernel

/-- Floating point: 1 + 1 = 2, 1 - 1 = +0, 1.5 * 2 = 3, the smaller and larger of -1 and 1, a copied sign. -/
theorem test_float : reg (.faddD 5 6 7) (st [(6, 0x3FF0000000000000), (7, 0x3FF0000000000000)]) 5 = 0x4000000000000000 ∧
    reg (.fsubD 5 6 7) (st [(6, 0x3FF0000000000000), (7, 0x3FF0000000000000)]) 5 = 0 ∧ reg (.fmulD 5 6 7) (st [(6, 0x3FF8000000000000), (7, 0x4000000000000000)]) 5 = 0x4008000000000000 ∧
    reg (.fminS 5 6 7) (st [(6, 0xBF800000), (7, 0x3F800000)]) 5 = 0xBF800000 ∧ reg (.fmaxS 5 6 7) (st [(6, 0xBF800000), (7, 0x3F800000)]) 5 = 0x3F800000 ∧
    reg (.fcpsD 5 6 7) (st [(6, 0x3FF0000000000000), (7, 0x8000000000000000)]) 5 = 0xBFF0000000000000 ∧
    reg (.faddS 5 6 7) (st [(6, 0x3F800000), (7, 0x3F800000)]) 5 = 0x40000000 ∧ reg (.fsubS 5 6 7) (st [(6, 0x3F800000), (7, 0x40000000)]) 5 = 0xBF800000 ∧
    reg (.fmulS 5 6 7) (st [(6, 0x3FC00000), (7, 0x40000000)]) 5 = 0x40400000 ∧ reg (.fminD 5 6 7) (st [(6, 0x8000000000000000), (7, 0)]) 5 = 0x8000000000000000 ∧
    reg (.fmaxD 5 6 7) (st [(6, 0x8000000000000000), (7, 0)]) 5 = 0 ∧ reg (.fcpsS 5 6 7) (st [(6, 0xBF800000), (7, 0)]) 5 = 0x3F800000 := by decide +kernel

/-- 1 / 3 rounds to nearest; the square root of 2 is inexact; 2 * 3 + 1, 2 * 3 - 1 and -(2 * 3) + 1 in d. -/
theorem test_float_long : (run1 (.fdivD 5 6 7) (st [(6, 0x3FF0000000000000), (7, 0x4008000000000000)])).th.res = 0x3FD5555555555555 ∧
    (run1 (.fdivS 5 6 7) (st [(6, 0x3F800000), (7, 0)])).th.res = 0x7F800000 ∧ (run1 (.fdivS 5 6 7) (st [(6, 0x3F800000), (7, 0)])).th.flags = 8 ∧
    (run1 (.fsqrtD 5 6) (st [(6, 0x4000000000000000)])).th.res = 0x3FF6A09E667F3BCD ∧ (run1 (.fsqrtS 5 6) (st [(6, 0x40800000)])).th.res = 0x40000000 ∧
    reg (.fmaS 5 6 7) (st [(6, 0x40000000), (7, 0x40400000), (5, 0x3F800000)]) 5 = 0x40E00000 ∧
    reg (.fmsS 5 6 7) (st [(6, 0x40000000), (7, 0x40400000), (5, 0x3F800000)]) 5 = 0x40A00000 ∧
    reg (.fnmaS 5 6 7) (st [(6, 0x40000000), (7, 0x40400000), (5, 0x3F800000)]) 5 = 0xC0A00000 ∧
    reg (.fmaD 5 6 7) (st [(6, 0x4000000000000000), (7, 0x4008000000000000), (5, 0x3FF0000000000000)]) 5 = 0x401C000000000000 := by decide +kernel

/-- A reciprocal of 4, the inverse root of 4, 2^3, log2 of 8, the class of -0; FP32 1.5 to a signed 32-bit integer. -/
theorem test_float_unary : reg (.frcp 5 6) (st [(6, 0x40800000)]) 5 = 0x3E800000 ∧ reg (.frsq 5 6) (st [(6, 0x40800000)]) 5 = 0x3F000000 ∧
    reg (.fexp2 5 6) (st [(6, 0x40400000)]) 5 = 0x41000000 ∧ reg (.flog2 5 6) (st [(6, 0x41000000)]) 5 = 0x40400000 := by decide +kernel
/-! ### Witnesses: encoding, step, reset, registers, traps, control -/

theorem witness_DecodeEncode : (⟨true, .pair (.br 0xFFFFFF) (.vcmp 31 31 31 15)⟩ : Bundle).wf = true ∧ (⟨false, .lone (.lda 127 127 3 1 6 (.long 0xFFFFFFFF))⟩ : Bundle).wf = true := by
  decide +kernel

/-- The state of `withFetchWord`, with `ADD g5, g6, g7` at its pc, meets the hypotheses of StepRunsDecoded. -/
def fetched : State := (st [(6, 1), (7, 2)]).withFetchWord 64 0xA80A1838

theorem witness_StepRunsDecoded :
    let s := fetched
    let r := s.enter 2
    let u : State := { r.issued with trap := none }
    s.agenda = [] ∧ r.pick = some r.slot ∧ r.th.deferred = none ∧ r.th.skip = 0 ∧ r.th.events = [] ∧ r.th.gangN = 0 ∧
    r.th.handler ≠ 1 ∧ u.th.st = .ready ∧ r.th.partner = none ∧ u.fetch = .ok 0 false ∧
    decodeBundle (u.bundleWord 0) = some ⟨false, .lone (.add 5 6 7)⟩ ∧
    (run1 (.add 5 6 7) { (u.fetched 0).clean with trap := none, bundle := u.bundleWord 0, bpc := r.th.pc }).th.partner = none ∧
    (resState (step s) s).live 5 = 3 ∧ (resState (step s) s).th.pc = 8 ∧ r.etl.detect = false := by decide +kernel

/-- The same in detect-only mode meets those of its second clause. -/
def fetchedDetect : State := let s := fetched; { s with etl := { s.etl with detect := true } }

theorem witness_StepRunsDecoded_detect :
    let s := fetchedDetect
    let r := s.enter 2
    let u : State := { r.issued with trap := none }
    s.agenda = [] ∧ r.pick = some r.slot ∧ r.th.deferred = none ∧ r.th.skip = 0 ∧ r.th.events = [] ∧ r.th.gangN = 0 ∧ r.th.handler ≠ 1 ∧ u.th.st = .ready ∧
    r.th.partner = none ∧ u.fetch = .ok 0 false ∧ decodeBundle (u.bundleWord 0) = some ⟨false, .lone (.add 5 6 7)⟩ ∧ r.etl.detect = true ∧
    (run (.add 5 6 7) s).trap = none ∧ (run (.add 5 6 7) s).th.partner = none ∧ (Instr.add 5 6 7).fields.any Fld.fileRead = true ∧
    r.handoff = false ∧ r.thr.isSome = true ∧ r.th.status.getLsbD 4 = false := by decide +kernel

def unfetched : State := (st []).withFetchWord 64 0x80000004

theorem witness_StepIllegal :
    let s := unfetched
    let r := s.enter 2
    let u : State := { r.issued with trap := none }
    s.agenda = [] ∧ r.pick = some r.slot ∧ r.th.deferred = none ∧ r.th.skip = 0 ∧ r.th.events = [] ∧ r.th.gangN = 0 ∧
    r.handoff = false ∧ r.thr.isSome = true ∧ r.th.status.getLsbD 4 = false ∧ u.th.st = .ready ∧ r.th.partner = none ∧
    u.fetch = .ok 0 false ∧ decodeBundle (u.bundleWord 0) = none ∧
    (resState (step s) s).th.eval = 0x80000004 ∧ (resState (step s) s).th.pc = 0x8000 := by decide +kernel

theorem witness_StepKeepsMemOk : MemOk fetched ∧ MemOk (resState (step fetched) fetched) ∧ fetched.mem ≠ [] := by decide +kernel

/-- R5: the least significant byte lies lowest, in a scratchpad, which is not encrypted. -/
theorem witness_LittleEndian : MemOk (st []) ∧ (∀ i < 8, encrypted (spad + i) = false) ∧ ((st []).wrMem 0 spad 8 0x0102030405060708).rdMem 0 spad 8 = 0x0102030405060708 ∧
    ((st []).wrMem 0 spad 8 0x0102030405060708).byte 0 spad = 8 := by decide +kernel

theorem witness_RegisterFile : (st []).thr.isSome = true ∧ (st []).ph = 0 ∧ (st []).th.kill = none ∧ (st []).latch = none ∧
    ((st []).wr 111 7).rd 111 = 7 ∧ ((st []).wr 114 7).rd 114 = 7 ∧ ((st []).wr 117 7).rd 117 = 7 ∧ (st []).wr 112 7 = st [] ∧ (st []).wr 119 7 = st [] := by decide +kernel

/-- A common register with an older write, read 7 and 8 cycles after the next one. -/
def common : State := { st [] with now := 100, etl := { kernels := [(0, { kern with cm := [(3, [(50, 1), (90, 2)])] })] } }

theorem witness_CommonRegisters : common.thr.isSome = true ∧ common.ph = 0 ∧ common.th.kill = none ∧ common.latch = none ∧
    (kgetD common.kern.cm 3 []).Pairwise (fun p q => p.1 < q.1) ∧ (∀ p ∈ kgetD common.kern.cm 3 [], p.1 < common.now) ∧
    ({ common.wr 127 3 with now := 107 } : State).rd 127 = 2 ∧ ({ common.wr 127 3 with now := 108 } : State).rd 127 = 3 := by decide +kernel

theorem witness_IssueChecks :
    (Instr.eret.privileged = true ∧ (st []).user = true ∧ (st []).ph = 0 ∧ (run1 .eret { st [] with bundle := 0x80000003 }).th.ecause = 2 ∧
      (run1 .eret { st [] with bundle := 0x80000003 }).th.eval = 0x80000003) ∧
    ((Instr.aclr 0 1).matrix = true ∧ ({ st [] with eid := 1 } : State).gateway = true ∧ (st []).dlogFull = false ∧ (run1 (.aclr 0 1) { st [] with eid := 1 }).th.ecause = 1) ∧
    (Rules.intResult (.add 111 6 7) (st []).rd = some (111, 0) ∧ ({ st [] with thr := some { thr with limit := 111 } } : State).th.limit ≤ 111 ∧
      (run1 (.add 111 6 7) { st [] with thr := some { thr with limit := 111 } }).th.ecause = 0x13) ∧
    (Rules.intResult (.add 113 6 7) (st []).rd = some (113, 0) ∧ (run1 (.add 113 6 7) (st [])).th.ecause = 0x10001 ∧ (run1 (.add 119 6 7) (st [])).th.eval = 119) := by
  decide +kernel

theorem witness_TrapEntry : (st []).thr.isSome = true ∧ (st []).handoff = false ∧ (st []).th.status.getLsbD 4 = false ∧ (st []).th.gangN = 0 ∧
    (takeTrap { code := 0x0A, eval := 5, info := 3 } (st [])).th.ecause = 0x3000A ∧ (takeTrap { code := 0x0A } (st [])).th.status = 0x11 := by decide +kernel

/-- A supervisor thread with both loops active. -/
def sup (g : KMap Word) : State := { st g with thr := some { thr with g := g, status := 0x17, estatus := 0x06, epc := 0x100, lc0 := 2, lc1 := 1, le0 := 0, ls0 := 0x40, le1 := 0, ls1 := 0x80 } }

theorem witness_EretReturns : Issues .eret (sup []) ∧ (sup []).thr.isSome = true ∧ (run1 .eret (sup [])).th.pc = 0x100 ∧ (run1 .eret (sup [])).th.status = 6 := by decide +kernel

/-- Each clause of the end test at its boundary: loop 1 round and ended, loop 0 round and ended, neither. -/
theorem witness_LoopEndTest :
    (endTest { (sup []).th with lc1 := 2 }).pc = 0x80 ∧ (endTest { (sup []).th with lc1 := 2 }).lc1 = 1 ∧ (endTest (sup []).th).la 1 = false ∧ (endTest (sup []).th).pc = 0x40 ∧
    (endTest (sup []).th).lc0 = 1 ∧ (endTest { (sup []).th with lc0 := 1 }).pc = 8 ∧ (endTest { (sup []).th with lc0 := 1 }).la 0 = false ∧
    (let s := st [(7, 3)]
     Issues .nop s ∧ Issues (.br 1) s ∧ Issues (.brl 1) s ∧ Issues (.jmpl 112 6) s ∧ (s.rd 6).toNat % 8 = 0 ∧ Issues (.lsetupReg 1 6 2) s ∧ s.rd 6 = 0 ∧ s.rd 112 = 0 ∧ Issues (.lsetupImm 1 (.short 0) 2) s ∧
       loopClash s.th 1 8 24 = false ∧ (run1 (.lsetupImm 1 (.short 0) 2) s).th.pc = 32 ∧ Issues (.lsetupReg 0 7 2) s ∧ s.rd 7 ≠ 0 ∧ Issues .eret { s with thr := some { thr with status := 1 } }) ∧
    (endTest { (sup []).th with le0 := 8, le1 := 8 }).pc = 8 ∧ (endTest { (sup []).th with lc0 := 1 }).lc0 = 1 := by decide +kernel

theorem witness_Branches : Issues (.jmpl 5 6) (st [(6, 9)]) ∧ (run1 (.jmpl 5 6) (st [(6, 9)])).th.ecause = 3 ∧ Issues (.br 0xFFFFFF) (sup []) ∧
    (run1 (.br 0xFFFFFF) (sup [])).th.pc = 0xFFFFFFFFFFFFFFF8 ∧ Issues (.brl 2) (sup []) ∧ (run1 (.brl 2) (sup [])).th.pc = 16 ∧ (run1 (.brl 2) (sup [])).live 1 = 8 ∧
    Issues (.jmpl 6 6) (st [(6, 0x40)]) ∧ (run1 (.jmpl 6 6) (st [(6, 0x40)])).th.pc = 0x40 ∧ reg (.jmpl 6 6) (st [(6, 0x40)]) 6 = 8 := by decide +kernel

theorem witness_LoopSetup :
    (loopClash (sup []).th 0 8 16 = true ∧ Issues (.lsetupImm 0 (.long 0xFFFFFFFF) 1) (sup []) ∧ (run1 (.lsetupImm 0 (.long 0xFFFFFFFF) 1) { sup [] with thr := some { (sup []).th with status := 3 } }).th.ecause = 0x12) ∧
    (loopClash (st []).th 1 8 16 = false ∧ Issues (.lsetupImm 1 (.short 0) 1) (st []) ∧ (run1 (.lsetupImm 1 (.short 0) 1) (st [])).th.pc = 24) ∧
    (Issues (.lsetupReg 1 6 1) (st [(6, 3)]) ∧ (run1 (.lsetupReg 1 6 1) (st [(6, 3)])).th.pc = 8 ∧ (run1 (.lsetupReg 1 6 1) (st [(6, 3)])).th.lc1 = 3 ∧
      (run1 (.lsetupReg 1 6 1) (st [(6, 3)])).th.le1 = 16) := by decide +kernel

theorem witness_SimpleControl : (st []).thr.isSome = true ∧ Issues .nop (st []) ∧ Issues .yield (st []) ∧ (run1 .yield (st [])).th.yieldAt.isSome = true ∧ Issues .exit (st []) ∧
    (run1 .exit (st [])).th.st = .waiting .exitDrain ∧ Issues .disband (st []) ∧ Issues (.fence 3) (st []) ∧ Issues (.fenceSs 1) (st []) ∧ Issues (.fenceLa 3) (st []) ∧
    (st []).storesOut 1 (fun e => (st []).onDie e.gpa) = false ∧ Issues (.trap 6 0x155) (st [(6, 9)]) ∧ (run1 (.trap 6 0x155) (st [(6, 9)])).th.epc = 8 ∧
    (run1 (.trap 6 0x155) (st [(6, 9)])).th.ecause = 0x155000A ∧ (run1 (.trap 6 0x155) (st [(6, 9)])).th.eval = 9 ∧ (st []).handoff = false ∧ (st []).th.gangN = 0 := by decide +kernel

/-! ### Witnesses: arithmetic -/

theorem witness_IntegerResults : Rules.intResult (.add 5 6 7) (st [(6, 1)]).rd = some (5, 1) ∧ Issues (.add 5 6 7) (st [(6, 1)]) ∧ (Instr.add 5 6 7).wf = true ∧
    (Rules.bitResult (.popc 112 6) (st [(6, 7)]).rd = some (112, 3) ∧ Issues (.popc 112 6) (st [(6, 7)]) ∧ (run1 (.popc 112 6) (st [(6, 7)])).th.pc = 8 ∧
      (run1 (.popc 112 6) (st [(6, 7)])).th.g = [(6, 7)]) := by decide +kernel

theorem witness_LongLatencyStarts : Rules.divResult (.div 5 6 7) (st [(6, 7), (7, 2)]).rd = some (5, 3) ∧ Issues (.div 5 6 7) (st [(6, 7), (7, 2)]) ∧
    Rules.fpLongResult (.fsqrtS 5 6) (st [(6, 0x40800000)]).rd 0 = some (5, 0x40000000, 0) ∧ Issues (.fsqrtS 5 6) (st [(6, 0x40800000)]) ∧
    (run1 (.fsqrtS 5 6) (st [(6, 0x40800000)])).th.resAt = 24 ∧ (run1 (.fsqrtS 5 6) (st [(6, 0x40800000)])).th.pc = 8 := by decide +kernel

theorem witness_LongLatencyWriteback : (waits .alu).thr.isSome = true ∧ (waits .alu).th.st = .waiting .alu ∧ (waits .alu).th.kill = none ∧
    ({ waits .alu with now := 23 } : State).now < (waits .alu).th.resAt ∧ (waits .alu).th.resAt ≤ (waits .alu).now ∧
    reg (.longLatencyWriteback 0 0) (waits .alu) 5 = 9 ∧ (run1 (.longLatencyWriteback 0 0) (waits .alu)).th.fcsr = 3 ∧
    run1 (.longLatencyWriteback 0 0) { waits .alu with now := 23 } = { waits .alu with now := 23 } := by decide +kernel

theorem witness_Compares :
    (fetched.thr.isSome = true ∧ ({ fetched with thr := some { fetched.th with skip := 2 } } : State).th.skip = 2 ∧ fetched.fetch = .ok 0 false ∧
      (passSkip 2 { fetched with thr := some { fetched.th with skip := 2 } }).th.pc = 16) ∧
    ((st [(6, 1)]).thr.isSome = true ∧ Issues (.cmp 2 0 6 (.reg 7)) (st [(6, 1)]) ∧ Rules.compare (.cmp 2 0 6 (.reg 7)) (st [(6, 1)]).rd (st [(6, 1)]).cmpRhs = some (3, false)) ∧
    (Issues (.fcmpD 0 2 6 7) (st []) ∧ fpCmp fp64 2 0 0 = (false, 0) ∧ Issues (.fcmpS 0 3 6 7) (st []) ∧ fpCmp fp32 3 0 0 = (true, 0) ∧
      (run1 (.fcmpS 0 3 6 7) (st [])).th.skip = 0) := by decide +kernel

theorem witness_FloatResults : Rules.fpResult (.fdivS 5 6 7) (st []).rd 0 = none ∧ Rules.fpResult (.faddS 5 6 7) (st [(6, 0x3F800000), (7, 0x33800000)]).rd 0 = some (5, 0x3F800000, 1) ∧
    Issues (.faddS 5 6 7) (st [(6, 0x3F800000), (7, 0x33800000)]) ∧ (run1 (.faddS 5 6 7) (st [(6, 0x3F800000), (7, 0x33800000)])).th.fcsr = 1 ∧
    (run1 (.fcvt 5 6 0 5) (st [(6, 0x3F800000)])).th.pc = 8 := by decide +kernel

theorem witness_NanOperands : (Val.of fp32 0x7F800001).isNan = true ∧ (Val.of fp32 0x7F800001).isSig = true ∧ fpAdd fp32 0 0x7F800001 0 = (fp32.nan, 16) ∧
    fpMul fp64 0 0x7FF8000000000000 0 = (fp64.nan, 0) := by decide +kernel

/-- 2^24 + 1 lies between two FP32 numbers: towards zero gives 2^24, and to nearest the even one. -/
theorem witness_RoundTowardsZero : fp32 ∈ [fp64, fp32, fp16, bf16, af48, e5m2] ∧ fp32.round 1 false false 16777217 0 false = (0x4B800000, 1) ∧
    fp32.round 1 false false 16777216 0 false = (0x4B800000, 0) := by decide +kernel

theorem witness_RoundToNearest : fp32 ∈ [fp64, fp32, fp16, bf16, af48, e5m2] ∧ (fp32.round 0 false false 16777217 0 false).1 = 0x4B800000 ∧
    (fp32.round 0 false false 16777219 0 false).1 = 0x4B800002 ∧ 0x4B800000 ≤ fp32.max := by decide +kernel

theorem witness_RegisterFrame : (Instr.add 5 6 7).wf = true ∧ Rules.intResult (.add 5 6 7) (st [(6, 1)]).rd = some (5, 1) ∧ Issues (.add 5 6 7) (st [(6, 1)]) ∧
    (st [(6, 1)]).thr.isSome = true ∧ reg (.add 5 6 7) (st [(6, 1)]) 6 = 1 := by decide +kernel

/-! ### Witnesses: scalar memory -/

/-- An HBM page, its translation in the etlet's cache: virtual page 1 is at physical page 1, user readable and writable, cached. -/
def hbm (g : KMap Word) : State := { st g with etl := { kernels := [(0, kern)], tcache := [⟨1, 3, 0x1007F, 1⟩] } }

theorem witness_AccessTraps :
    (Rules.access (.ld 5 6 3 0 (.short 0)) (hbm [(6, 0x10001)]).rd = some (0x10001, 8, .rd) ∧ Issues (.ld 5 6 3 0 (.short 0)) (hbm [(6, 0x10001)]) ∧
      (run1 (.ld 5 6 3 0 (.short 0)) (hbm [(6, 0x10001)])).th.ecause = 3) ∧
    (Rules.access (.casW 5 6 7) (st [(6, 0x0080000000000000)]).rd = some (0x0080000000000000, 4, .rw) ∧ (st []).xlate true .rw 0x0080000000000000 = .bad 4 ∧
      Issues (.casW 5 6 7) (st [(6, 0x0080000000000000)]) ∧ (run1 (.casW 5 6 7) (st [(6, 0x0080000000000000)])).th.ecause = 4) ∧
    ((st [(6, 0x10000)]).xlate (st []).user .wr 0x10000 = .miss ∧ Issues (.st 5 6 3 (.short 0)) (st [(6, 0x10000)]) ∧
      (run1 (.st 5 6 3 (.short 0)) (st [(6, 0x10000)])).th.st = .waiting (.walk 0x10000)) ∧
    (({ hbm [(6, 0x10000)] with slot := 62 } : State).handoff = true ∧ (hbm []).xlate true .rd 0x10000 = .ok 0x10000 true ∧ inScratch 0 0x10000 = false ∧
      Issues (.ld 5 6 3 0 (.short 0)) { hbm [(6, 0x10000)] with slot := 62 }) ∧
    (let s : State := { st [(6, win)] with etl := { kernels := [(0, kern)], rings := [(0, { kid := 0, base := 0, lines := 16, k := 32, fmt := 6, sp := 0, tiles := 2, q := [{ slot := 0 }] })] } }
     Issues (.st 5 6 0 (.short 0)) s ∧ Reaches s .wr 1 win spad false ∧ inScratch 0 spad = true ∧ s.hazardAt spad 1 = true ∧ (run1 (.st 5 6 0 (.short 0)) s).th.ecause = 8) := by
  decide +kernel

/-- A scratchpad word 0x88776655_44332211 behind g6. -/
def spd (g : KMap Word) : State := (st ((6, win) :: g)).wrMem 0 spad 8 0x8877665544332211

theorem witness_LoadsAtOnce :
    ((spd []).otherSlotMatch (spad + 7) 1 = false ∧ (spd []).loadNow (spad + 7) 1 false = some 0x88 ∧ Issues (.ld 5 6 0 1 (.short 7)) (spd []) ∧
      Reaches (spd []) .rd 1 ((spd []).rd 6 + (Imm.short 7).offM 1) (spad + 7) false ∧ reg (.ld 5 6 0 1 (.short 7)) (spd []) 5 = 0xFFFFFFFFFFFFFF88) ∧
    (Issues (.lda 5 6 1 0 3 (.long 2)) (spd []) ∧ Reaches (spd []) .rd 2 ((spd []).rd 6 + (Imm.long 2).offMS) (spad + 2) false ∧ (spd []).storesOut (spd []).th.tid (stlOut 3) = false ∧
      reg (.lda 5 6 1 0 3 (.long 2)) (spd []) 5 = 0x4433) ∧
    ((spd []).kern.ckpt.held = [] ∧ inScratch (spd []).eid spad = true ∧ (spd []).failing spad = false ∧ (∀ e ∈ (spd []).etl.buf, e.tid ≠ (spd []).th.tid) ∧ (spd []).etl.drainq = [] ∧ (spd []).holds = false ∧
      (pushStore spad 4 0xAABBCCDD win 0 false (spd [])).loadNow spad 4 false = some 0xAABBCCDD) := by decide +kernel

theorem witness_Requests :
    (Issues (.ld 5 6 2 1 (.short 0)) (hbm [(6, 0x10000)]) ∧ Rules.access (.ld 5 6 2 1 (.short 0)) (hbm [(6, 0x10000)]).rd = some (0x10000, 4, .rd) ∧
      Rules.fullEmpty (.ld 5 6 2 1 (.short 0)) (hbm [(6, 0x10000)]).rd false = none ∧
      Reaches (hbm [(6, 0x10000)]) .rd 4 0x10000 0x10000 true ∧ (hbm []).otherSlotMatch 0x10000 4 = false ∧ (hbm []).loadNow 0x10000 4 true = none ∧ regionOf 0x10000 ≠ 2 ∧
      (run1 (.ld 5 6 2 1 (.short 0)) (hbm [(6, 0x10000)])).th.st = .waiting .mem) ∧
    (Issues (.lda 5 6 3 0 3 (.long 0)) (hbm [(6, 0x10000)]) ∧ (hbm []).storesOut (hbm []).th.tid (stlOut 3) = false ∧
      (run1 (.lda 5 6 3 0 3 (.long 0)) (hbm [(6, 0x10000)])).th.st = .waiting .mem) ∧
    (Issues (.amoDAdd 5 6 7) (hbm [(6, 0x10000)]) ∧ Rules.atomic (.amoDAdd 5 6 7) (hbm [(6, 0x10000)]).rd 0 = some (5, 6, 8, 0) ∧ inScratch 0 0x10000 = false ∧
      (hbm []).hazardAt 0x10000 8 = false ∧ Settled (hbm []) ∧ (hbm []).th.pend = [] ∧ (run1 (.amoDAdd 5 6 7) (hbm [(6, 0x10000)])).th.st = .waiting .mem) ∧
    (Issues (.ldfe 5 6 0 1 (.long 0)) (hbm [(6, 0x10000)]) ∧ (Rules.fullEmpty (.ldfe 5 6 0 1 (.long 0)) (hbm [(6, 0x10000)]).rd false).isSome = true ∧
      (hbm []).primary 0x10000 = 0x10000 ∧ hasFe 0x10000 = true ∧ (run1 (.ldfe 5 6 0 1 (.long 0)) (hbm [(6, 0x10000)])).th.st = .waiting .mem) := by decide +kernel

/-- The scratchpad of an etlet of another cluster, through an address of its window: the launch's second etlet. -/
def far (g : KMap Word) : State := { hbm g with launches := [(0, { lch with etlets := 2, place := [0, 1], live := [0, 1] })] }
def farWin : Word := 0xFFF0000000040000

theorem witness_Requests_scratch : (far []).xlate true .rw farWin = .ok (scratch 8) false ∧ regionOf (scratch 8) = 2 ∧ inScratch 0 (scratch 8) = false ∧
    scratchOwner (scratch 8) = 8 ∧ Issues (.stf 7 6 1 (.long 0)) (far [(6, farWin)]) ∧ (Rules.fullEmpty (.stf 7 6 1 (.long 0)) (far [(6, farWin)]).rd false).isSome = true ∧
    (far []).vc0Stalls 8 = false ∧ (run1 (.stf 7 6 1 (.long 0)) (far [(6, farWin)])).th.st = .waiting .mem ∧
    (let s : State := (far [(6, farWin)]).modEt 8 (fun e => { e with inbox := List.replicate 4104 { launch := 0, sender := 0, words := [] } })
     s.vc0Stalls 8 = true ∧ Issues (.amoDAdd 5 6 7) s ∧ (run1 (.amoDAdd 5 6 7) s).th.st = .waiting .stall) := by decide +kernel

/-- A load of one byte, sign-extended, that waits for the reply `r`. -/
def loadAt (gpa : Nat) (r : Option Reply) : State := { waits .mem with
  etl := { kernels := [(0, kern)], reqs := [(0, { seq := 0, slot := 0, tid := 1, op := .load 1 true, gpa := gpa, va := 0x10000, key := 1, scope := 0, ca := true, sent := 0, reply := r })] } }
def replied (r : Reply) : State := loadAt 0x10000 (some r)

theorem witness_Replies :
    ((replied (.val 0x80)).thr.isSome = true ∧ (replied (.val 0x80)).th.st = .waiting .mem ∧ (replied (.val 0x80)).th.kill = none ∧ (replied (.val 0x80)).th.deferred = none ∧
      Quiet (replied (.val 0x80)) ∧ (usePort 2 (homeEid 0x10000) 0 (replied (.val 0x80))).isSome = true ∧
      (kget (replied (.val 0x80)).etl.reqs 0).isSome = true ∧ reg (.memoryReply 0 0) (replied (.val 0x80)) 5 = 0x80 ∧ (run1 (.memoryReply 0 0) (replied (.val 0x80))).th.pc = 8) ∧
    ((replied .abort).handoff = false ∧ (replied .abort).th.status.getLsbD 4 = false ∧ (replied .abort).th.gangN = 0 ∧ (run1 (.memoryReply 0 0) (replied .abort)).th.ecause = 6 ∧
      (run1 (.memoryReply 0 0) (replied .lost)).th.ecause = 0xD ∧ (run1 (.memoryReply 0 0) (replied .hazard)).th.eval = 0x10000) := by decide +kernel

theorem witness_Replies_home : let s := (loadAt 0x10000 none).wrMem 1 0x10000 1 0x80
    s.th.st = .waiting .mem ∧ Quiet s ∧ onPkg 0 0x10000 = true ∧ s.homeTested 0x10000 = false ∧ (kget s.etl.reqs 0).map (s.requestHeld 0) = some false ∧ s.abortsR 0x10000 = false ∧
    reg (.memoryReply 0 0) s 5 = 0xFFFFFFFFFFFFFF80 := by decide +kernel

theorem witness_StoresBuffered :
    (Issues (.st 5 6 3 (.short 1)) (spd [(5, 7)]) ∧ Reaches (spd [(5, 7)]) .wr 8 (win + 8) (spad + 8) false ∧ regionOf (spad + 8) = 2 ∧ inScratch 0 (spad + 8) = true ∧
      (spd [(5, 7)]).hazardAt (spad + 8) 8 = false ∧ (spd [(5, 7)]).sbufFull 1 = false ∧ (spd [(5, 7)]).holds = false ∧
      (run1 (.st 5 6 3 (.short 1)) (spd [(5, 7)])).etl.sbuf.map (fun e => (e.gpa, e.width, e.data)) = [(spad + 8, 8, 7)]) ∧
    (Issues (.stl 5 6 0 4 (.long 1)) (hbm [(6, 0x10000)]) ∧ Reaches (hbm [(6, 0x10000)]) .wr 1 0x10001 0x10001 true ∧ Settled (hbm []) ∧ regionOf 0x10001 ≠ 2 ∧ (hbm []).sbufFull 1 = false ∧ (hbm []).holds = false ∧
      (run1 (.stl 5 6 0 4 (.long 1)) (hbm [(6, 0x10000)])).etl.sbuf.length = 1) ∧
    (Issues (.sete 6 4 (.long 8)) (hbm [(6, 0x10000)]) ∧ Rules.access (.sete 6 4 (.long 8)) (hbm [(6, 0x10000)]).rd = some (0x10008, 8, .wr) ∧
      (Rules.fullEmpty (.sete 6 4 (.long 8)) (hbm [(6, 0x10000)]).rd false).isSome = true ∧ Reaches (hbm [(6, 0x10000)]) .wr 8 0x10008 0x10008 true ∧
      (hbm []).primary 0x10008 = 0x10008 ∧ hasFe 0x10008 = true ∧ (hbm []).th.pend = [] ∧
      (run1 (.sete 6 4 (.long 8)) (hbm [(6, 0x10000)])).etl.sbuf.map (·.sf.isSome) = [true] ∧ (run1 (.sete 6 4 (.long 8)) (hbm [(6, 0x10000)])).th.st = .waiting .mem) := by decide +kernel

theorem witness_StoreTakesEffect :
    let s := run1 (.st 5 6 3 (.short 1)) (spd [(5, 0x0102)])
    MemOk s ∧ Quiet s ∧ s.etl.sbuf.map (·.sf) = [none] ∧ s.etl.drainq = [] ∧ s.homeTested (spad + 8) = false ∧ s.missFull 1 (spad + 8) s.now = false ∧ s.th.st = .ready ∧ s.onDie (spad + 8) = true ∧ s.filterRoom (spad + 8) = true ∧ s.aborts (spad + 8) = false ∧ s.migCopy (spad + 8) = none ∧
      (∀ j, j < 8 → s.owns 1 (spad + 8 + j) = true) ∧ memRd (run1 (.storeTakesEffect 0) s).mem (spad + 9) = 1 ∧ (run1 (.storeTakesEffect 0) s).etl.sbuf = [] := by decide +kernel

theorem witness_AtomicsInScratch : (spd [(7, 1)]).thr.isSome = true ∧ MemOk (spd [(7, 1)]) ∧ Issues (.amoWAdd 5 6 7) (spd [(7, 1)]) ∧
    Rules.atomic (.amoWAdd 5 6 7) (spd [(7, 1)]).rd ((spd [(7, 1)]).rdMem 0 spad 4) = some (5, 6, 4, 0x44332212) ∧ Reaches (spd [(7, 1)]) .rw 4 ((spd [(7, 1)]).rd 6) spad false ∧
    inScratch 0 spad = true ∧ (spd []).failing spad = false ∧ (spd []).hazardAt spad 4 = false ∧ (spd []).storesOut (spd []).th.tid (spd []).before = false ∧ (spd []).migCopy spad = none ∧ reg (.amoWAdd 5 6 7) (spd [(7, 1)]) 5 = 0x44332211 ∧
    (run1 (.amoWAdd 5 6 7) (spd [(7, 1)])).rdMem 0 spad 4 = 0x44332212 := by decide +kernel

theorem witness_FullEmptyInScratch :
    (Issues (.ldfe 5 6 0 1 (.long 0)) (spd []) ∧ Rules.fullEmpty (.ldfe 5 6 0 1 (.long 0)) (spd []).rd ((spd []).isEmpty 0 spad) = some ((5, 6, .long 0, 1), some false, true, none) ∧
      (spd []).isEmpty 0 spad = false ∧ Reaches (spd []) .rw 8 win spad false ∧ spad % 8 = 0 ∧ kgetD (spd []).feq (spad / 8) [] = [] ∧ reg (.ldfe 5 6 0 1 (.long 0)) (spd []) 5 = 0x8877665544332211 ∧
      (run1 (.ldfe 5 6 0 1 (.long 0)) (spd [])).isEmpty 0 spad = true) := by decide +kernel

theorem witness_FullEmptyInScratch_settled : (spd []).failing spad = false ∧ Settled (spd []) ∧ (spd []).etl.buf = [] ∧ (spd []).hazardAt spad 8 = false ∧ (spd []).migCopy spad = none := by decide +kernel

theorem witness_FullEmptyInScratch_waits :
    (Issues (.ste 5 6 1 (.long 0)) (spd []) ∧ Rules.fullEmpty (.ste 5 6 1 (.long 0)) (spd []).rd false = some ((112, 6, .long 0, 1), some true, false, some 0) ∧ (spd []).handoff = false ∧
      (run1 (.ste 5 6 1 (.long 0)) (spd [])).th.st = .waiting (.fe (spad / 8)) ∧ (kgetD (run1 (.ste 5 6 1 (.long 0)) (spd [])).feq (spad / 8) []).length = 1) := by decide +kernel

theorem witness_FaggGroups : faggShares 4 0xFFFFFFFF [{ tid := 1, y := 1 }, { tid := 2, y := 2 }] = [(1, 0xFFFFFFFF), (2, 0)] ∧ Issues (.faggW 5 6 7) (hbm [(6, 0x10000)]) ∧ Reaches (hbm [(6, 0x10000)]) .rw 4 0x10000 0x10000 true ∧
    (hbm []).hazardAt 0x10000 4 = false ∧ (hbm []).th.pend = [] ∧ (hbm []).storesOut (hbm []).th.tid (hbm []).before = false ∧ (run1 (.faggW 5 6 7) (hbm [(6, 0x10000)])).etl.fagg.map (fun q => (q.gpa, q.width, q.kid, q.members)) = [(0x10000, 4, 0, [{ tid := 1, y := 0, va := 0x10000 }])] := by decide +kernel

/-- The thread of `spd` with a store of 7 in its buffer. -/
def stored : State := run1 (.st 5 6 3 (.short 0)) (spd [(5, 7)])

theorem witness_WideFences : Issues (.fence 4) (spd []) ∧ Settled (spd []) ∧ (run1 (.fence 4) (spd [])).myDie.stamp = 1 ∧
    Issues (.fence 4) stored ∧ stored.storesOut stored.th.tid (fun _ => true) = true ∧ (run1 (.fence 4) stored).th.st = .waiting .ack ∧
    Issues (.fenceSs 6) stored ∧ (run1 (.fenceSs 6) stored).th.ssn = 1 ∧ (run1 (.fenceSs 6) stored).th.pc = 16 ∧
    Issues (.fenceLa 6) (spd []) ∧ (run1 (.fenceLa 6) (spd [])).myDie.stamp = 1 := by decide +kernel

theorem witness_SimpleControl_fence : Issues (.fence 3) stored ∧ stored.storesOut stored.th.tid (fun e => stored.onDie e.gpa) = true ∧ (run1 (.fence 3) stored).th.st = .waiting .ack := by
  decide +kernel

theorem witness_CacheOperations :
    let s := hbm [(7, 0x10000), (8, 0x40)]
    s.thr.isSome = true ∧ (s.rd 8).toNat ≤ 2 ^ 32 ∧ s.handoff = false ∧ Settled s ∧ s.etl.buf = [] ∧ s.holds = false ∧ (wholeLines (s.rd 7) 64 s).length = 1 ∧ s.sbufFull 8 = false ∧ rangeFault .rd (s.rd 7) 64 s = none ∧ rangeFault .wr (s.rd 7) 64 s = none ∧
      Issues (.cmoClean 1 7 8) s ∧ Issues (.cmoInval 1 7 8) s ∧ Issues (.cmoClinv 1 7 8) s ∧ Issues (.cmoPref 1 7 8) s ∧ Issues (.cmoZero 1 7 8) s ∧
      (run1 (.cmoClean 1 7 8) s).th.pc = 8 ∧ (run1 (.cmoInval 2 7 8) s).myDie.stamp = 1 ∧
      (run1 (.cmoZero 1 7 8) s).th.pc = 8 ∧ (run1 (.cmoZero 1 7 8) s).etl.sbuf.map (·.gpa) = (List.range 8).map (fun j => 0x10000 + 8 * j) := by decide +kernel

/-! ### Witnesses: vectors, permutations, the copy engine, tags and counters -/

def caught (n : Nat) : State := { st [] with etl := { kernels := [(0, kern)], vrb := some { owner := 1, ops := List.replicate n (.vadd 1 2 3, 0, 0) } } }

theorem witness_VectorDispatch :
    ((Instr.vadd 1 2 3).vector = true ∧ (Instr.vadd 1 2 3).wf = true ∧ (st []).thr.isSome = true ∧ Issues (.vadd 1 2 3) (st []) ∧ (st []).capturing = false ∧ (st []).vheld = false ∧
      Rules.vectorCause (.vadd 1 2 3) (st []) = none ∧ (run1 (.vadd 1 2 3) (st [])).etl.vq.length = 1 ∧ (run1 (.vadd 1 2 3) (st [])).th.pc = 8) ∧
    (Rules.vectorCause (.vperm 1 2 3) (st []) = some { code := 1, eval := wd (1280 + 3), info := 1 } ∧ Issues (.vperm 1 2 3) (st []) ∧ (run1 (.vperm 1 2 3) (st [])).th.eval = 1283) ∧
    ((caught 15).capturing = true ∧ Issues (.vadd 1 2 3) (caught 15) ∧ (caught 15).etl.vrb.isSome = true ∧ (run1 (.vadd 1 2 3) (caught 15)).etl.vrb.map (·.ops.length) = some 16) ∧
    (Issues (.vadd 1 2 3) (caught 16) ∧ (run1 (.vadd 1 2 3) { caught 16 with bundle := 77 }).th.eval = 77) := by decide +kernel

/-- Lanes of a test vector: lane j holds j. -/
def ramp : List Nat := List.range 64

theorem witness_VectorLanes : ramp.length = 64 ∧ (∀ x ∈ ramp, x < 2 ^ 32) ∧ Rules.lane (.vadd 1 2 3) 0 0 [] (fun _ j => ramp.getD j 0) 63 = some (126, 0) ∧
    (vcompute (.vadd 1 2 3) 0 [] [] (fun _ => ramp)).1.getD 63 0 = 126 ∧ (vcompute (.vsra 1 2 3) 0 [] [] (fun n => List.replicate 64 (if n = 2 then 0x80000001 else 33))).1.getD 0 0 = 0xC0000000 ∧
    (vcompute (.vred 1 2 1) 0 [] [] (fun _ => ramp)).1.getD 0 0 = 2016 ∧ (vcompute (.vcmp 1 2 3 2) 0 [] [] (fun n => if n = 2 then ramp else List.replicate 64 1)).1.getD 0 0 = 0xFFFFFFFF := by
  decide +kernel

/-- A dispatched VADD, not started, and started. -/
def vop (out : Option (Vec × Nat × Bool)) : VOp := { seq := 0, tid := 1, slot := 0, instr := .vadd 1 2 3, scal := [], rm := 0, out := out, vs := [(2, 5), (3, 6)] }
def vec (out : Option (Vec × Nat × Bool)) : State := { st [] with etl := { kernels := [(0, kern)], vq := [vop out] }, thr := some { thr with v := [(2, 5), (3, 6)] } }

theorem witness_VectorEvents : (vec none).thr.isSome = true ∧ (kset (vec none).etl.threads 0 (vec none).thr).find? (fun p => decide (p.2.tid = 1)) = some (0, (vec none).th) ∧
    (vec none).etl.vq.find? (fun x => x.out.isNone) = some (vop none) ∧ (vop none).instr.vmem = false ∧
    (run1 (.vectorStart 0) (vec none)).etl.vq.map (fun x => x.out) = [some (11, 0, false)] ∧
    (vec (some (11, 3, false))).etl.vq.find? (fun x => x.out.isSome) = some (vop (some (11, 3, false))) ∧ (Instr.vadd 1 2 3).vdest = some 1 ∧ (vec none).etl.vrb = none ∧
    (vec none).th.st = .ready ∧ (run1 (.vectorWriteback 0) (vec (some (11, 3, false)))).vrd 1 = 11 ∧ (run1 (.vectorWriteback 0) (vec (some (11, 3, false)))).th.fcsr = 0x300 := by decide +kernel

/-- A VEXT of a lane of v2 into g5 that has started. -/
def vext : State := (st []).modE (fun e => { e with vq := [{ vop (some (0x1FFFFFFFF, 0, false)) with instr := .vext 5 2 7 }] })

theorem witness_VectorEvents_vext : vext.etl.vq.length = 1 ∧ vext.etl.vrb = none ∧ vext.th.st = .ready ∧ vext.th.kill = none ∧ vext.ph = 0 ∧
    reg (.vectorWriteback 0) vext 5 = 0x1FFFFFFFF ∧ (run1 (.vectorWriteback 0) vext).etl.vq = [] ∧
    (vcompute (.vext 5 2 7) 0 [65] [] (fun _ => [10, 11, 12])).1 = [11] := by decide +kernel

def sequence : State := { st [(6, 2), (7, 1)] with etl := { kernels := [(0, kern)], vrb := some { owner := 1, capture := false, ops := [(.vadd 1 2 3, 0, 0)], count := 2 } } }
def captured : State := { sequence with etl := { kernels := [(0, kern)], vrb := some { owner := 1, ops := [(.vadd 1 2 3, 0, 0)] }, vq := List.replicate 32 (vop none) } }

theorem witness_RepetitionBuffer : (st []).handoff = false ∧
    (Issues .vrb (st []) ∧ (st []).etl.vrb.isNone = true ∧ (run1 .vrb (st [])).etl.vrb.map (·.capture) = some true) ∧
    (sequence.capturing = false ∧ sequence.etl.vrb.isSome = true ∧ Issues .vrb sequence ∧ (run1 .vrb sequence).th.st = .waiting .vrb) ∧
    (Issues (.vre 6 7) (st []) ∧ (st []).capturing = false) ∧
    (Issues (.vre 6 7) captured ∧ captured.capturing = true ∧ captured.vheld = true ∧ captured.etl.vrb.map (fun b => (b.at_, b.pass, b.ops.length)) = some (0, 0, 1) ∧ 0 < bits (captured.rd 6) 31 0 ∧
      (kset captured.etl.threads 0 captured.thr).find? (fun p => decide (p.2.tid = 1)) = some (0, captured.th) ∧ (run1 (.vre 6 7) captured).etl.vrb.map (fun b => (b.capture, b.count, b.stride)) = some (false, 2, 1)) := by decide +kernel

theorem witness_RepetitionBuffer_stop :
    (Issues .vrstop captured ∧ (run1 .vrstop captured).etl.vrb.isNone = true) ∧ (Issues .vrwait (st []) ∧ (st []).sequence = false ∧ Issues .vrwait sequence ∧ sequence.sequence = true ∧
      (run1 .vrwait sequence).th.st = .waiting .vrwait) := by decide +kernel

/-- Permutation registers 1 = (2 0 1) and 2 = (1 0 2). -/
def perms (g : KMap Word) : State := { st g with etl := { kernels := [(0, { kern with pm := [(1, [2, 0, 1, 3]), (2, [1, 0, 2, 3])] })] } }

theorem witness_Permutations : (kget (perms []).etl.kernels (perms []).th.kid).isSome = true ∧
    (Issues (.pidn 3 2) (perms []) ∧ (run1 (.pidn 3 2) (perms [])).perm 3 = [0, 1, 2, 3]) ∧ (Issues (.pmov 3 1) (perms []) ∧ (run1 (.pmov 3 1) (perms [])).perm 3 = [2, 0, 1, 3]) ∧
    (Issues (.pinv 3 0) (perms []) ∧ (perms []).perm 0 = [] ∧ (run1 (.pinv 3 0) (perms [])).th.ecause = 0x10001) ∧
    (Issues (.pinv 3 1) (perms []) ∧ (perms []).perm 1 ≠ [] ∧ (run1 (.pinv 3 1) (perms [])).etl.solver.map (·.perm) = [[1, 2, 0, 3]] ∧ (run1 (.pinv 3 1) (perms [])).th.st = .waiting .solver) := by decide +kernel

theorem witness_Permutations_solver :
    (Issues (.pcomp 3 0 1) (perms []) ∧ Issues (.pcomp 3 1 2) (perms []) ∧ (run1 (.pcomp 3 1 2) (perms [])).etl.solver.map (·.perm) = [[0, 2, 1, 3]]) ∧
    (Issues (.prand 3 6 2) (perms [(6, 9)]) ∧ (run1 (.prand 3 6 2) (perms [(6, 9)])).etl.solver.length = 1) ∧
    (Issues (.pcyc 3 0 0) (perms []) ∧ Issues (.pcyc 3 1 0) (perms []) ∧ (run1 (.pcyc 3 1 0) (perms [])).th.pc = 8) := by decide +kernel

/-- A scratchpad that holds the bytes 1, 0, 3, 2, and a permutation register to store. -/
def bytes4 (v : Nat) : State := { (perms [(6, win)]).wrMem 0 spad 4 v with ph := 0 }

theorem witness_Permutations_memory :
    (Issues (.pstore 0 6) (bytes4 0) ∧ (run1 (.pstore 0 6) (bytes4 0)).th.ecause = 0x10001) ∧
    (Issues (.pstore 1 6) (bytes4 0) ∧ bytesXlate (bytes4 0) .wr win 0 4 = .inr (.inr [(spad, false), (spad + 1, false), (spad + 2, false), (spad + 3, false)]) ∧ (bytes4 0).hazardAt spad 1 = false ∧ (bytes4 0).sbufFull 4 = false ∧ (bytes4 0).holds = false ∧
      (run1 (.pstore 1 6) (bytes4 0)).th.pc = 8 ∧ (run1 (.pstore 1 6) (bytes4 0)).etl.sbuf.map (fun e => (e.gpa, e.width, e.data)) = [(spad, 1, 2), (spad + 1, 1, 0), (spad + 2, 1, 1), (spad + 3, 1, 3)]) ∧
    (Issues (.pload 3 6 2) (bytes4 0x02030001) ∧ (bytes4 0x02030001).abortsR spad = false ∧ (bytes4 0x02030001).lost spad = false ∧ (bytes4 0x02030001).readWaits spad 1 = false ∧ (bytes4 0).etl.buf = [] ∧ (bytes4 0).kern.ckpt.held = [] ∧
      permBad 4 [1, 0, 3, 2] = none ∧ (run1 (.pload 3 6 2) (bytes4 0x02030001)).etl.solver.map (·.perm) = [[1, 0, 3, 2]]) ∧
    (permBad 4 [1, 0, 1, 2] = some 2 ∧ (run1 (.pload 3 6 2) (bytes4 0x02010001)).th.ecause = 7 ∧ (run1 (.pload 3 6 2) (bytes4 0x02010001)).th.eval = 2) ∧
    (let s : State := { perms [] with etl := { kernels := [(0, kern)], solver := [{ tid := 1, kid := 0, d := 4, perm := [1, 0] }] }, thr := some { thr with st := .waiting .solver } }
     s.etl.solver.map (fun q => (q.held, q.fin)) = [(false, false)] ∧ kget s.kern.pmAt 4 ≠ some s.now ∧ s.th.st = .waiting .solver ∧ (run1 (.solverComplete 0) s).perm 4 = [1, 0] ∧ (run1 (.solverComplete 0) s).th.st = .ready) := by decide +kernel

/-- PSTORE to the scratchpad of another etlet: a request for all the bytes. -/
theorem witness_Permutations_far :
    let s : State := { far [(6, farWin)] with etl := { kernels := (perms []).etl.kernels } }
    Issues (.pstore 1 6) s ∧ bytesXlate s .wr (s.rd 6) 0 4 = .inr (.inr [(scratch 8, false), (scratch 8 + 1, false), (scratch 8 + 2, false), (scratch 8 + 3, false)]) ∧
      regionOf (scratch 8) = 2 ∧ inScratch 0 (scratch 8) = false ∧ s.vc0Stalls (scratchOwner (scratch 8)) = false ∧ s.hazardAt (scratch 8) 1 = false ∧
      (run1 (.pstore 1 6) s).th.st = .waiting .mem ∧ (run1 (.pstore 1 6) s).etl.reqs.map (fun r => r.2.op) = [.bytes [2, 0, 1, 3]] := by decide +kernel

/-- CPY of 8 bytes within the own scratchpad, from offset 0 to offset 64. -/
def cpyRegs : KMap Word := [(20, win + 64), (21, win), (22, 8)]
def queued : State := run1 (.cpy 20 5 0) ((st cpyRegs).wrMem 0 spad 8 0x0807060504030201)
def copying : State := resState (execCopyStart 0 0 queued) queued

theorem witness_CopyCommands : Issues (.cpy 20 5 0) (st cpyRegs) ∧ Rules.copyCmd (.cpy 20 5 0) (st cpyRegs) = some ((Rules.copyCmd (.cpy 20 5 0) (st cpyRegs)).getD ([], none, { seq := 0, kind := .cpy, dst := 0, src := 0, len := 0, tid := 0, slot := 0, kid := 0, user := true })) ∧
    (st cpyRegs).dlogFull = false ∧ (st cpyRegs).storesOut (st cpyRegs).th.tid (st cpyRegs).before = false ∧ (st cpyRegs).th.pend = [] ∧ (Rules.copyCmd (.cpy 20 5 0) (st cpyRegs)).map (fun c => firstFault c.1) = some none ∧ (st []).etl.copyq = [] ∧
    queued.etl.copyq.map (fun c => (c.kind, c.len, c.tag, c.seq)) = [(.cpy, 8, 5, 0)] ∧ queued.etl.dnext = 1 ∧ queued.th.pc = 8 ∧
    (Issues (.cpy 20 5 0) { queued with etl := queued.etl } ∧ (run1 (.cpy 20 5 0) queued).th.st = .waiting (.tagBusy 5)) ∧
    ((Rules.copyCmd (.cpy 20 5 0) (st [(20, 3)])).map (fun c => (firstFault c.1).isSome) = some true ∧ Issues (.cpy 20 5 0) (st [(20, 3)]) ∧ (run1 (.cpy 20 5 0) (st [(20, 3)])).th.ecause ≠ 0) := by decide +kernel

/-- A command waits for an earlier store of its thread and for a full engine. -/
theorem witness_CopyCommands_waits :
    (let s : State := { run1 (.st 5 6 3 (.short 0)) (st ((6, win) :: cpyRegs)) with now := 9 }
     (Rules.copyCmd (.cpy 20 5 0) s).map (fun c => firstFault c.1) = some none ∧ Issues (.cpy 20 5 0) s ∧ s.storesOut s.th.tid s.before = true ∧ (run1 (.cpy 20 5 0) s).th.st = .waiting .ack) ∧
    (let s : State := (st cpyRegs).modE (fun e => { e with copyq := List.replicate 64 { seq := 0, kind := .cpy, dst := 0, src := 0, len := 0, tid := 1, slot := 0, kid := 0, user := true } })
     (Rules.copyCmd (.cpy 20 5 0) s).map (fun c => firstFault c.1) = some none ∧ Issues (.cpy 20 5 0) s ∧ s.storesOut s.th.tid s.before = false ∧ s.dlogFull = false ∧ 64 ≤ s.etl.copyq.length ∧
       (run1 (.cpy 20 5 0) s).th.st = .waiting (.tagBusy 64)) := by decide +kernel

/-- An empty PUT with a local counter, started. -/
def putting : State := { st [] with etl := { kernels := [(0, kern)], copyq := [{ seq := 0, kind := .put, dst := 0, src := 0, len := 0, tid := 1, slot := 0, kid := 0, user := true, lc := some 9, running := true }], sc := [(9, 0xFFFFFFFF)] } }

theorem witness_CopyEvents :
    (MemOk queued ∧ queued.etl.fired.length = 0 ∧ (queued.etl.copyq.find? (fun x => decide (x.seq = 0 ∧ x.arrived = false) && x.running)).isNone = true ∧ (queued.etl.copyq.filter (·.running)).length < 8 ∧ startable queued [] queued.etl.copyq = queued.etl.copyq.head? ∧ queued.etl.copyq ≠ [] ∧ copying.etl.copyq.map (·.running) = [true]) ∧
    ((copying.etl.copyq.map (fun c => (c.kind, c.len, c.mc, c.tag, c.moved))) = [(.cpy, 8, false, 5, [])] ∧ regionOf spad = 2 ∧ regionOf (spad + 64) = 2 ∧ (spad + 64) % 8 = 0 ∧
      (copying.etl.copyq.map (fun c => (engineXlate (c.view (copying.focus 0 64)) .rd c.src, engineXlate (c.view (copying.focus 0 64)) .wr c.dst))) = [(.inr spad, .inr (spad + 64))] ∧
      (copying.etl.copyq.map (fun c => (c.view (copying.focus 0 64)).hazardAt (spad + 64) 8)) = [false] ∧ copying.migCopy (spad + 64) = none ∧
      (run1 (.copyComplete 0 0) copying).etl.tags = 0x20 ∧ (run1 (.copyComplete 0 0) copying).rdMem 0 (spad + 64) 8 = 0x0807060504030201) := by decide +kernel

theorem witness_CopyEvents_put :
    ((putting.etl.copyq.find? (fun x => decide (x.seq = 0 ∧ x.kind = .put ∧ x.arrived = false) && x.running)).map (fun c => (c.len, c.rc, (c.carry putting).isSome)) = some (0, none, true) ∧ (run1 (.putArrival 0 0) putting).etl.copyq.map (·.arrived) = [true]) ∧
    (let s := run1 (.putArrival 0 0) putting
     (s.etl.copyq.find? (fun x => decide (x.seq = 0) && x.running && (decide (x.kind = .get) || x.arrived))).map (fun c => (c.kind, c.lc)) = some (.put, some 9) ∧ s.etl.trigs.length = 0 ∧ kgetD s.etl.scWait 9 [] = [] ∧ kgetD s.etl.sc 9 0 < 2 ^ 32 ∧
       kgetD (run1 (.putComplete 0 0) s).etl.sc 9 0 = 0) := by decide +kernel

def tags (v : Word) (g : KMap Word) : State := { st g with etl := { kernels := [(0, kern)], tags := v, sc := [(3, 0x80000001)] } }

theorem witness_TagsAndCounters : (tags 5 []).handoff = false ∧
    (Issues (.twall 5 6) (tags 5 [(6, 5)]) ∧ (tags 5 [(6, 5)]).rd 118 &&& 5 = 5 ∧ reg (.twall 5 6) (tags 5 [(6, 5)]) 5 = 5 ∧ Issues (.twall 5 6) (tags 5 [(6, 7)]) ∧ (run1 (.twall 5 6) (tags 5 [(6, 7)])).th.st = .waiting (.tags true 7)) ∧
    (Issues (.twany 5 6) (tags 5 [(6, 4)]) ∧ reg (.twany 5 6) (tags 5 [(6, 4)]) 5 = 4 ∧ (run1 (.twany 5 6) (tags 5 [(6, 2)])).th.st = .waiting (.tags false 2) ∧ reg (.twany 5 6) (tags 5 []) 5 = 0) ∧
    (Issues (.tffr 5 6) (tags 12 [(6, 8)]) ∧ reg (.tffr 5 6) (tags 12 [(6, 8)]) 5 = 3 ∧ reg (.tffr 5 6) (tags 12 []) 5 = 64) ∧ (Issues (.tclr 6) (tags 5 [(6, 4)]) ∧ (run1 (.tclr 6) (tags 5 [(6, 4)])).etl.tags = 1) ∧
    (Issues (.scrd 5 3) (tags 0 []) ∧ reg (.scrd 5 3) (tags 0 []) 5 = 0x80000001) := by decide +kernel

theorem witness_TagsAndCounters_counters :
    (Issues (.scset 5 6 3) (tags 0 [(6, 7)]) ∧ (tags 0 []).etl.trigs.length = 0 ∧ kgetD (tags 0 []).etl.scWait 3 [] = [] ∧ (tags 0 []).th.kill = none ∧ kgetD (run1 (.scset 5 6 3) (tags 0 [(6, 7)])).etl.sc 3 0 = 7 ∧
      reg (.scset 5 6 3) (tags 0 [(6, 7)]) 5 = 0x80000001) ∧
    (Issues (.scadd 5 6 3) (tags 0 [(6, 0x7FFFFFFF)]) ∧ kgetD (run1 (.scadd 5 6 3) (tags 0 [(6, 0x7FFFFFFF)])).etl.sc 3 0 = 0) ∧
    (Issues (.scwait 5 6 3) (tags 0 [(6, 0x80000001)]) ∧ reaches 0x80000001 0x80000001 = true ∧ reg (.scwait 5 6 3) (tags 0 [(6, 0x80000001)]) 5 = 0x80000001 ∧ reaches 0x80000001 0x80000002 = false ∧
      (run1 (.scwait 5 6 3) (tags 0 [(6, 0x80000002)])).th.st = .waiting .counter) ∧
    (let s := tags 0 ([(6, win + 64), (7, win), (8, 8), (9, 0), (10, 0), (26, 0x380000002)] : KMap Word)
     Issues (.tsend 5 6 26) s ∧ firstFault (putCause false 6 s) = none ∧ bits (s.rd 26) 63 36 = 0 ∧ s.th.pend = [] ∧ s.storesOut s.th.tid s.before = false ∧ s.etl.trigs.length = 0 ∧ reaches (kgetD s.etl.sc 3 0) 0x80000002 = false ∧
       reg (.tsend 5 6 26) s 5 = 0 ∧ ((kget (run1 (.tsend 5 6 26) s).etl.trigs 0).map (·.word)) = some 0x380000002 ∧
       (Issues (.tcancel 5 11) (run1 (.tsend 5 6 26) s) ∧ (kget (run1 (.tsend 5 6 26) s).etl.trigs 0).map (·.kid) = some 0 ∧ (run1 (.tcancel 5 11) (run1 (.tsend 5 6 26) s)).etl.trigs.length = 0) ∧
       (Issues (.tcancel 5 11) s ∧ (kget s.etl.trigs 0).isNone = true ∧ reg (.tcancel 5 11) s 5 = 1)) := by decide +kernel

/-- TSEND with all 32 triggers armed. -/
theorem witness_TagsAndCounters_full :
    let t : Trig := { kid := 9, tid := 1, rank := 0, word := 0, cmd := { seq := 0, kind := .put, dst := 0, src := 0, len := 0, tid := 1, slot := 0, kid := 0, user := true } }
    let s : State := (tags 0 ([(6, win + 64), (7, win), (8, 8), (9, 0), (10, 0), (26, 0x380000002)] : KMap Word)).modE (fun e => { e with trigs := (List.range 32).map (fun i => (i, t)) })
    Issues (.tsend 5 6 26) s ∧ firstFault (putCause false 6 s) = none ∧ bits (s.rd 26) 63 36 = 0 ∧ (∀ i, i < 32 → (kget s.etl.trigs i).isSome = true) ∧
      s.th.pend = [] ∧ s.storesOut s.th.tid s.before = false ∧ reg (.tsend 5 6 26) s 5 = 32 := by decide +kernel

/-! ### Witnesses: rings, the matrix engine, accumulators, blocks -/

/-- INT8 rings 0 and 1 of two tiles: 32 and 16 lines of 32 elements. -/
def ringA (q : List Tile) : Ring := { kid := 0, base := 0, lines := 32, k := 32, fmt := 5, sp := 0, tiles := 2, q := q }
def ringB (q : List Tile) : Ring := { kid := 0, base := 0x1000, lines := 16, k := 32, fmt := 5, sp := 0, tiles := 2, q := q }
def tile : Tile := { slot := 0, complete := true, bytes := 1024 }
def mx (q : List Tile) (g : KMap Word) : State := { st g with etl := { kernels := [(0, { kern with pm := [(3, List.range 32)] })], rings := [(0, ringA q), (1, ringB q)], acc1 := { ty := 1, cells := [(0, 5)] } } }

/-- A descriptor: 32 lines, k = 32, INT8, 2 tiles (Table 8.6). -/
def desc : Word := 0x0000080205000002

theorem witness_MatrixUnit_rings : (mx [] []).handoff = false ∧
    (descOk 1 desc = false ∧ Issues (.rdef 5 6 2) (mx [] [(6, 1), (7, desc)]) ∧ reg (.rdef 5 6 2) (mx [] [(6, 1), (7, desc)]) 5 = 1) ∧
    (descOk 0x2000 desc = true ∧ (kget (mx [] []).etl.rings 2).isNone = true ∧ (ringOf 0 0x2000 desc).base + 2 * (ringOf 0 0x2000 desc).slotBytes = 0x2800 ∧
      (ringB []).base + (ringB []).tiles * (ringB []).slotBytes ≤ 0x2000 ∧ Issues (.rdef 5 6 2) (mx [] [(6, 0x2000), (7, desc)]) ∧ reg (.rdef 5 6 2) (mx [] [(5, 9), (6, 0x2000), (7, desc)]) 5 = 0 ∧
      (run1 (.rdef 5 6 2) (mx [] [(6, 0x2000), (7, desc)])).etl.rings.length = 3) ∧
    (kget (mx [tile] []).etl.rings 0 = some (ringA [tile]) ∧ (ringA [tile]).kid = (mx [tile] []).lkey ∧ Issues (.rqry 5 0) (mx [tile] []) ∧ Issues (.rdrop 5 0) (mx [tile] []) ∧
      reg (.rqry 5 0) (mx [tile] []) 5 = wd (ringA [tile]).query ∧ reg (.rdrop 5 0) (mx [tile] [(5, 9)]) 5 = 0 ∧ (run1 (.rdrop 5 0) (mx [tile] [])).etl.rings.map (fun r => r.2.q.length) = [0, 1] ∧
      reg (.rdrop 5 0) (mx [{ tile with claimed := true }] []) 5 = 1) := by decide +kernel

theorem witness_MatrixUnit_reset :
    (Issues (.rreset 0) (mx [] []) ∧ (mx [] []).etl.mmas.length = 0 ∧ (mx [] []).mmaWaits 0 = false ∧ (run1 (.rreset 0) (mx [] [])).etl.rings.length = 1 ∧ Issues (.rreset 0) (mx [{ tile with claimed := true }] []) ∧
      (run1 (.rreset 0) (mx [{ tile with claimed := true }] [])).th.st = .waiting (.ring 0)) ∧
    (Issues (.rqry 5 7) (mx [] []) ∧ (kget (mx [] []).etl.rings 7).isNone = true ∧ (run1 (.rqry 5 7) (mx [] [])).th.eval = 775 ∧ (run1 (.rreset 7) (mx [] [])).th.ecause = 0x10001) := by decide +kernel

/-- Tiles of ones in both rings, and the MMA of them into the INT48 accumulator 1. -/
def ones : State := loop (fun i s => s.wrByte 0 (spad + i) 1) 0 32 (loop (fun i s => s.wrByte 0 (spad + 0x1000 + i) 1) 0 32 (mx [tile] []))
def mmaQueued : State := run1 (.mma 0 1 1 6 0 0 0 0) ones
def mmaRunning : State := resState (execMmaStart 0 mmaQueued) mmaQueued

theorem witness_MatrixUnit_mma :
    (Issues (.mma 0 1 1 6 0 0 0 0) (mx [tile] []) ∧ (mx [tile] []).dlogFull = false ∧ (mx [tile] []).kring 0 = some (ringA [tile]) ∧ (mx [tile] []).kring 1 = some (ringB [tile]) ∧ 5 ∈ (mmaFmt 6).1 ∧ 5 ∈ (mmaFmt 6).2 ∧
      (mx [tile] []).accType 1 = mmaType 6 ∧ (mx [tile] []).th.pend = [] ∧ (mx [tile] []).storesOut 1 (mx [tile] []).before = false ∧ (ringA []).k = (ringB []).k ∧ (run1 (.mma 0 1 1 6 0 0 1 3) (mx [tile] [])).etl.mmas.map (·.perm) = [some (List.range 32)] ∧
      (run1 (.mma 0 1 1 6 0 0 0 0) (mx [tile] [])).th.st = .waiting .mma) ∧
    (mmaQueued.etl.mmas.map (fun m => (m.aux.isNone, m.started.isNone)) = [(true, true)] ∧ (mmaQueued.etl.mmas.filter (·.started.isSome)).length < 2 ∧ (ringA [tile]).claimable.isSome = true ∧ (ringB [tile]).claimable.isSome = true ∧
      mmaRunning.etl.rings.map (fun r => (r.2.q.filter (·.claimed)).length) = [1, 1]) ∧
    (mmaRunning.etl.mmas.map (·.tid) = [1] ∧ mmaRunning.th.deferred = none ∧ (kset mmaRunning.etl.threads 0 mmaRunning.thr).length = 1 ∧
      mmaRunning.etl.mmas.find? (fun m => m.started.isSome) = mmaRunning.etl.mmas.head?) := by decide +kernel

/-- R151: an INT8 element of one 32-element line: the sum of the products modulo 2^48; int8 255 is -1. -/
theorem test_mmaCell : mmaCell 6 32 1 ((List.replicate 32 255).map int8) ((List.replicate 32 1).map int8) 5 0 = (2 ^ 48 - 27, 0) := by decide +kernel

/-- ASTO and ALD of 2 rows of 2 raw cells (format 7), pitch 64. -/
def ctl : Word := 0x0000004000E02080

theorem witness_MatrixUnit_accumulators :
    (Issues (.aclr 2 0) (mx [] []) ∧ (mx [] []).etl.mmas.length = 0 ∧ ((run1 (.aclr 2 0) (mx [] [])).etl.acc 0).ty = 2) ∧
    (ctlFmt ctl = 7 ∧ ctlRows ctl = 2 ∧ ctlCols ctl = 2 ∧ ctlPitch ctl = 64 ∧ Issues (.asto 6 1) (mx [] [(6, win + 0x4000), (7, ctl)]) ∧ MemOk (mx [] []) ∧
      firstFault (accCause false 6 1 (mx [] [(6, win + 0x4000), (7, ctl)]) ++ [astoHazard 6 (mx [] [(6, win + 0x4000), (7, ctl)])]) = none ∧
      (run1 (.asto 6 1) (mx [] [(6, win + 0x4000), (7, ctl)])).rdMem 0 (spad + 0x4000) 8 = 5) ∧
    (firstFault (accCause false 6 1 (mx [] [(6, win + 1), (7, ctl)]) ++ [astoHazard 6 (mx [] [(6, win + 1), (7, ctl)])]) = some { code := 3, eval := win + 1 } ∧ Issues (.asto 6 1) (mx [] [(6, win + 1), (7, ctl)])) ∧
    (Issues (.ald 6 1) ((mx [] [(6, win + 0x4000), (7, ctl)]).wrMem 0 (spad + 0x4048) 8 77) ∧ firstFault (accCause true 6 1 ((mx [] [(6, win + 0x4000), (7, ctl)]).wrMem 0 (spad + 0x4048) 8 77)) = none ∧
      ((run1 (.ald 6 1) ((mx [] [(6, win + 0x4000), (7, ctl)]).wrMem 0 (spad + 0x4048) 8 77)).etl.acc 1).cell 1 1 = 77) := by decide +kernel

theorem witness_MatrixUnit_drain :
    let s : State := { mx [] [] with etl := { (mx [] []).etl with mmas := mmaQueued.etl.mmas } }
    Issues (.rreset 0) s ∧ s.mmaWaits 0 = true ∧ (run1 (.rreset 0) s).th.st = .waiting (.ring 0) ∧ Issues (.aclr 2 0) s ∧ s.etl.mmas.map (fun m => (m.tid, m.aux.isNone)) = [(1, true)] ∧ (run1 (.aclr 2 0) s).th.st = .waiting .mmaDrain := by decide +kernel

/-- One block of 32 values 1.0 to MXFP8 (E4M3), and a block that does not fit the format field. -/
def blocks (b : Word) : State := loop (fun i s => s.wrMem 0 (spad + 4 * i) 4 0x3F800000) 0 32 (st [(6, win), (7, win + 0x1000), (8, win + 0x2000), (9, b)])

theorem witness_BlockQuantisation :
    (MemOk (blocks 0) ∧ Issues (.qnt 5 6 9) (blocks 0) ∧ (Rules.blockOp (.qnt 5 6 9) (blocks 0)).map (fun x => (firstFault x.1, x.2.1, x.2.2.1)) = some (none, 5, 12) ∧ (blocks 0).etl.buf.length = 0 ∧ (blocks 0).etl.benchW.length = 0 ∧
      (run1 (.qnt 5 6 9) (blocks 0)).th.resAt = 12 ∧ (run1 (.qnt 5 6 9) (blocks 0)).th.st = .waiting .alu) ∧
    ((Rules.blockOp (.qnt 5 6 9) (blocks 8)).map (fun x => firstFault x.1) = some (some { code := 1, eval := 9, info := 1 }) ∧ Issues (.qnt 5 6 9) (blocks 8) ∧ (run1 (.qnt 5 6 9) (blocks 8)).th.eval = 9) ∧
    (Issues (.scaleq 5 6 9) (blocks 0) ∧ (Rules.blockOp (.scaleq 5 6 9) (blocks 0)).map (fun x => (firstFault x.1, x.2.2.1)) = some (none, 12)) := by decide +kernel

/-! ### Witnesses: synchronisation -/

/-- A launch of two threads of one etlet, and a barrier, token or clock (kind 0, 1, 2) of scope 1 for `n` of them, its handle in g6. -/
def two (g : KMap Word) : State := { st g with launches := [(0, { lch with threads := 2 })], etl := { kernels := [(0, kern)], threads := [(1, { thr with tid := 2, teamix := 1 })] }, nextTid := 3 }
def withObj (kind n : Nat) : State := run1 (.snew 6 6 1) (two [(6, wd (kind + 256 * n))])
def okey : Nat := objKeyAt 0 1 0

theorem witness_SyncObjects_handles : (two []).handoff = false ∧ Settled (two []) ∧ (withObj 0 2).objKey 1 0 = okey ∧
    ((withObj 0 2).obj ((withObj 0 2).objKey 1 (bits ((withObj 0 2).rd 6) 16 5))).isSome = true ∧ (withObj 0 2).handleOk ((withObj 0 2).rd 6) 1 (some 0) true = some okey ∧
    (withObj 0 2).handleOk ((withObj 0 2).rd 6 + 0x20000) 1 (some 0) true = none ∧ (withObj 0 2).handleOk ((withObj 0 2).rd 6) 1 (some 1) true = none ∧
    ((two []).obj ((two []).objKey 1 0)).isNone = true ∧ Issues (.sfree 5 7 1) (two []) ∧ (two []).handleOk ((two []).rd 7) 1 none false = none ∧ (run1 (.sfree 5 7 1) (two [])).th.ecause = 5 := by
  decide +kernel

theorem witness_SyncObjects_snew :
    (Issues (.snew 5 6 1) (two [(6, 0x303)]) ∧ badDesc 2 0x303 = true ∧ reg (.snew 5 6 1) (two [(6, 0x303)]) 5 = 1) ∧
    (Issues (.snew 5 6 1) (two [(6, 0x200)]) ∧ badDesc 2 0x200 = false ∧ 0 < syncCapacity 1 ∧ ((two []).obj okey).isNone = true ∧
      ((run1 (.snew 5 6 1) (two [(6, 0x200)])).obj okey).map (fun o => (o.launch, o.kind, o.t, o.scope, o.gen)) = some (0, 0, 2, 1, 1) ∧ reg (.snew 5 6 1) (two [(6, 0x200)]) 5 = 0x20001) := by decide +kernel

/-- All 64 objects of an etlet taken. -/
def full : State := { two [(6, 0x200)] with objs := (List.range 64).map (fun i => (objKeyAt 0 1 i, { launch := 0, gen := 1, kind := 0, scope := 1, t := 1, home := 0, nodes := [] })) }

theorem witness_SyncObjects_full : Issues (.snew 5 6 1) full ∧ (∀ i, i < syncCapacity 1 → (full.obj (full.objKey 1 i)).isSome = true) ∧ reg (.snew 5 6 1) full 5 = 0 := by decide +kernel

theorem witness_SyncObjects_sfree :
    (Issues (.sfree 5 6 1) (withObj 0 2) ∧ (withObj 0 2).handleOk ((withObj 0 2).rd 6) 1 none false = some okey ∧ (withObj 0 2).verdictsPending okey = false ∧ ((withObj 0 2).obj okey).map SyncObj.waited = some false ∧
      ((withObj 0 2).obj okey).map (fun o => o.nodes.all (fun n => n.2.grant.isNone)) = some true ∧ ((run1 (.sfree 5 6 1) (withObj 0 2)).obj okey).isNone = true ∧ (run1 (.sfree 5 6 1) (withObj 0 2)).gen okey = 2) ∧
    (let s : State := { withObj 0 2 with thr := some { (withObj 0 2).th with pend := [(1, okey)] } }
     s.verdictsPending okey = true ∧ Issues (.sfree 5 6 1) s ∧ (run1 (.sfree 5 6 1) s).th.st = .waiting (.sfree okey)) ∧
    (let s := (withObj 0 2).modNode okey 0 (fun n => { n with waits := [(2, 1, true)] })
     s.verdictsPending okey = false ∧ (s.obj okey).map SyncObj.waited = some true ∧ Issues (.sfree 5 6 1) s ∧ reg (.sfree 5 6 1) s 5 = 1) := by decide +kernel

/-- A launch with SPOKE allowed (mode bit 4), a step clock, and the cell C of the etlet's own node in g7 (virtual endpoint 0, code 7). -/
def poking (g : KMap Word) : State := let s := withObj 2 2; { s with launches := [(0, { lch with threads := 2, modes := 16 })], thr := some { s.th with g := s.th.g ++ g } }

theorem witness_SyncObjects_spoke :
    (Issues (.spoke 5 6 1) (withObj 0 2) ∧ (BitVec.ofNat 32 (withObj 0 2).lnch.modes).getLsbD 4 = false ∧ (run1 (.spoke 5 6 1) (withObj 0 2)).th.ecause = 5) ∧
    ((BitVec.ofNat 32 (poking []).lnch.modes).getLsbD 4 = true ∧ Issues (.spoke 5 6 1) (poking [(7, 7), (8, 0x12345)]) ∧ (poking []).handleOk ((poking []).rd 6) 1 none false = some okey ∧
      (poking []).lnch.stationOf 0 = some 0 ∧ ((poking []).obj okey).map (fun o => ((kget o.nodes 0).isSome, o.hasCell 0 7 0, o.kind)) = some (true, true, 2) ∧
      ((run1 (.spoke 5 6 1) (poking [(7, 7), (8, 0x12345)])).obj okey).map (fun o => (o.node 0).c) = some 0x2345) ∧
    (Issues (.spoke 5 6 1) (poking [(7, 6)]) ∧ ((poking []).obj okey).map (fun o => o.hasCell 0 6 0) = some false ∧ (run1 (.spoke 5 6 1) (poking [(7, 6)])).th.eval = 6) := by decide +kernel

theorem witness_SyncObjects_rest :
    (Issues (.legq 5 1) (two []) ∧ (two []).objs.length = 0 ∧ (two []).legitBits = 63 ∧ reg (.legq 5 1) (two []) 5 = 63) ∧
    (Issues (.foulc 6) { two [(6, 1)] with thr := some { (two [(6, 1)]).th with foul := 3 } } ∧ (run1 (.foulc 6) { two [(6, 1)] with thr := some { (two [(6, 1)]).th with foul := 3 } }).th.foul = 2) ∧
    (Issues (.ckpt 5 6) (two [(6, 1)]) ∧ (two []).kern.ckpt.on = false ∧ (run1 (.ckpt 5 6) (two [(6, 1)])).kern.ckpt.on = true ∧ Issues (.ckpt 5 6) (two []) ∧ reg (.ckpt 5 6) (two []) 5 = 0 ∧
      (let s := run1 (.ckpt 5 7) (two [(7, 1)])
       Issues (.ckpt 5 6) s ∧ s.kern.ckpt.on = true ∧ s.teamPending 0 = false ∧ s.kern.ckpt.held = [] ∧ s.etl.drainq.length = 0 ∧ reg (.ckpt 5 6) s 5 = 1 ∧ (run1 (.ckpt 5 6) s).kern.ckpt.on = false ∧
         ({ s with thr := some { s.th with pend := [(1, 1)] } } : State).teamPending 0 = true ∧ (run1 (.ckpt 5 6) { s with thr := some { s.th with pend := [(1, 1)] } }).th.st = .waiting .ckptOff)) ∧
    (Issues (.sound 5 1) (two []) ∧ (two []).soundWaits 1 = false ∧ reg (.sound 5 1) (two []) 5 = 0 ∧
      (let s : State := { withObj 0 2 with thr := some { (withObj 0 2).th with pend := [(1, okey)] } }
       Issues (.sound 5 1) s ∧ s.soundWaits 1 = true ∧ (run1 (.sound 5 1) s).th.st = .waiting (.sound 1))) := by decide +kernel

theorem witness_SyncWaits_barrier :
    (let s := withObj 0 2
     Issues (.bar 5 6 1) s ∧ Settled s ∧ s.th.pend = [] ∧ s.handleOk (s.rd 6) 1 (some 0) true = some okey ∧ (s.obj okey).map (fun o => ((kget o.nodes 0).isSome, o.expect 0, (o.node 0).cnt, (o.node 0).waits.length)) = some (true, 2, 0, 0) ∧
       (run1 (.bar 5 6 1) s).th.st = .waiting .sync ∧ ((run1 (.bar 5 6 1) s).obj okey).map (fun o => ((o.node 0).cnt, (o.node 0).arr)) = some (1, 1) ∧
       Issues (.bara 5 6 1) s ∧ (run1 (.bara 5 6 1) s).th.st = .ready ∧ Issues (.barw 5 6 1) s ∧ reg (.barw 5 6 1) s 5 = 0 ∧
       (let t := run1 (.bara 5 6 1) s
        Issues (.barw 5 6 1) t ∧ (t.obj okey).map (fun o => (o.node 0).waits) = some [(1, 0, false)] ∧ (run1 (.barw 5 6 1) t).th.st = .waiting .sync)) := by decide +kernel

theorem witness_SyncWaits_last :
    (let s := withObj 0 1
     Issues (.bar 5 6 1) s ∧ (s.obj okey).map (fun o => (o.nodes.length, o.par 0, o.expect 0)) = some (1, none, 1) ∧ s.th.kill = none ∧ s.th.deferred = none ∧ (∀ p ∈ s.etl.kernels, p.2.ckpt.on = false) ∧
       reg (.bar 5 6 1) s 5 = 1 ∧ (run1 (.bar 5 6 1) s).th.pc = s.th.pc + 8 ∧ ((run1 (.bar 5 6 1) s).obj okey).map (fun o => ((o.node 0).ph, (o.node 0).cnt)) = some (1, 0)) ∧
    (let s := withObj 0 2
     Issues (.toka 5 6 1) s ∧ s.handleOk (s.rd 6) 1 (some 1) true = none ∧ (run1 (.toka 5 6 1) s).th.ecause = 5) := by decide +kernel

/-- A thread that holds the token of object `okey`, its decision confirmed. -/
def holding : State := let t := run1 (.toka 5 6 1) (withObj 1 2); { t with thr := some { t.th with pend := [] } }

/-- A launch of two etlets of a cluster and an object of scope 2 on both; the etlet in focus is the second. -/
def pair2 (kind : Nat) : State :=
  let s : State := { st [(6, wd (kind + 256))] with launches := [(0, { lch with etlets := 2, place := [0, 1], live := [0, 8] })], etlets := [(8, { kernels := [(0, kern)], threads := [(0, { thr with tid := 2, teamix := 64 })] })] }
  let t := run1 (.snew 6 6 2) s
  (t.focus 8 0).modT (fun x => { x with g := [(6, t.rd 6)] })
def pkey : Nat := (pair2 0).objKey 2 0

theorem witness_SyncWaits_token :
    (let s := withObj 1 2
     Issues (.toka 5 6 1) s ∧ s.handleOk (s.rd 6) 1 (some 1) true = some okey ∧ s.holder okey = false ∧ (s.obj okey).map (fun o => (o.priv 0, (o.node 0).grant, (o.node 0).tokq)) = some (true, none, []) ∧
       reg (.toka 5 6 1) s 5 = 0 ∧ ((run1 (.toka 5 6 1) s).obj okey).map (fun o => (o.node 0).grant) = some (some 1) ∧ Issues (.tokr 5 6 1) s ∧ reg (.tokr 5 6 1) s 5 = 1) ∧
    (holding.th.pend = [] ∧ Issues (.toka 5 6 1) holding ∧ holding.holder okey = true ∧ Issues (.tokr 5 6 1) holding ∧
       (holding.obj okey).map (fun o => (decide (0 ∈ o.order), o.nodes.all (fun n => decide (n.2.tokq = [])))) = some (true, true) ∧
       ((run1 (.tokr 5 6 1) holding).obj okey).map (fun o => (o.node 0).grant) = some none) := by decide +kernel

theorem witness_SyncWaits_remote :
    (pair2 1).handleOk ((pair2 1).rd 6) 2 (some 1) true = some pkey ∧ Issues (.toka 5 6 2) (pair2 1) ∧ (pair2 1).holder pkey = false ∧ ((pair2 1).obj pkey).map (fun o => o.priv 8) = some false ∧
    (run1 (.toka 5 6 2) (pair2 1)).th.st = .waiting .sync ∧ ((run1 (.toka 5 6 2) (pair2 1)).obj pkey).map (fun o => (o.node 8).tokq) = some [2] := by decide +kernel

theorem witness_SyncWaits_clock :
    (let s := withObj 2 1
     Issues (.step 5 6 1) s ∧ s.handleOk (s.rd 6) 1 (some 2) true = some okey ∧ (s.obj okey).map (fun o => ((o.node 0).waits.length, (o.node 0).c)) = some (0, 0) ∧ Issues (.stepr 5 6 1) s ∧ reg (.stepr 5 6 1) s 5 = 0 ∧
       (s.obj okey).map (fun o => ({ o with nodes := kput o.nodes 0 { o.node 0 with waits := [(1, 0, true)] } } : SyncObj).canStep 0) = some true ∧ reg (.step 5 6 1) s 5 = 1 ∧
       ((run1 (.step 5 6 1) s).obj okey).map (fun o => (o.node 0).c) = some 1) ∧
    (let s := withObj 2 2
     Issues (.step 5 6 1) s ∧ (s.obj okey).map (fun o => ({ o with nodes := kput o.nodes 0 { o.node 0 with waits := [(1, 0, true)] } } : SyncObj).canStep 0) = some false ∧
       (run1 (.step 5 6 1) s).th.st = .waiting .sync) := by decide +kernel

/-- The pair of etlets 0 and 8 below station 3, with messages under way. -/
def sync (kind : Nat) (m : List SyncMsg) (f : SyncObj → SyncObj) : State := let s := (pair2 kind).modObj pkey f; { s with smsgs := m, now := 64 }
def obj (s : State) : SyncObj := (s.obj pkey).getD { launch := 0, gen := 0, kind := 0, scope := 0, t := 0, home := 0, nodes := [] }

theorem witness_SyncEvents_messages :
    (let s := sync 0 [.report pkey 8 0] id
     (s.obj pkey).isSome = true ∧ (obj s).par 8 = some 3 ∧ ((obj s).node 8).parent = some 3 ∧ (kget (obj s).nodes 3).isSome = true ∧ (BitVec.ofNat 64 ((obj s).node 3).arr).getLsbD ((obj s).childIx 3 8) = false ∧
       ((obj s).node 3).cnt + 1 < (obj s).expect 3 ∧ (obj s).childIx 3 8 = 1 ∧ ((obj (run1 (.completionReport 0) s)).node 3).arr = 2 ∧ ((obj (run1 (.completionReport 0) s)).node 3).cnt = 1 ∧
       (run1 (.completionReport 0) s).smsgs = []) ∧
    (let s := sync 0 [.phase pkey 3 1 none, .phase pkey 8 2 none] (fun o => { o with nodes := kmod o.nodes 3 {} (fun n => { n with arr := 3, cnt := 2 }) })
     ((obj s).node 3).ph = 0 ∧ ((obj s).node 3).absent = false ∧ ((obj s).node 3).waits = [] ∧ classOf 3 ≠ 0 ∧ 0 < (obj s).expect 3 ∧ ((obj (run1 (.phaseMessage 0) s)).node 3).ph = 1 ∧ ((obj (run1 (.phaseMessage 0) s)).node 3).cnt = 0 ∧
       (run1 (.phaseMessage 0) s).smsgs = .phase pkey 8 2 none :: ((obj s).children 3).map (fun n => .phase pkey n 1 none) ∧
       (run1 (.phaseMessage 1) s).smsgs = [.phase pkey 3 1 none] ∧ (run1 (.phaseMessage 1) s).objs = s.objs) := by decide +kernel

theorem witness_SyncEvents_token :
    let s := sync 1 [] id
    (obj s).kind = 1 ∧ (obj s).order.findIdx? (fun m => decide (m = 0)) ≠ none ∧ (kget (obj s).nodes 0).isSome = true ∧ ((obj s).order.filter (obj s).priv).length = 1 ∧
      (∀ n ∈ (obj s).order, (obj s).priv n = true → ((obj s).node n).grant = none ∧ ((obj (run1 (.tokenPass pkey n) s)).node n).x = if n = (obj s).order.headD 0 then 1 else ((obj s).node n).x) ∧
      (∀ p ∈ (obj s).nodes, p.2.tokq = []) := by decide +kernel

theorem witness_SyncEvents_clock :
    (let s := withObj 2 1
     (s.obj okey).map (fun o => (o.kind, o.canStep 0, (o.node 0).waits.length)) = some (2, false, 0) ∧
       (let u := s.modObj okey (fun o => { o with nodes := kmod o.nodes 0 {} (fun n => { n with gone := [0] }) })
        (u.obj okey).map (fun o => o.canStep 0) = some true ∧ ((run1 (.stepAdvance okey 0) u).obj okey).map (fun o => (o.node 0).c) = some 1)) ∧
    (let s := sync 2 [] (fun o => { o with nodes := kmod o.nodes 8 {} (fun n => { n with c := 5 }) })
     (obj s).scope = 2 ∧ (obj s).kind = 2 ∧ s.objs.length = 1 ∧ (kgetD s.stations (8 * 8 + 2) {}).roundAt + roundLen 2 ≤ s.now ∧ s.stationTested 8 = false ∧ ((obj s).node 8).absent = false ∧ ((obj s).node 8).up = some 3 ∧
       ((obj s).node 3).absent = false ∧ 1 < (diff16 ((obj s).node 8).c ((obj s).view s.now 3).c).natAbs ∧ ((obj (run1 (.syncRoundStart 66) s)).node 8).c = 0 ∧ (kgetD (run1 (.syncRoundStart 66) s).stations 66 {}).roundAt = 64) := by decide +kernel

theorem witness_SyncEvents_rounds :
    (let s := sync 0 [] id
     ({ s with now := 0 } : State).now < (kgetD s.stations 66 {}).roundAt + roundLen 2 ∧ run1 (.syncRoundStart 66) { s with now := 0 } = { s with now := 0 } ∧
       run1 (.umpireRoundEnd 26) { s with now := 62 } = { s with now := 62 }) ∧
    (let s : State := { sync 0 [] (fun o => { o with decisions := [{ id := 1, made := 60, ok := true }] }) with now := 63 }
     roundLen 2 ≤ s.now + 1 ∧ s.stationTested 3 = false ∧ 60 + 2 ≤ s.now ∧ (kgetD s.stations 26 {}).endAt ≤ (kgetD s.stations 26 {}).roundAt ∧ (obj s).home = 3 ∧ (kgetD (run1 (.umpireRoundEnd 26) s).stations 26 {}).endAt = 64 ∧
       kget (kgetD (run1 (.umpireRoundEnd 26) s).stations 26 {}).legit 0 = some true ∧ (obj (run1 (.umpireRoundEnd 26) s)).decisions = [{ id := 1, made := 60, ok := true, tree := some true, verdict := some true }]) := by decide +kernel

/-- A thread that awaits the verdict on decision 1. -/
def judged (ok : Bool) : State := { withObj 0 1 with thr := some { (withObj 0 1).th with pend := [(1, okey)] }, etl := { kernels := [(0, kern)] }, smsgs := [.verdict 1 okey 1 1 ok] }

theorem witness_SyncEvents_verdicts : (judged true).th.st = .ready ∧ (judged true).etlets = [] ∧ (judged true).etl.threads.length = 0 ∧ (judged true).kern.ckpt.bounds.length = 0 ∧ (judged true).images.length = 0 ∧ (judged true).etl.bench.length = 0 ∧ (judged true).thr.isSome = true ∧
    (judged false).th.policy.toNat % 4 = 0 ∧ (run1 (.verdictDelivery 0) (judged true)).th.pend = [] ∧ (run1 (.verdictDelivery 0) (judged true)).th.events = [] ∧ (run1 (.verdictDelivery 0) (judged false)).th.foul = 1 ∧
    (run1 (.verdictDelivery 0) (judged false)).th.events.map (fun c => (c.code, c.info, c.imp)) = [(0xC, 1, true)] := by decide +kernel

theorem witness_SyncEvents_rest :
    (let s : State := { st [] with thr := some { thr with st := .waiting (.rollback 1) } }
     s.etl.threads.length = 0 ∧ s.th.st = .waiting (.rollback 1) ∧ s.legitAt 1 = true ∧ (run1 (.rollbackResume 0 0) s).th.st = .ready) ∧
    (let s : State := { sync 1 [] id with now := 192 }
     (kgetD s.stations 66 {}).roundAt + 3 * roundLen 2 ≤ s.now ∧ s.objs.length = 1 ∧ (obj s).nodes.all (fun p => p.2.grant.isNone) = true ∧ (obj s).par 8 = some 3 ∧ (obj s).scope = 2 ∧ (obj s).kind ≠ 0 ∧ ((obj s).node 8).absent = false ∧ ((obj (run1 (.memberAbsent 66) s)).node 8).absent = true ∧
       ((obj (run1 (.memberAbsent 66) s)).node 8).gone = [0]) := by decide +kernel
/-! ### Witnesses: messages, loop ports, migration -/

/-- A SEND to the own etlet (virtual endpoint 0) of 2 words: entry point and one argument. -/
def sending (g : KMap Word) : State := st ([(6, 0), (7, 0x100), (8, 77), (9, 2)] ++ g)
def msg : Msg := { launch := 0, sender := 0, words := [0x100, 77] }

theorem witness_Messages_send :
    (Issues (.send 6 9) (sending []) ∧ sendCause 6 9 (sending []) = none ∧ (sending []).lnch.chanEtlet ((sending []).rd 6) = some 0 ∧ (sending []).th.pend = [] ∧ (sending []).vc0Stalls 0 = false ∧
      (sending []).storesOut 1 (sending []).before = false ∧ (run1 (.send 6 9) (sending [])).etl.msgs = [{ msg with scope := 1 }] ∧ scopeBetween 0 0 = 1 ∧ (run1 (.send 6 9) (sending [])).th.pc = 8) ∧
    ((sendCause 6 10 (sending [])).isSome = true ∧ Issues (.send 6 10) (sending []) ∧ (run1 (.send 6 10) (sending [])).th.ecause ≠ 0) ∧
    (let s : State := { run1 (.st 5 11 3 (.short 0)) (sending [(11, win)]) with now := 9 }
     sendCause 6 9 s = none ∧ Issues (.send 6 9) s ∧ s.storesOut s.th.tid s.before = true ∧ (run1 (.send 6 9) s).th.st = .waiting .ack) := by decide +kernel

/-- A full inbox and a full dugout stall VC0 (R39). -/
def stalled : State := { sending [] with etl := { kernels := [(0, kern)], inbox := List.replicate 4104 msg } }

theorem witness_Messages_stall : Issues (.send 6 9) stalled ∧ sendCause 6 9 stalled = none ∧ stalled.th.pend = [] ∧ stalled.storesOut 1 stalled.before = false ∧ stalled.vc0Stalls 0 = true ∧ (run1 (.send 6 9) stalled).th.st = .waiting .stall := by decide +kernel

theorem witness_Messages_arrival :
    (let s : State := { st [] with etl := { kernels := [(0, kern)], msgs := [msg] } }
     s.heldBack 0 0 = false ∧ s.etlets = [] ∧ s.etl.inbox = [] ∧ s.freeHandoff = some 62 ∧ s.kernelOf 0 = some (0, kern) ∧ (run1 (.activeMessageArrival 0) s).etl.msgs = [] ∧
       ((run1 (.activeMessageArrival 0) s).threadAt 62).map (fun h => (h.pc, h.handler, h.limit, kgetD h.g 3 0, kgetD h.g 10 0)) = some (0x100, 1, 16, 77, 2)) ∧
    (let s : State := { st [] with etl := { kernels := [(0, kern)], msgs := [msg], threads := [(62, thr), (63, thr)] } }
     s.freeHandoff = none ∧ s.msgRoom = true ∧ (run1 (.activeMessageArrival 0) s).etl.inbox = [msg]) ∧
    (let s : State := { st [] with etl := { kernels := [(0, kern)], msgs := [msg], inbox := List.replicate 4104 msg } }
     s.heldBack 0 0 = false ∧ s.msgRoom = false ∧ (run1 (.activeMessageArrival 0) s).etl.msgs = [msg]) ∧
    (let s : State := { st [] with etl := { kernels := [(0, kern)], inbox := [msg] } }
     s.freeHandoff = some 62 ∧ ((run1 (.handlerStart 0) s).threadAt 62).map (·.pc) = some 0x100 ∧ (run1 (.handlerStart 0) s).etl.inbox = []) ∧
    (let s : State := { st [] with slot := 62, thr := some { thr with handler := 1, issues := 4096 } }
     s.handoff = true ∧ s.th.st ≠ .waiting .exitDrain ∧ s.th.gangN = 0 ∧ s.lnch.policy / 4 % 4 = 0 ∧ (run1 (.handlerIssueLimit 0 62) s).thr = none ∧
       run1 (.handlerIssueLimit 0 0) (st []) = st []) := by decide +kernel

theorem witness_Messages_absent :
    let s : State := { st [] with etl := { kernels := [(0, kern)], absent := [{ slot := 5, lk := 0 }], schedvec := 0x4000 } }
    s.freeHandoff = some 62 ∧
      s.kernelOf 0 = some (0, kern) ∧ (run1 (.absent 0) s).etl.absent = [] ∧ ((run1 (.absent 0) s).threadAt 62).map (fun h => (h.pc, bits h.ecause 7 0, h.eval, h.status)) = some (0x4000, 0x10, 5, 0x11) := by decide +kernel

theorem witness_Messages_ports :
    (let w : LpWord := { word := 7, slot := 0, port := 2, srcE := 0, srcSlot := 1, srcPort := 2 }
     let s : State := { st [] with etl := { kernels := [(0, kern)], lpIn := [w] }, thr := some { thr with st := .waiting .lport } }
     s.heldBack 0 0 = false ∧ s.handoff = false ∧ s.lkey = 0 ∧ (kgetD s.th.inq 2 []).length < 16 ∧ kgetD (run1 (.loopPortWordArrival 0) s).th.inq 2 [] = [w] ∧ (run1 (.loopPortWordArrival 0) s).th.st = .ready ∧
       (let u : State := { s with thr := some { thr with inq := [(2, List.replicate 16 w)] } }
        16 ≤ (kgetD u.th.inq 2 []).length ∧ run1 (.loopPortWordArrival 0) u = u)) ∧
    (let s : State := { st [] with etl := { kernels := [(0, kern)], crIn := [(0, 2, 1)] }, thr := some { thr with credits := [(2, 15)], st := .waiting (.credit 2) } }
     s.etl.crIn.findIdx? (fun c => decide (c.1 = s.slot ∧ c.2.1 = 2)) = some 0 ∧ s.th.tid = 1 ∧ kgetD (run1 (.loopPortCreditReturn 0 0 2) s).th.credits 2 16 = 16 ∧ (run1 (.loopPortCreditReturn 0 0 2) s).th.st = .ready) := by
  decide +kernel

/-- Two etlets of a launch; etlet 8 has the kernel and no thread. -/
def going (g : KMap Word) : State := { st g with launches := [(0, { lch with etlets := 2, place := [0, 1], live := [0, 8] })], etlets := [(8, { kernels := [(0, kern)] })] }

theorem witness_Messages_go :
    (Issues (.go 6) (going [(6, 0x0080000000000000)]) ∧ canonical 0x0080000000000000 = false ∧ (run1 (.go 6) (going [(6, 0x0080000000000000)])).th.ecause = 4) ∧
    (Issues (.go 6) (going [(6, 0x1000)]) ∧ canonical 0x1000 = true ∧ inWindow 0x1000 = false ∧ (run1 (.go 6) (going [(6, 0x1000)])).th.ecause = 5) ∧
    (let s := going [(6, win)]
     Issues (.go 6) s ∧ inWindow win = true ∧ bits win 17 0 < 0x30000 ∧ s.kern.battery = false ∧ s.windowEtlet win = some 0 ∧ s.kern.ckpt.held = [] ∧ s.vectorOut = false ∧ Settled s ∧ (run1 (.go 6) s).th.pc = 8) ∧
    (let s := going [(6, 0xFFF0000000040000), (15, 3), (16, 4)]
     Issues (.go 6) s ∧ s.windowEtlet 0xFFF0000000040000 = some 8 ∧ s.th.gangN = 0 ∧ Calm s ∧ (run1 (.go 6) s).thr = none ∧
       ((kgetD (run1 (.go 6) s).etlets 8 {}).goIn).map (fun x => (x.tid, x.pc, x.g.length, kgetD x.g 15 0, kgetD x.g 16 0)) = [(1, 8, 2, 3, 0)]) := by decide +kernel

/-- A thread with a vector instruction in flight stays until it is done. -/
theorem witness_Messages_go_vector : let s : State := (going [(6, win)]).modE (fun e => { e with vq := [vop none] })
    Issues (.go 6) s ∧ s.vectorOut = true ∧ s.th.pend = [] ∧ (run1 (.go 6) s).th.st = .waiting .bench := by decide +kernel

theorem witness_Messages_arrivals :
    (let x : Thread := { thr with tid := 9, limit := 16, vlimit := 0 }
     let s : State := { st [] with thr := some { thr with limit := 16 }, etl := { kernels := [(0, kern)], goIn := [x] } }
     Calm s ∧ s.heldBack 0 0 = false ∧ s.etl.parked = [] ∧ s.kernelOf 0 = some (0, kern) ∧ (firstFit s.etl.regCap 16 (s.seated.map (fun p => (p.2.base, p.2.limit)))).isSome = true ∧
       (firstFit 256 0 (s.seated.map (fun p => (p.2.vbase, p.2.vlimit)))).isSome = true ∧ s.freeThreadSlot = some 1 ∧ ((run1 (.goArrival 0) s).threadAt 1).map (fun y => (y.tid, y.base)) = some (9, 16) ∧
       (let p : State := { s with etl := { kernels := [(0, kern)], parked := [x] } }
        ((run1 (.parkedThreadPlace 0) p).threadAt 1).map (·.tid) = some 9 ∧ (run1 (.parkedThreadPlace 0) p).etl.parked = [])) ∧
    (let s : State := { st [] with etl := { kernels := [(0, kern)], goIn := [thr], threads := (List.range 61).map (fun i => (i + 1, thr)) } }
     s.freeThreadSlot = none ∧ s.dugoutRoom = true ∧ (run1 (.goArrival 0) s).etl.parked = [thr] ∧ (run1 (.goArrival 0) s).etl.goIn = []) ∧
    (let s : State := { st [] with etl := { kernels := [(0, kern)], fwd := [(0, .msg msg)] } }
     s.etl.inbox = [] ∧ s.freeHandoff = some 62 ∧ (run1 (.mapsetForward 0) s).etl.fwd = [] ∧ ((run1 (.mapsetForward 0) s).threadAt 62).map (·.pc) = some 0x100) := by decide +kernel

/-! ### Witnesses: midfield memory and the network engine -/

def asked (op : MemOp) : State := { waits .mem with etl := { kernels := [(0, kern)], reqs := [(0, { seq := 0, slot := 0, tid := 1, op := op, gpa := 0, va := 0, key := 1, scope := 0, ca := false, sent := 0 })] } }
def region : Region := { launch := 0, va := 0xE00000000000 * 256, granules := 2, copies := [(0, 0)], key := 1, charged := 2 }
def dom (r : List Region) (s : State) : State := { s with domains := [(0, { switches := [0, 64], quota := [(1, (4, r.length * 2))], regions := r })] }

theorem witness_MidfieldAndNetwork_requests :
    (Issues (.mfalloc 5 6 7) (st [(6, 0x100000001)]) ∧ ((kget (run1 (.mfalloc 5 6 7) (st [(6, 0x100000001)])).etl.reqs 0).map (·.op)) = some (.mfalloc 1 true 7) ∧
      ((kget (run1 (.mfalloc 5 6 7) (st [(6, 65537)])).etl.reqs 0).map (·.op)) = some (.mfalloc 0 false 7)) ∧
    (Issues (.mffree 5 6) (dom [region] (st [(6, wd region.va)])) ∧ ((kget (run1 (.mffree 5 6) (dom [region] (st [(6, wd region.va)]))).etl.reqs 0).map (·.op)) = some (.mffree (wd region.va)) ∧
      ((kgetD (run1 (.mffree 5 6) (dom [region] (st [(6, wd region.va)]))).domains 0 {}).regions).map (·.unmapped) = [true]) ∧
    (Issues (.mfquota 5) (st []) ∧ Issues (.mfstat 5 6) (st []) ∧ (run1 (.mfquota 5) (st [])).th.st = .waiting .mem ∧ (run1 (.mfstat 5 6) (st [])).th.st = .waiting .mem) := by decide +kernel

theorem witness_MidfieldAndNetwork_replies :
    ((asked .mfquota).thr.isSome = true ∧ (asked .mfquota).th.st = .waiting .mem ∧ (asked .mfquota).th.kill = none ∧ (asked .mfquota).th.deferred = none ∧ (asked .mfquota).th.waitD = 5 ∧
      reg (.memoryReply 0 0) (dom [region] (asked .mfquota)) 5 = 0x400000002) ∧
    (reg (.memoryReply 0 0) (dom [region] (asked (.mfstat (wd region.va)))) 5 = 0 ∧ reg (.memoryReply 0 0) (dom [region] (asked (.mfstat 0))) 5 = 3) ∧
    (reg (.memoryReply 0 0) (dom [] (asked (.mfalloc 0 false 7))) 7 = 3 ∧ reg (.memoryReply 0 0) (dom [region] (asked (.mfalloc 3 false 7))) 7 = 1 ∧
      ((kgetD (dom [region] (st [])).domains 0 {}).placeOn 0 2).isSome = true ∧ ((kgetD (run1 (.memoryReply 0 0) (dom [region] (asked (.mfalloc 2 false 7)))).domains 0 {}).regions).length = 2 ∧
      reg (.memoryReply 0 0) (dom [region] (asked (.mfalloc 2 false 7))) 7 = 0) ∧
    ((kgetD (dom [] (st [])).domains 0 {}).regions.length = 0 ∧ reg (.memoryReply 0 0) (dom [] (asked (.mffree (wd region.va)))) 5 = 1) ∧
    (let s := dom [{ region with unmapped := true }] (asked (.mffree (wd region.va)))
     s.feq.length = 0 ∧ s.regionBusy 0 { region with unmapped := true } = false ∧ reg (.memoryReply 0 0) s 5 = 0 ∧ (kgetD (run1 (.memoryReply 0 0) s).domains 0 {}).regions.length = 0 ∧
       kgetD (kgetD (run1 (.memoryReply 0 0) s).domains 0 {}).quota 1 (0, 0) = (4, 0)) := by decide +kernel

theorem witness_MidfieldAndNetwork_switch : (st []).feq.length = 0 ∧ (kgetD (run1 (.switchLossNotice 0 0) (dom [region] (st []))).domains 0 {}).switches = [64] ∧
    ((kgetD (run1 (.switchLossNotice 0 0) (dom [region, { region with copies := [(0, 0), (64, 0)] }] (st []))).domains 0 {}).regions).map (fun r => (r.state, r.copies)) = [(2, [(0, 0)]), (1, [(64, 0)])] := by decide +kernel

/-- A WRQ of a SEND (operation 1) of 8 bytes from the own scratchpad, with a record. -/
def wrqRegs (op : Word) : KMap Word := [(20, op), (21, win), (22, 8), (23, 3), (24, 0)]

theorem witness_MidfieldAndNetwork_wrq :
    (Issues (.wrq 5 20) (st (wrqRegs 1)) ∧ (st []).dlogFull = false ∧ (st []).th.pend = [] ∧ (st []).storesOut 1 (st []).before = false ∧ firstFault (wrqCause 20 (st (wrqRegs 1))) = none ∧ (st []).myDie.ueSend.length < 1024 ∧ reg (.wrq 5 20) (st (wrqRegs 1)) 5 = 1 ∧
      (run1 (.wrq 5 20) (st (wrqRegs 1))).myDie.ueSend.map (fun w => (w.id, w.op, w.peer)) = [(1, 1, 3)] ∧ (run1 (.wrq 5 20) (st (wrqRegs 1))).myDie.ueNext = 2 ∧
      firstFault (wrqCause 20 (st (wrqRegs 2))) = none ∧ (run1 (.wrq 5 20) (st (wrqRegs 2))).myDie.ueRecv.length = 1) ∧
    ((firstFault (wrqCause 20 (st (wrqRegs 15)))).isSome = true ∧ Issues (.wrq 5 20) (st (wrqRegs 15)) ∧ (run1 (.wrq 5 20) (st (wrqRegs 15))).th.ecause ≠ 0) ∧
    (Issues (.wrcq 5) (st []) ∧ (st []).handoff = false ∧ kgetD (st []).myDie.ueRecs (st []).lkey [] = [] ∧ reg (.wrcq 5) { st [] with dies := [(0, { ueRecs := [(0, [7, 8])] })] } 5 = 7 ∧
      kgetD (run1 (.wrcq 5) { st [] with dies := [(0, { ueRecs := [(0, [7, 8])] })] }).myDie.ueRecs 0 [] = [8]) ∧
    (Issues (.uestat 5 3) (st []) ∧ reg (.uestat 5 0) (st []) 5 = 0 ∧ reg (.uestat 5 1) (st []) 5 = 1024 ∧ reg (.uestat 5 2) (st []) 5 = 0) := by decide +kernel

def sendReq : Wrq := { id := 1, op := 1, record := true, cmd := { seq := 0, kind := .cpy, dst := 0, src := 0, len := 8, tid := 1, slot := 0, kid := 0, user := true }, peer := 3, rkey := 0, off := 0, sc := none, eid := 0 }

/-- A full send queue (R216). -/
theorem witness_MidfieldAndNetwork_full : let s : State := { st (wrqRegs 1) with dies := [(0, { ueSend := List.replicate 1024 sendReq })] }
    Issues (.wrq 5 20) s ∧ 1024 ≤ s.myDie.ueSend.length ∧ reg (.wrq 5 20) s 5 = 0 := by decide +kernel

theorem witness_MidfieldAndNetwork_waits : let s : State := { run1 (.st 5 6 3 (.short 0)) (st ((6, win) :: wrqRegs 1)) with now := 9 }
    Issues (.wrq 5 20) s ∧ firstFault (wrqCause 20 s) = none ∧ s.th.pend = [] ∧ s.storesOut s.th.tid s.before = true ∧ (run1 (.wrq 5 20) s).th.st = .waiting .ack := by decide +kernel

theorem witness_MidfieldAndNetwork_events :
    (let s : State := { st [] with dies := [(0, { ueRegions := [(9, { base := spad, len := 4, key := 1, sc := none })] })] }
     (kget (kgetD s.dies 0 {}).ueRegions 9).isSome = true ∧ s.tested 0 0x3C = false ∧ 4 < 4 + 1 ∧ run1 (.uePacketArrival 0 0 9 4 [5]) s = s ∧ 3 + 1 ≤ 4 ∧ MemOk s ∧ regionOf (spad + 3) = 2 ∧ s.migCopy (spad + 3) = none ∧
       memRd (run1 (.uePacketArrival 0 0 9 3 [5]) s).mem (spad + 3) = 5) ∧
    (let s : State := { st [] with dies := [(0, { ueSend := [sendReq] })], pkgs := [(0, {})] }
     (kgetD s.dies 0 {}).ueSend.find? (fun y => decide (y.id = 1)) = some sendReq ∧ s.readyBit 0 56 = false ∧ (kgetD (run1 (.wrqComplete 0 1 0) s).dies 0 {}).ueRecs = [(0, [0x0001041000000000])] ∧
       (kgetD (run1 (.norecvTimeout 0 1) s).dies 0 {}).ueRecs = [(0, [0x0001021000000000])]) := by decide +kernel

/-- The engine ready: the same request from the own scratchpad ends with the status and length of its completion. -/
theorem witness_MidfieldAndNetwork_ready :
    let w : Wrq := { sendReq with cmd := { sendReq.cmd with src := win, key := 1 } }
    let s : State := { st [] with dies := [(0, { ueSend := [w] })] }
    s.readyBit 0 56 = true ∧ (kgetD s.dies 0 {}).ueSend.find? (fun y => decide (y.id = 1)) = some w ∧ w.sc = none ∧ w.down = false ∧
      w.localFault ({ s with free := s.free + 1 } : State) = none ∧ (kgetD (run1 (.wrqComplete 0 1 0) s).dies 0 {}).ueSend = [] ∧
      (kgetD (run1 (.wrqComplete 0 1 0) s).dies 0 {}).ueRecs = [(0, [0x0001001000000008])] := by decide +kernel
/-! ### Witnesses: sweepers and queues -/

/-- SWB's registers: first, count, base, stride, map. -/
def swbRegs : KMap Word := [(6, 10), (7, 65), (8, win), (9, 64), (10, win + 0x100)]
def sweeping (w : Sweeper) (h : Word) : State := { st [(6, h)] with clusters := [(0, { sweepers := [(0, { w with launch := some 0, gen := 1 })] })], now := 20000 }
def slice (q : Nat) (x : Queue) (g : KMap Word) : State := { st ([(6, wd (0x100 + q))] ++ g) with clusters := [(0, { queues := [(q, x)] })] }
def four : KMap Sweeper := [(0, { launch := some 1 }), (1, { launch := some 1 }), (2, { launch := some 1 }), (3, { launch := some 1 })]

theorem witness_SweepersAndQueues_swb :
    (st swbRegs).handoff = false ∧ Issues (.swb 5 6) (st swbRegs) ∧ firstFault (swbCause 6 (st swbRegs)) = none ∧ ((st swbRegs).sweeper 0 0).launch = none ∧ MemOk (st swbRegs) ∧
    reg (.swb 5 6) (st swbRegs) 5 = 0x100 ∧ ((run1 (.swb 5 6) (st swbRegs)).sweeper 0 0).todo.length = 65 ∧
    (let s := { st swbRegs with mem := [(spad + 0x100, 1), (spad + 0x10F, 1), (spad + 0x110, 1)] }; (run1 (.swb 5 6) s).mem = [(spad + 0x110, 1)]) ∧
    (let s := { st swbRegs with clusters := [(0, { sweepers := four })] }
     firstFault (swbCause 6 s) = none ∧ (List.range 4).all (fun i => (s.sweeper 0 i).launch.isSome) = true ∧ reg (.swb 5 6) s 5 = 0) ∧
    (let s := { st swbRegs with clusters := [(0, { sweepers := [(0, { launch := some 1 }), (1, { gen := 255 })] })] }; reg (.swb 5 6) s 5 = 0x101) ∧
    (let s := st [(6, 0), (7, 65537), (9, 1), (10, win)]
     Issues (.swb 5 6) s ∧ firstFault (swbCause 6 s) = some { code := 1, eval := 7, info := 1 } ∧ (run1 (.swb 5 6) s).th.ecause ≠ 0) := by decide +kernel

theorem witness_SweepersAndQueues_swn :
    (let s := sweeping { first := 10, count := 3, map := spad, ready := [2, 1], out := 0 } 0x100
     Issues (.swn 5 6) s ∧ (s.sweeper 0 (bits (s.rd 6) 1 0)).launch = some s.lkey ∧ (s.sweeper 0 (bits (s.rd 6) 1 0)).gen = bits (s.rd 6) 15 8 ∧ reg (.swn 5 6) s 5 = 12 ∧
       ((run1 (.swn 5 6) s).sweeper 0 0).ready = [1] ∧ ((run1 (.swn 5 6) s).sweeper 0 0).out = 1 ∧ s.hazardAt spad 8 = false ∧ regionOf spad = 2 ∧ memRd (run1 (.swn 5 6) s).mem spad = 4) ∧
    (Issues (.swn 5 6) (sweeping {} 0x100) ∧ reg (.swn 5 6) (sweeping {} 0x100) 5 = BitVec.allOnes 64) ∧
    (let s := sweeping { todo := [0] } 0x100
     Issues (.swn 5 6) s ∧ (run1 (.swn 5 6) s).th.st = .waiting .sweep ∧ (run1 (.swn 5 6) s).th.waitD = 5 ∧ ((run1 (.swn 5 6) s).sweeper 0 0).waiters = [1]) ∧
    (let s := sweeping { pending := [(0, 1, 5)] } 0x100; (run1 (.swn 5 6) s).th.st = .waiting .sweep) := by decide +kernel

theorem witness_SweepersAndQueues_swe :
    (let s := sweeping { count := 5, out := 2, ready := [1] } 0x100
     Issues (.swe 5 6) s ∧ reg (.swe 5 6) s 5 = 3 ∧ ((run1 (.swe 5 6) s).sweeper 0 0).launch = none) ∧
    (let s := sweeping { pass := 2, deferred := 3, out := 4, forced := 5 } 0x100
     Issues (.swstat 5 6) s ∧ reg (.swstat 5 6) s 5 = 2 * 2 ^ 56 + 3 * 2 ^ 38 + 4 * 2 ^ 21 + 5 * 16) ∧
    (let s := sweeping {} 0x200
     Issues (.swn 5 6) s ∧ Issues (.swe 5 6) s ∧ Issues (.swstat 5 6) s ∧ (run1 (.swn 5 6) s).th.eval = 0x200 ∧ (run1 (.swe 5 6) s).th.eval = 0x200 ∧ (run1 (.swstat 5 6) s).th.eval = 0x200 ∧
       (run1 (.swe 5 6) (sweeping {} 0x101)).th.eval = 0x101) := by decide +kernel

theorem witness_SweepersAndQueues_resq :
    Issues (.resq 5 6) (st [(6, win), (7, 65536)]) ∧ reg (.resq 5 6) (st [(6, win), (7, 65)]) 5 = 0 ∧ Issues (.resq 5 6) (st [(7, 65537)]) ∧ (run1 (.resq 5 6) (st [(7, 65537)])).th.eval = 7 := by decide +kernel

theorem witness_SweepersAndQueues_events :
    (let s := sweeping { todo := [4, 5], stride := 0 } 0
     (s.sweeper 0 0).residentPt s 4 = true ∧ (s.sweeper 0 0).ready.length < 64 ∧ ((run1 (.sweeperExamine 0 0) s).sweeper 0 0).ready = [4] ∧ ((run1 (.sweeperExamine 0 0) s).sweeper 0 0).todo = [5]) ∧
    (let s := sweeping { todo := [4, 5] } 0
     (s.sweeper 0 0).residentPt s 4 = false ∧ ((run1 (.sweeperExamine 0 0) s).sweeper 0 0).pending = [(4, 1, 20000)] ∧ ((run1 (.sweeperExamine 0 0) s).sweeper 0 0).deferred = 1) ∧
    (let s := sweeping { todo := [4], pending := [(4, 2, 19000)] } 0
     (s.sweeper 0 0).pending.find? (fun p => decide (p.1 = 4)) = some (4, 2, 19000) ∧ ((run1 (.sweeperExamine 0 0) s).sweeper 0 0).pending = [(4, 3, 19000)]) ∧
    (let s := sweeping { todo := [4], pending := [(4, 3, 19000)] } 0
     ((run1 (.sweeperExamine 0 0) s).sweeper 0 0).pending = [] ∧ ((run1 (.sweeperExamine 0 0) s).sweeper 0 0).ready = [4] ∧ ((run1 (.sweeperExamine 0 0) s).sweeper 0 0).forced = 1) ∧
    (let s := sweeping { todo := [4], pending := [(4, 1, 3616)] } 0
     3616 + 16384 ≤ s.now ∧ ((run1 (.sweeperExamine 0 0) s).sweeper 0 0).forced = 1) ∧
    (let s := sweeping { todo := [4], pending := [(4, 1, 3617)], stride := 0 } 0
     s.now < 3617 + 16384 ∧ (s.sweeper 0 0).residentPt s 4 = true ∧ ((run1 (.sweeperExamine 0 0) s).sweeper 0 0).ready = [4] ∧ ((run1 (.sweeperExamine 0 0) s).sweeper 0 0).forced = 0) ∧
    (let s := sweeping { pending := [(4, 1, 19000)], passAt := 19488 } 0
     19488 + 512 ≤ s.now ∧ ((run1 (.sweeperPassStart 0 0) s).sweeper 0 0).todo = [4] ∧ ((run1 (.sweeperPassStart 0 0) s).sweeper 0 0).passAt = 20000) ∧
    (let s := sweeping { pending := [(4, 1, 19000)], passAt := 19489 } 0
     s.now < 19489 + 512 ∧ run1 (.sweeperPassStart 0 0) s = s) ∧
    (let s := sweeping { pending := [(4, 1, 3616)], todo := [4, 5] } 0
     3616 + 16384 ≤ s.now ∧ ((run1 (.sweeperForce 0 0) s).sweeper 0 0).todo = [5] ∧ ((run1 (.sweeperForce 0 0) s).sweeper 0 0).ready = [4] ∧ ((run1 (.sweeperForce 0 0) s).sweeper 0 0).forced = 1) ∧
    (let s := sweeping { pending := [(4, 1, 3617)] } 0
     s.now < 3617 + 16384 ∧ run1 (.sweeperForce 0 0) s = s) := by decide +kernel

theorem witness_SweepersAndQueues_qnew :
    Issues (.qnew 5 6) (st [(6, 4096)]) ∧ reg (.qnew 5 6) (st [(6, 4096)]) 5 = 0x100 ∧ (run1 (.qnew 5 6) (st [(6, 4096)])).queue 0 0 = { launch := some 0, gen := 1, cap := 4096 } ∧
    reg (.qnew 5 6) (st [(6, 4097)]) 5 = 1 ∧ reg (.qnew 5 6) (st []) 5 = 1 ∧
    (let s := { st [(6, 1)] with clusters := [(0, { queues := (List.range 63).map (fun q => (q, { launch := some 9 })) })] }
     Issues (.qnew 5 6) s ∧ (List.range 63).all (fun q => (s.queue 0 q).launch.isSome) = true ∧ reg (.qnew 5 6) s 5 = 0) := by decide +kernel

theorem witness_SweepersAndQueues_queue :
    (let s := slice 2 { launch := some 0, gen := 1, cap := 2, items := [7] } [(7, 9)]
     Issues (.qenq 6 7) s ∧ s.th.pend = [] ∧ (s.queue 0 2).gen = bits (s.rd 6) 15 8 ∧ ((run1 (.qenq 6 7) s).queue 0 2).items = [7, 9] ∧ Issues (.qdeq 5 6) s ∧ reg (.qdeq 5 6) s 5 = 7 ∧
       ((run1 (.qdeq 5 6) s).queue 0 2).items = [] ∧ Issues (.qtry 5 6 8) s ∧ reg (.qtry 5 6 8) s 5 = 7 ∧ reg (.qtry 5 6 8) s 8 = 1 ∧ reg (.qtry 5 6 5) s 5 = 1 ∧
       Issues (.qfree 5 6) s ∧ reg (.qfree 5 6) s 5 = 0 ∧ ((run1 (.qfree 5 6) s).queue 0 2).launch = none) := by decide +kernel

theorem witness_SweepersAndQueues_full :
    (let s := slice 2 { launch := some 0, gen := 1, cap := 1, items := [7] } [(7, 9)]
     (run1 (.qenq 6 7) s).th.st = .waiting .queue ∧ ((run1 (.qenq 6 7) s).queue 0 2).enqs = [(1, 9)]) := by decide +kernel

theorem witness_SweepersAndQueues_stores : let s : State := { run1 (.st 5 11 3 (.short 0)) (slice 2 { launch := some 0, gen := 1, cap := 1 } [(7, 9), (11, win)]) with now := 9 }
    Issues (.qenq 6 7) s ∧ s.storesOut s.th.tid s.before = true ∧ (run1 (.qenq 6 7) s).th.st = .waiting .ack := by decide +kernel

theorem witness_SweepersAndQueues_blocked :
    (let s := slice 2 { launch := some 0, gen := 1 } []
     (run1 (.qdeq 5 6) s).th.st = .waiting .queue ∧ (run1 (.qdeq 5 6) s).th.waitD = 5 ∧ ((run1 (.qdeq 5 6) s).queue 0 2).deqs = [1] ∧ reg (.qtry 5 6 8) (s.modT (fun t => { t with g := t.g ++ [(8, 3)] })) 8 = 0) ∧
    (let s := slice 2 { launch := some 0, gen := 1, deqs := [4] } []
     reg (.qfree 5 6) s 5 = 1 ∧ reg (.qtry 5 6 8) s 8 = 0) ∧
    (let s := slice 2 { launch := some 1, gen := 1 } []
     Issues (.qenq 6 7) s ∧ Issues (.qdeq 5 6) s ∧ Issues (.qtry 5 6 8) s ∧ Issues (.qfree 5 6) s ∧ (run1 (.qenq 6 7) s).th.eval = 0x102 ∧ (run1 (.qdeq 5 6) s).th.eval = 0x102 ∧
       (run1 (.qtry 5 6 8) s).th.eval = 0x102 ∧ (run1 (.qfree 5 6) s).th.eval = 0x102) := by decide +kernel

/-- An entry of the task queue: a packet in the own scratchpad with its format pointer 0x11 and its scale pointer 0x22. -/
theorem witness_SweepersAndQueues_task :
    let s := { slice 63 { gen := 1, items := [win] } [] with mem := [(spad, 0x11), (spad + 8, 0x22)] }
    Issues (.qdeq 5 6) s ∧ packetPtrs win s = .inr (0x11, 0x22) ∧ reg (.qdeq 5 6) s 5 = win ∧ (run1 (.qdeq 5 6) s).th.ftab = 0x11 ∧ (run1 (.qdeq 5 6) s).th.stab = 0x22 ∧
      Issues (.qfree 5 6) s ∧ (run1 (.qfree 5 6) s).th.eval = 0x13F ∧ Issues (.qenq 6 7) (st [(6, 0x13F), (7, 5)]) ∧
      ((run1 (.qenq 6 7) (st [(6, 0x13F), (7, 5)])).queue 0 63).items = [5] := by decide +kernel
/-! ### Witnesses: control and status registers, and the supervisor -/

/-- Supervisor mode (STATUS.S). -/
def superv (g : KMap Word) : State := { st g with thr := some { thr with g := g, status := 1 } }

theorem witness_ControlRegisters_traps :
    (csrListed 0x0C = false ∧ Issues (.csrr 5 0x0C) (st []) ∧ Issues (.csrw 5 0x7F) (st []) ∧ Issues (.csrx 5 6 0x0C) (st []) ∧ (run1 (.csrr 5 0x0C) (st [])).th.eval = 0x0C ∧
      (run1 (.csrx 5 6 0x0C) (st [])).th.ecause = (run1 (.csrw 5 0x0C) (st [])).th.ecause) ∧
    ((st []).user = true ∧ csrListed 0x01 = true ∧ csrUserPriv 0x01 false = true ∧ csrUserPriv 0 true = true ∧ csrUserPriv 0 false = false ∧ (run1 (.csrr 5 7) (st [])).th.eval = 7 ∧
      bits (run1 (.csrr 5 7) (st [])).th.ecause 7 0 = 2 ∧ (run1 (.csrr 5 0x80) (st [])).th.eval = 0x80 ∧ bits (run1 (.csrw 5 0xFF) (st [])).th.ecause 7 0 = 2) ∧
    ((superv []).user = false ∧ Issues (.csrr 5 0x8C) (superv []) ∧ bits (run1 (.csrr 5 0x8C) (superv [])).th.ecause 7 0 = 1 ∧ reg (.csrr 5 0x8B) (superv []) 5 = 0xFFFFF00000) ∧
    (let s : State := { st [] with thr := some { thr with credits := [(1, 15)] } }
     csrCause s.user 0x15 true = none ∧ s.chanBusy 0x15 = true ∧ s.chanBusy 0x14 = false ∧ s.handoff = false ∧ Issues (.csrw 6 0x15) s ∧ (run1 (.csrw 6 0x15) s).th.st = .waiting (.credit 1) ∧
       (let u : State := { s with slot := 62 }; u.handoff = true ∧ u.chanBusy 0x15 = true ∧ u.th.handler = 0 ∧ run1 (.csrw 6 0x15) u = takeTrap { code := 0x11 } u)) := by decide +kernel

theorem witness_ControlRegisters_reads :
    Issues (.csrr 5 0x20) (st []) ∧ csrCause (st []).user 0x20 false = none ∧ reg (.csrr 5 0x21) (st []) 5 = 0x1E1A0C140604 ∧ reg (.csrr 5 0x22) (st []) 5 = 0x22E5A4C3 ∧
    (let s : State := { st [] with etl := { kernels := [(0, kern)], vq := [{ seq := 0, tid := 1, slot := 0, instr := .vbcast 0 0, scal := [], rm := 0 }] } }
     s.fcsrHeld = true ∧ Issues (.csrr 5 6) s ∧ run1 (.csrr 5 6) s = s) := by decide +kernel

theorem witness_ControlRegisters_writes :
    (Issues (.csrw 6 8) (st [(6, 15)]) ∧ csrCause (st []).user 8 true = none ∧ (st []).chanBusy 8 = false ∧ (run1 (.csrw 6 8) (st [(6, 15)])).th.ls0 = 8 ∧ (run1 (.csrw 6 6) (st [(6, 0xFFF)])).th.fcsr = 0xF1F ∧
      (run1 (.csrw 6 0x14) (st [(6, BitVec.allOnes 64)])).csr 0x14 = Rules.csrPut 0x14 (st []) (BitVec.allOnes 64) ∧ reg (.csrx 5 6 0x10) (st [(6, 3)]) 5 = 0 ∧
      (run1 (.csrw 6 0x10) (st [(6, 3)])).csr 0x10 = 0 ∧ (st []).th.kill = none) ∧
    ((List.range 0x8C).all (fun c => decide (csrCause (superv []).user c true ≠ none ∨ c = 0 ∨ c = 0x8A ∨
      (run1 (.csrw 6 c) (superv [(6, 0xFEDCBA9876543210)])).csr c = Rules.csrPut c (superv [(6, 0xFEDCBA9876543210)]) 0xFEDCBA9876543210)) = true) ∧
    (Issues (.csrw 6 0) (superv [(6, 0x1F)]) ∧ (run1 (.csrw 6 0) (superv [(6, 0x1F)])).th.status = 0x17 ∧ (run1 (.csrx 5 6 0) (superv [(6, 2)])).th.status = 2 ∧ reg (.csrx 5 6 0) (superv [(6, 2)]) 5 = 1) ∧
    (Issues (.csrw 6 0x8A) (superv [(6, 0x38)]) ∧ unitExists 0x38 = true ∧ unitExists 0x34 = false ∧ unitExists 0x83 = true ∧ unitExists 0x84 = false ∧ (run1 (.csrw 6 0x8A) (superv [(6, 0x38)])).myDie.testUnit = some 0x38) := by decide +kernel

/-- An etlet with no kernel, and a launch of two threads on it. -/
def bare : State := { st [] with thr := none, etl := {}, slot := 64 }
def launch2 : Launch := { lch with threads := 2, slotmask := 6, entry := 0x40, args := 9, stack := 0x100 }

theorem witness_Placement : launch2.mode 0 = false ∧ (placeHere 0 launch2 ⟨0, 0, 0, 0⟩ bare).isSome = true ∧
    ((placeHere 0 launch2 ⟨0, 0, 0, 0⟩ bare).map (fun u => (u.etl.slots, u.etl.kernels.map (fun k => (k.1, k.2.launch, k.2.right))))) = some ([(1, 0), (2, 0)], [(0, 0, 1)]) := by decide +kernel

theorem witness_Placement_threads :
    ((placeHere 0 launch2 ⟨0, 0, 0, 0⟩ bare).map (fun u => u.seated.map (fun p => (p.1, p.2.pc, p.2.rank, kgetD p.2.g 2 0, kgetD p.2.g 3 0)))) =
      some [(0, 0x40, 0, 0xFFF000000FFF0000, 9), (1, 0x40, 1, 0xFFF000000FFEFF00, 9)] := by decide +kernel

/-- Two etlets of a cluster that are neighbours in a gang: numbers 0 and 8. -/
def paired (w : TState) : State := { st [(6, 2)] with etlets := [(8, { threads := [(0, { thr with tid := 2, st := w, waitD := 7 })], kernels := [(0, kern)] })] }

theorem witness_SupervisorInstructions_gang :
    (Issues (.gang 5 6) (st []) ∧ reg (.gang 5 6) (st [(6, 3)]) 5 = 2 ∧ (st [(6, 2)]).gangEtlets 2 = [0, 8] ∧ (st [(6, 2)]).gangMate 8 = false ∧ (st [(6, 2)]).gangWaits 8 2 = false ∧
      reg (.gang 5 6) (st [(6, 2)]) 5 = 1) ∧
    (let s : State := { st [(6, 8)] with thr := some { thr with g := [(6, 8)], status := 8 } }
     bits s.th.status 3 3 = 1 ∧ reg (.gang 5 6) s 5 = 3) ∧
    (Issues (.gang 5 6) (paired .ready) ∧ (paired .ready).gangMate 8 = true ∧ (paired .ready).gangWaits 8 2 = false ∧ (run1 (.gang 5 6) (paired .ready)).th.st = .waiting (.gang 2)) ∧
    (let s := paired (.waiting (.gang 2))
     s.gangWaits 8 2 = true ∧ reg (.gang 5 6) s 5 = 0 ∧ (run1 (.gang 5 6) s).th.gangN = 2 ∧ bits (run1 (.gang 5 6) s).th.status 3 3 = 1 ∧
       (kget ((run1 (.gang 5 6) s).etletAt 8).threads 0).map (fun t => (t.st, t.gangN, kgetD t.g 7 9)) = some (.ready, 2, 0)) := by decide +kernel

theorem witness_SupervisorInstructions_launch :
    Issues (.launch 5 6) (st [(6, win)]) ∧ Settled (st []) ∧ (st []).handoff = false ∧ reg (.launch 5 6) (st [(6, win + 8)]) 5 = 1 ∧
    ((launchThread win ((start (st [(6, win)])).acquire 0)).map (fun x => match x with | .inl _ => none | .inr p => some p.1)) = some (some 2) ∧ reg (.launch 5 6) (st [(6, win)]) 5 = 2 ∧
    (launchThread 0 ((start (st [])).acquire 0)).map (fun x => match x with | .inl c => some c.eval | .inr _ => none) = some (some 0) ∧ (run1 (.launch 5 6) (st [])).th.ecause ≠ 0 ∧
    ((st []).launchCheck { lch with place := [4096] } (some 1) 0 0).isLeft = true := by decide +kernel

/-- BENCHO of the own slot 0 and of slot 1, image at the scratchpad's page 1. -/
def supImg (l : Word) : State := superv [(6, l), (7, win + 0x1000)]

theorem witness_SupervisorInstructions_bencho :
    (Issues (.bencho 5 6 7) (supImg 0) ∧ Calm (supImg 0) ∧ (supImg 0).vectorOut = false ∧ (supImg 0).th.partner = none ∧ imageCause .wr ((supImg 0).rd 7) 16384 (supImg 0) = none ∧ (run1 (.bencho 5 6 7) (supImg 0)).thr = none ∧
      (run1 (.bencho 5 6 7) (supImg 0)).etl.bench.map (fun x => (x.tid, x.pc, kgetD x.g 7 0, x.img, x.lastSlot)) = [(1, 8, win + 0x1000, spad + 0x1000, 0)] ∧
      (run1 (.bencho 5 6 7) (supImg 0)).etl.benchW.map (fun w => (w.tid, w.va, w.parts)) = [(1, win + 0x1000, (List.range 4).map (fun i => (spad + 0x1000 + 4096 * i, 4096)))]) ∧
    (reg (.bencho 5 6 7) (supImg 62) 5 = 2 ∧ reg (.bencho 5 6 7) (supImg 61) 5 = 1 ∧ (supImg 61).threadAt 61 = none) ∧
    (let s := superv [(6, 1), (7, win + 1)]
     (imageCause .wr (s.rd 7) 16384 s).isSome = true ∧ (run1 (.bencho 5 6 7) s).th.eval = win + 1) ∧
    (let s : State := { supImg 1 with etl := { kernels := [(0, kern)], threads := [(1, { thr with tid := 2, st := .waiting .mem })] } }
     (s.focus s.eid 1).benchWaits = true ∧ (run1 (.bencho 5 6 7) s).th.st = .waiting .bench) ∧
    (let s : State := (supImg 0).modE (fun e => { e with vq := [vop none] })
     s.vectorOut = true ∧ (run1 (.bencho 5 6 7) s).th.st = .waiting .bench) ∧
    (let s : State := { supImg 1 with etl := { kernels := [(0, kern)], threads := [(1, { thr with tid := 2, pc := 0x80, st := .waiting .sync })] } }
     (s.focus s.eid 1).benchWaits = false ∧ (run1 (.bencho 5 6 7) s).th.pc = 8 ∧ (run1 (.bencho 5 6 7) s).threadAt 1 = none ∧
       (run1 (.bencho 5 6 7) s).etl.bench.map (fun x => (x.tid, x.pc, x.lastSlot)) = [(2, 0x80, 1)]) := by decide +kernel

/-- A context of launch 0 on the bench, its image at the scratchpad's page 1. -/
def benched (k : KMap Kernel) : State := { superv [(6, win + 0x1000)] with etl := { kernels := k, bench := [{ thr with tid := 2, lk := 0, img := spad + 0x1000, limit := 8 }] } }

theorem witness_SupervisorInstructions_benchi :
    (Issues (.benchi 5 6 7) (benched [(0, kern)]) ∧ ((benched [(0, kern)]).benchAt ((benched [(0, kern)]).gpaOf .rd (win + 0x1000))).isSome = true ∧
      imageCause .rd (win + 0x1000) 1 (benched [(0, kern)]) = none ∧ reg (.benchi 5 6 7) (benched [(0, kern)]) 5 = 1 ∧
      ((run1 (.benchi 5 6 7) (benched [(0, kern)])).threadAt 1).map (·.tid) = some 2 ∧ (run1 (.benchi 5 6 7) (benched [(0, kern)])).etl.bench.length = 0) ∧
    (reg (.benchi 5 6 7) (superv [(6, win + 0x1000)]) 5 = 65 ∧ imageCause .rd (win + 0x1000) 16384 (superv [(6, win + 0x1000)]) = none ∧ (superv [(6, win + 0x1000)]).imageAt (win + 0x1000) = none ∧
      (superv [(6, win + 0x1000)]).readWaits (spad + 0x1000) 4096 = false ∧ (superv [(6, win + 0x1000)]).abortsR (spad + 0x4000) = false) ∧
    (reg (.benchi 5 6 7) ((benched [(0, kern)]).modT (fun t => { t with g := t.g ++ [(7, 1)] })) 5 = 65) ∧
    (let s : State := { benched [(0, kern)] with etlets := [(8, { sbuf := [{ slot := 0, tid := 2, gpa := 0x10000, width := 8, data := 0, key := 1, va := 0 }] })] }
     s.storesElsewhere 2 = true ∧ Settled s ∧ (run1 (.benchi 5 6 7) s).th.st = .waiting .reach) ∧
    (let s : State := { benched [(0, { kern with launch := 3 })] with thr := some { thr with g := [(6, win + 0x1000)], status := 1, kid := 0 } }
     s.kernelOf 0 = none ∧ reg (.benchi 5 6 7) s 5 = 65) ∧
    (let s : State := { benched [(0, kern)] with etl := { (benched [(0, kern)]).etl with threads := (List.range 62).map (fun i => (i + 1, { thr with limit := 0, vlimit := 0 })) } }
     s.freeThreadSlot = none ∧ reg (.benchi 5 6 7) s 5 = 64) ∧
    (let s := superv [(6, 1)]; (imageCause .rd 1 16384 s).isSome = true ∧ (run1 (.benchi 5 6 7) s).th.eval = 1) := by decide +kernel

theorem witness_SupervisorInstructions_mapset :
    (Issues (.mapset 5 6) (superv []) ∧ (superv []).mapped.isSome = true ∧ reg (.mapset 5 6) (superv [(6, 0x1000)]) 5 = 3 ∧ reg (.mapset 5 6) (superv []) 5 = 1) ∧
    (let s := (superv []).modE (fun e => { e with cmapix := 1 }); s.mapped = none ∧ reg (.mapset 5 6) s 5 = 3) ∧
    (let s : State := { superv [(6, 1)] with launches := [(0, { lch with place := [2], live := [16] })], pkgs := [(0, { ready := BitVec.allOnes 64, dies := 15, clusters := [(0, 1)] })] }
     s.etlets = [] ∧ s.placeable 8 = true ∧ etletEid 0 16 = 128 ∧ s.placeable 128 = false ∧ reg (.mapset 5 6) (s.modT (fun t => { t with g := [(6, 16)] })) 5 = 2 ∧ etletEid 0 1 = 8 ∧ etletEid 0 2 = 16 ∧ reg (.mapset 5 6) s 5 = 0 ∧ (kget (run1 (.mapset 5 6) s).launches 0).map (fun l => (l.cmap, l.live)) = some ([(0, 1)], [8])) := by decide +kernel

theorem witness_SupervisorInstructions_keys :
    (let s : State := { superv [(6, 0), (7, 0x10000)] with etl := { kernels := [(0, kern)], tcache := [⟨0, 0, 0, 1⟩, ⟨0, 0, 0, 2⟩] } }
     Issues (.xinv 5 6 7) s ∧ canonical 0 = true ∧ bits (0x10000 : Word) 63 30 = 0 ∧ reg (.xinv 5 6 7) s 5 = 0 ∧ (run1 (.xinv 5 6 7) s).etl.tcache = [⟨0, 0, 0, 2⟩]) ∧
    ((run1 (.xinv 5 6 7) (superv [(6, 0x1000000000000000), (7, 0)])).th.eval = 0x1000000000000000 ∧ (run1 (.xinv 5 6 7) (superv [(7, 3)])).th.eval = 7) ∧
    (Issues (.keyset 5 6) (superv [(6, win)]) ∧ (superv [(6, win)]).keyInUse 0 0 = false ∧ reg (.keyset 5 6) (superv [(6, win)]) 5 = 0 ∧ kget ((run1 (.keyset 5 6) (superv [(6, win)])).pkg 0).keys 0 = some 0 ∧
      (readWords 8 win (superv [])).isRight = true) ∧
    (let s := (superv [(6, win)]).modE (fun e => { e with keyslot := 1 }); s.keyInUse 0 1 = true ∧ reg (.keyset 5 6) s 5 = 1) ∧
    (wordsWait 8 win ((start (superv [(6, win)])).acquire 0) = false ∧
     let s : State := { hbm [(6, 0x10000)] with thr := some { thr with g := [(6, 0x10000)], status := 1 }, dies := [(0, { testUnit := some (0x40 + homeCluster 0x10000 % 64) })] }
     Issues (.keyset 5 6) s ∧ Settled s ∧ wordsWait 8 0x10000 ((start s).acquire 0) = true ∧ (run1 (.keyset 5 6) s).th.st = .waiting .reach ∧
       listWait 4 1 0x10004 s = true ∧ hostWait 0x10000 128 s = true) ∧
    ((run1 (.keyset 5 6) (superv [(6, win + 8)])).th.eval = win + 8 ∧ (readWords 8 0 (superv [])).isLeft = true ∧ (run1 (.keyset 5 6) (superv [])).th.ecause ≠ 0) ∧
    (Issues (.selft 5 6) (superv [(6, 0x38)]) ∧ unitReady ((superv []).pkg 0) 0 0x38 = true ∧ (run1 (.selft 5 6) (superv [(6, 0x38)])).th.st = .waiting .mem ∧ (run1 (.selft 5 6) (superv [(6, 0x38)])).myDie.testUnit = some 0x38 ∧
      reg (.selft 5 6) (superv [(6, 0x34)]) 5 = 3 ∧ reg (.selft 5 6) { superv [(6, 0x40)] with pkgs := [(0, { ready := BitVec.allOnes 64, clusters := [(0, BitVec.allOnes 64)] })] } 5 = 4 ∧
      reg (.selft 5 6) { superv [(6, 0x38)] with dies := [(0, { testUnit := some 1 })] } 5 = 2) := by decide +kernel
/-! ### Witnesses: the host port and the platform -/

/-- Package 0 with running queues, command `op` in progress, and no thread. -/
def hostS (op : Nat) : State := { pkgs := [(0, { running := true, hseqacc := 1, cdoor := 5, cmd := some (1, [1, 0, 0, 0, 0, 0, 0, 0, BitVec.ofNat 8 op]), rqbase := 0x1000, rqrun := 0x1000, cqbase := 0x8000, cqrun := 0x8000 })] }
def hostIdle : State := { pkgs := [(0, { running := true, cdoor := 1, cqbase := 0x8000, cqrun := 0x8000 })] }
/-- The command queue's first command: HSEQ `h`, opcode `op`. -/
def hostCmd (h op : Byte) : State := { hostIdle with mem := [(hostAddr 0 0x8000, h), (hostAddr 0 0x8008, op)] }

theorem witness_HostEvents_commands :
    (kget (hostS 1).pkgs 0).isSome = true ∧ MemOk (hostS 1) ∧
    ((hostS 1).pkg 0).ringFull = false ∧ ((hostS 1).pkg 0).backlog = [] ∧ ((hostS 1).pkg 0).restart = false ∧ ((hostS 1).pkg 0).dseqiss.toNat + 1 < 2 ^ 64 ∧
    ((List.range 6).all (fun i => ((hostS (i + 1)).command 0 (i + 1)).isSome && ((hostS (i + 1)).command 0 (i + 2)).isNone)) = true ∧
    ((run1 (.init 0) (hostS 1)).pkg 0).running = true ∧ ((run1 (.init 0) (hostS 1)).pkg 0).hseqacc = 0 ∧
    ((run1 (.fwload 0) (hostS 6)).pkg 0).dseqiss = 1 ∧ run1 (.fwload 0) (hostS 5) = hostS 5 ∧
    run1 (.hostLaunch 0) (hostS 5) = hostS 5 ∧ run1 (.init 0) (hostS 5) = hostS 5 := by decide +kernel

theorem witness_HostEvents_reset : let s : State := { st [] with pkgs := [(0, { ready := 5, running := true, flash := [(0, 7)], ports := [(1, {})] })] }
    let t := run1 .powerOnReset s
    MemOk s ∧ t.thr = none ∧ t.launches = [] ∧ (t.pkg 0).ready = 0 ∧ (t.pkg 0).retired = [] ∧ (t.pkg 0).flash = [(0, 7)] ∧ (t.pkg 0).running = false ∧ (t.pkg 0).uvEn = 0xFFFFF ∧
      run1 (.functionReady 0 324) s = s := by decide +kernel

/-- R93: the table of retired rows makes every page unusable that holds part of one. -/
theorem test_retired : ((run1 .powerOnReset { st [] with pkgs := [(0, { retireTable := [65536] })] }).pkg 0).retired = rowPages 65536 ++ [] := rfl

theorem witness_HostEvents_fetch :
    (run1 (.commandFetch 0) { hostIdle with pkgs := [(0, { running := true })] } = { hostIdle with pkgs := [(0, { running := true })] }) ∧
    (wd ((hostCmd 1 2).rdMem 0 (hostAddr 0 0x8000) 8) = 1 ∧ ((hostCmd 1 2).byte 0 (hostAddr 0 0x8008)).toNat = 2 ∧ MemOk (hostCmd 1 2) ∧
      (((run1 (.commandFetch 0) (hostCmd 1 2)).pkg 0).cmd.map (fun c => (c.1, c.2.length, c.2.getD 8 0))) = some (1, 64, 2) ∧ ((run1 (.commandFetch 0) (hostCmd 1 2)).pkg 0).hseqacc = 1) ∧
    (((run1 (.commandFetch 0) (hostCmd 2 2)).pkg 0).stopped = true ∧ ((run1 (.commandFetch 0) (hostCmd 2 2)).pkg 0).dseqiss = 1 ∧ ((run1 (.commandFetch 0) (hostCmd 2 2)).pkg 0).hseqacc = 0) ∧
    (((run1 (.commandFetch 0) (hostCmd 1 7)).pkg 0).cmd = none ∧ ((run1 (.commandFetch 0) (hostCmd 1 7)).pkg 0).dseqiss = 1 ∧ ((run1 (.commandFetch 0) (hostCmd 1 7)).pkg 0).hseqacc = 1) := by decide +kernel

theorem witness_HostEvents_registers :
    (((run1 (.cdoor 0 4097) (hostS 1)).pkg 0).cdoor = 4097 ∧ ((run1 (.cdoor 0 4098) (hostS 1)).pkg 0).cdoor = 5 ∧ ((run1 (.cdoor 0 1) (hostS 1)).pkg 0).cdoor = 5 ∧ ((run1 (.cdoor 0 3) (hostS 1)).pkg 0).cdoor = 5) ∧
    (run1 (.qstart 0 2) (hostS 1) = hostS 1 ∧ ((run1 (.qstart 0 1) (hostS 1)).pkg 0).restart = true ∧ (hostIdle.pkg 0).cmd = none ∧ ((run1 (.qstart 0 3) hostIdle).pkg 0).cdoor = 0) ∧
    (((run1 (.registerWrite 0 0x2000 0x12345) (hostS 1)).pkg 0).cqbase = 0x12000 ∧ ((run1 (.registerWrite 0 0x2008 0x12FFF) (hostS 1)).pkg 0).rqbase = 0x12000 ∧
      run1 (.registerWrite 0 0xFFF8 7) (hostS 1) = hostS 1) ∧
    ((hostIdle.pkg 0).backlog = [] ∧ ((run1 (.rheadAdvance 0 9) hostIdle).pkg 0).rhead = 9) ∧
    (let s : State := { pkgs := [(0, { dseqiss := 4096, rqrun := 0x1000, backlog := [(7, 2, 5)] })] }
     let t := run1 (.rheadAdvance 0 1) s
     ((4096 : Word) - 1).toNat < 4096 ∧ (s.pkg 0).ringFull = true ∧ (t.pkg 0).backlog = [] ∧ (t.pkg 0).dseqiss = 4097 ∧ (s.pkg 0).restart = false ∧ t.rdMem 0 (hostAddr 0 0x1000) 8 = 4097 ∧ t.rdMem 0 (hostAddr 0 0x1008) 8 = 7 ∧
       t.rdMem 0 (hostAddr 0 0x1010) 2 = 2 ∧ t.rdMem 0 (hostAddr 0 0x1018) 8 = 5) := by decide +kernel

/-- A migration of one 64 KiB page of HBM to the next. -/
def moving (busy : Bool) (src : Word) (moved : Bool := false) : State := { st [] with dies := [(0, { mig := { src := src, dst := 0x100000000000, size := 0, entry := 0x40, newleaf := 0x100000000043, score := 0x300000000, busy := busy, moved := moved, status := 3 } })] }

theorem witness_PlatformEvents_migration :
    (run1 (.migrationGo 0 2) (moving false 0x10000) = moving false 0x10000 ∧ run1 (.migrationGo 0 1) (moving true 0x10000) = moving true 0x10000) ∧
    ((kgetD (moving false 1).dies 0 {}).mig.bad 0 = true ∧ (kgetD (run1 (.migrationGo 0 1) (moving false 1)).dies 0 {}).mig.status = 2) ∧
    ((kgetD (moving false 0x10000).dies 0 {}).mig.bad 0 = false ∧ (moving false 0x10000).feq = [] ∧ (kgetD (run1 (.migrationGo 0 1) (moving false 0x10000)).dies 0 {}).mig.busy = true) ∧
    run1 (.migrationComplete 0) (moving false 0) = moving false 0 ∧
    (let s := moving true 0x10000
     MemOk s ∧ (kgetD (run1 (.migrationComplete 0) s).dies 0 {}).mig.moved = true ∧ (kgetD (run1 (.migrationComplete 0) s).dies 0 {}).mig.busy = true ∧
       memRd (run1 (.migrationComplete 0) s).mem 0x40 = 0x43 ∧ memRd (run1 (.migrationComplete 0) s).mem 0x45 = 0x10) ∧
    (let s := moving true 0x10000 true
     s.accessOut 2 0 (fun g _ _ => decide (0x10000 ≤ g ∧ g < 0x10000 + 65536)) = false ∧ s.scoreOf (kgetD s.dies 0 {}).mig = some (0, 3) ∧ s.etl.trigs.length = 0 ∧ kgetD s.etl.scWait 3 [] = [] ∧
       (kgetD (run1 (.migrationComplete 0) s).dies 0 {}).mig.busy = false ∧ (kgetD (run1 (.migrationComplete 0) s).dies 0 {}).mig.status = 0 ∧ kgetD (run1 (.migrationComplete 0) s).etl.sc 3 0 = 1) ∧
    (let s : State := { moving true 0x10000 true with etl := { kernels := [(0, kern)], sbuf := [{ slot := 0, tid := 1, gpa := 0x1FFF8, width := 8, data := 0, key := 1, va := 0 }] } }
     s.accessOut 2 0 (fun g _ _ => decide (0x10000 ≤ g ∧ g < 0x10000 + 65536)) = true ∧ run1 (.migrationComplete 0) s = s) := by decide +kernel

theorem witness_PlatformEvents_tests :
    (let s := st []
     unitExists 0x34 = false ∧ run1 (.stestStart 0 0x34) s = s ∧ (kgetD (run1 (.stestStart 0 0x83) s).dies 0 {}).testUnit = some 0x83 ∧ run1 (.selfTestComplete 0 true) s = s) ∧
    (let s : State := { st [] with dies := [(0, { testUnit := some 3 })] }
     run1 (.stestStart 0 1) s = s ∧ (kgetD (run1 (.selfTestComplete 0 true) s).dies 0 {}).testUnit = none) ∧
    (let s : State := { waits .mem with dies := [(0, { testUnit := some 0x38, testTid := some 1 })] }
     s.th.st = .waiting .mem ∧ s.th.waitD < 112 ∧ reg (.selfTestComplete 0 true) s 5 = 0 ∧ reg (.selfTestComplete 0 false) s 5 = 1 ∧ (kgetD (run1 (.selfTestComplete 0 false) s).dies 0 {}).testFailed = true ∧
       (run1 (.selfTestComplete 0 true) s).th.st = .ready) := by decide +kernel

theorem witness_PlatformEvents_volts :
    (let s := st []
     run1 (.uvFreeze 0 20) s = s ∧ (s.pkg 0).uvFrozen < 2 ^ 20 ∧ (s.pkg 0).uvEn < 2 ^ 20 ∧ ((run1 (.uvFreeze 0 19) s).pkg 0).uvFrozen = 2 ^ 19 ∧ ((run1 (.uvEnableWrite 0 0 false) s).pkg 0).uvEn = 0xFFFFE ∧
       (kgetD ((run1 (.uvStep 0 0 true) s).pkg 0).uv 0 {}).step = 1) ∧
    (let s : State := { pkgs := [(0, { uvFrozen := 1, uv := [(0, { step := 4, errors := [7], measuring := some 0 })] })], now := 2 ^ 20 }
     ((run1 (.uvUnfreeze 0 0) s).pkg 0).uvFrozen = 0 ∧ (kgetD ((run1 (.uvStep 0 0 true) s).pkg 0).uv 0 {}).step = 4 ∧
       (let u : State := { s with now := 2 ^ 20 - 1 }
        (kgetD (u.pkg 0).uv 0 {}).measuring = some 0 ∧ u.now < 0 + 2 ^ 20 ∧ kgetD ((run1 (.uvMeasureEnd 0 0 true) u).pkg 0).uv 0 {} = kgetD (u.pkg 0).uv 0 {})) ∧
    (let s : State := { pkgs := [(0, { uvEn := 0, uv := [(0, { step := 4 })] })] }; (kgetD ((run1 (.uvStep 0 0 false) s).pkg 0).uv 0 {}).step = 0) := by decide +kernel

theorem witness_PlatformEvents_power :
    kgetD (kgetD (run1 (.mfqset 0 (4 * 2 ^ 32 + 4095)) (st [])).domains 0 {}).quota 4095 (0, 0) = (4, 0) ∧
    (let t := run1 (.powerSample 0 5 700000) (st []); kgetD (t.pkg 0).power 5 0 = 700000 ∧ (kgetD t.dies 1 {}).limit = 1) ∧
    (let s : State := { st [] with dies := [(1, { limit := 3 })] }; (kgetD (run1 (.powerSample 0 5 699999) s).dies 1 {}).limit = 2) ∧
    (let s : State := { st [] with dies := [(0, { accesses := 2 ^ 20 + 1, heat := [(0, 7)] })] }; (kgetD (run1 (.pageHeatHalve 0) s).dies 0 {}).heat = [(0, 3)] ∧ (kgetD (run1 (.pageHeatHalve 0) s).dies 0 {}).accesses = 1) ∧
    run1 (.pageHeatHalve 0) { st [] with dies := [(0, { accesses := 2 ^ 20 - 1 })] } = { st [] with dies := [(0, { accesses := 2 ^ 20 - 1 })] } ∧
    (let s : State := { st [] with now := 5000 }
     stopExists 0 1 2 = true ∧ (kgetD (run1 (.loopSlotReserve 0 1 2) s).dies 0 {}).reserved = [(1, 2)] ∧ (kgetD s.dies 0 {}).stopAt 1 2 + 4096 ≤ s.now ∧ (kgetD (run1 (.loopStopPowerDown 0 1 2) s).dies 0 {}).stopsOff = [(1, 2)] ∧
       stopExists 0 28 99 = false ∧ run1 (.loopSlotReserve 0 28 99) s = s) ∧
    (let s : State := { st [] with now := 5000, dies := [(0, { stopsOff := [(1, 2)], reserved := [(1, 2)] })] }
     let t := run1 (.loopStopWake 0 1 2) s
     (kgetD t.dies 0 {}).stopsOff = [] ∧ (kgetD t.dies 0 {}).reserved = [] ∧ (kgetD t.dies 0 {}).stopAt 1 2 = 5000 ∧ t.now < (kgetD t.dies 0 {}).stopAt 1 2 + 4096 ∧ (kgetD (run1 (.loopStopPowerDown 0 1 2) t).dies 0 {}).stopsOff = []) := by decide +kernel

theorem witness_PlatformEvents_errors :
    ((kgetD (run1 (.errorDetected 0 0x38 0 true) (st [])).dies 0 {}).corrected = 1 ∧ (kgetD (run1 (.errorDetected 0 0x38 0 true) (st [])).dies 0 {}).testUnit = some 0x38) ∧
    (let s : State := { waits .mem with etl := { kernels := [(0, kern)], reqs := [(0, { seq := 0, slot := 0, tid := 1, op := .ldf, gpa := 65, va := 0, key := 1, scope := 0, ca := false, sent := 0 })] } }
     s.etlets = [] ∧ (kgetD (run1 (.errorDetected 0 0x38 64 false) s).dies 0 {}).irq = true ∧ ((kget (run1 (.errorDetected 0 0x38 64 false) s).etl.reqs 0).map (·.reply)) = some (some .abort)) := by decide +kernel
/-! ### Witnesses: what completes instructions, and the fabric -/

def withThr (f : Thread → Thread) : State := { st [] with thr := some (f thr) }
def cause7 : Cause := { code := 7, eval := 3 }

theorem witness_CompletionEvents_traps :
    ((st []).thr.isSome = true ∧ (st []).handoff = false ∧ (st []).th.status.getLsbD 4 = false ∧ (st []).th.gangN = 0 ∧ (run1 (.illegalEncoding 9) (st [])).th.eval = 9 ∧
      bits (run1 (.illegalEncoding 9) (st [])).th.ecause 7 0 = 1 ∧ (run1 (.illegalEncoding 9) (st [])).th.pc = 0x8000 ∧ (run1 (.illegalEncoding 9) (st [])).th.status = 0x11 ∧
      bits (run1 (.fetchFault 4) (st [])).th.ecause 7 0 = 4) ∧
    run1 (.eventDelivery 0 0) (st []) = st [] ∧
    (let s := withThr (fun t => { t with events := [cause7, {code := 6}] })
     s.th.st = .ready ∧ s.th.votes = [] ∧ s.th.partner = none ∧ s.th.deferred = none ∧ (run1 (.eventDelivery 0 0) s).th.events = [{ code := 6 }] ∧ (run1 (.eventDelivery 0 0) s).th.eval = 3) ∧
    (let s : State := { withThr (fun t => { t with yieldAt := some (4, [2]) }) with now := 68 }
     4 + 64 ≤ s.now ∧ (run1 (.yieldExpiry 0 0) s).th.yieldAt = none ∧ (run1 (.yieldExpiry 0 0) { s with now := 67 }).th.yieldAt = some (4, [2])) := by decide +kernel

/-- A walk for the address 0 that the cluster's cache answers. -/
def entry : TEntry := ⟨0, 0, 0x3F, 1⟩

theorem witness_CompletionEvents_walk :
    (let s := withThr (fun t => { t with st := .waiting (.walk 0) })
     walkResult 0 s = none ∧ bits (run1 (.translationWalkComplete 0 0) s).th.ecause 7 0 = 4) ∧
    (let s : State := { withThr (fun t => { t with st := .waiting (.walk 0) }) with clusters := [(0, { tcache := [entry] })] }
     walkResult 0 s = some entry ∧ (run1 (.translationWalkComplete 0 0) s).th.st = .ready ∧ (run1 (.translationWalkComplete 0 0) s).etl.tcache = [entry]) := by decide +kernel

def posted (d : Nat) : SEntry := { slot := 0, tid := 1, gpa := spad, width := 8, data := 0, key := 1, va := 0x40, done := d }

theorem witness_CompletionEvents_stores :
    (let s := (st []).modE (fun e => { e with posted := [posted 0, posted 1] })
     s.etl.posted.find? (fun y => decide (y.done ≠ 0)) = some (posted 1) ∧ Quiet s ∧ (run1 (.storeReply 0) s).etl.posted = [posted 0]) ∧
    (let s := (st []).modE (fun e => { e with posted := [posted 2] })
     Quiet s ∧ s.etlets = [] ∧ s.th.events.length < 8 ∧ s.th.policy.toNat % 4 = 0 ∧ (run1 (.storeReply 0) s).etl.posted = [] ∧ (run1 (.storeReply 0) s).th.events = [{ code := 6, eval := 0x40, imp := true }]) ∧
    (let s := (st []).modE (fun e => { e with posted := [posted 3] }); (run1 (.storeReply 0) s).th.events = [{ code := 0x0D, eval := 0x40, imp := true }]) := by decide +kernel

theorem witness_CompletionEvents_exit :
    run1 (.exitComplete 0 0) (st []) = st [] ∧
    (let s := withThr (fun t => { t with st := .waiting .exitDrain })
     s.th.gangN = 0 ∧ s.th.partner = none ∧ s.pending = false ∧ ((drainMine s).focus 0 0).exitReady = true ∧ s.etlets = [] ∧ s.objs = [] ∧ (run1 (.exitComplete 0 0) s).thr = none) ∧
    (let s := (withThr (fun t => { t with st := .waiting .exitDrain })).modE (fun e => { e with sbuf := [posted 0] })
     ((drainMine s).focus 0 0).exitReady = false ∧ run1 (.exitComplete 0 0) s = drainMine s ∧ (drainMine s).etl.sbuf.length = 1) := by decide +kernel

/-- Launch 0 has ended on an etlet that holds no kernel any more. -/
def ended (a : Nat) : State := { bare with launches := [(0, { lch with ended := true, doneAddr := a, doneVal := 0x0102 })] }

theorem witness_CompletionEvents_launch :
    ((kget (ended 0).launches 0).isSome = true ∧ (ended 0).drained 0 = true ∧ (kget (run1 (.launchCompletionWrite 0 0) (ended 0)).launches 0).map (·.done) = some true) ∧
    run1 (.launchCompletionWrite 0 0) (st []) = st [] ∧
    ((ended spad).aborts spad = false ∧ MemOk (ended spad) ∧ regionOf spad = 2 ∧ (ended spad).migCopy spad = none ∧ (run1 (.launchCompletionWrite 0 0) (ended spad)).mem = [(spad, 2), (spad + 1, 1)]) := by decide +kernel

def imageW (ps : List (Nat × Nat)) : BenchW := { no := 0, key := 1, parts := ps }

theorem witness_CompletionEvents_images :
    (let s := (st []).modE (fun e => { e with benchW := [imageW [(spad, 8), (spad + 4096, 8)]] })
     MemOk s ∧ (kset s.etl.threads s.slot s.thr).any (fun x => match x.2.st with | .waiting (.benchSelf _) => true | _ => false) = false ∧ s.survivor spad = spad ∧ s.aborts spad = false ∧ s.lost spad = false ∧
       ((List.range 8).all (fun j => s.owns 1 (spad + j) && decide (s.migCopy (spad + j) = none ∧ regionOf (spad + j) < 3))) = true) ∧
    (let s := (st []).modE (fun e => { e with benchW := [imageW [(spad, 0), (spad + 4096, 8)]] })
     (run1 (.benchImageWrite 0) s).etl.benchW = [imageW [(spad + 4096, 8)]] ∧ (run1 (.benchImageWrite 0) (run1 (.benchImageWrite 0) s)).etl.benchW.length = 0) := by decide +kernel

def group : FaggGroup := { gpa := spad, width := 4, kid := 0, key := 1, va := win, opened := 16, members := [{ tid := 1, y := 5, va := win }] }

theorem witness_CompletionEvents_fagg :
    (let s := (waits .mem).modE (fun e => { e with fagg := [{ group with opened := 17 }] })
     s.etl.fagg.find? (fun g => g.reply.isSome) = none ∧ s.etl.fagg.find? (fun g => g.closed s.now && g.sent.isNone) = none ∧ run1 (.faggGroupClose 0) s = s) ∧
    (let s : State := { (waits .mem).modE (fun e => { e with fagg := [group] }) with mem := [(spad, 0xFE), (spad + 1, 0xFF), (spad + 2, 0xFF), (spad + 3, 0xFF)] }
     s.etl.fagg.find? (fun g => g.reply.isSome) = none ∧ s.etl.fagg.find? (fun g => g.closed s.now && g.sent.isNone) = some group ∧ onPkg 0 spad = true ∧ s.requestHeld 0 (group.req s.now) = false ∧
       Quiet s ∧ s.abortsR spad = false ∧ s.hazardAt spad 4 = false ∧ s.migCopy spad = none ∧
       MemOk s ∧ reg (.faggGroupClose 0) s 5 = 0xFFFFFFFFFFFFFFFE ∧ (run1 (.faggGroupClose 0) s).th.st = .ready ∧ (run1 (.faggGroupClose 0) s).mem = [(spad, 3)]) ∧
    (let s := (waits .mem).modE (fun e => { e with fagg := [{ group with gpa := 2 ^ 47 }], reqSeq := 2 ^ 24 - 1 })
     onPkg 0 (2 ^ 47) = false ∧ (run1 (.faggGroupClose 0) s).etl.fagg.map (fun g => (g.seq, g.sent)) = [(2 ^ 24 - 1, some 24)] ∧ (run1 (.faggGroupClose 0) s).etl.reqSeq = 0) ∧
    (let s := (waits .mem).modE (fun e => { e with fagg := [group], posted := [{ slot := 0, tid := 1, gpa := spad, width := 8, data := 0, key := 1, va := 0 }] })
     s.requestHeld 0 (group.req s.now) = true ∧ run1 (.faggGroupClose 0) s = s) := by decide +kernel

/-- A request of the thread to package 1's HBM, sent at cycle 0. -/
def away : Req := { seq := 0, slot := 0, tid := 1, op := .load 8 false, gpa := 2 ^ 47, va := 0x40, key := 1, scope := 0, ca := false, sent := 0 }
def asking (q : Req) (port : Nat) (n : Nat) : State :=
  { waits .mem with etl := { kernels := [(0, kern)], reqs := [(0, q)] }, now := n,
                    pkgs := [(0, { ready := BitVec.allOnes 64, ports := [(18, { state := port })] }),
                      (1, { ready := BitVec.allOnes 64, dies := 15, clusters := (List.range 4).map (fun d => (d, BitVec.allOnes 64)) })],
                    dies := [(4, { dedup := [⟨0, 0, .val 7, n⟩] })] }

theorem witness_CompletionEvents_requests :
    (onPkg 0 away.gpa = false ∧ gpaPkg away.gpa = 1 ∧ homeDie away.gpa = 4 ∧
      (let s := asking away 1 55001
       s.etl.reqs.find? (fun r => decide (r.2.seq = 0) && !r.2.op.mf && !onPkg 0 r.2.gpa) = some (0, away) ∧ away.come = false ∧ away.sent + 55000 < s.now ∧ run1 (.requestArrival 0 0) s = s)) ∧
    (let s := asking away 1 55000
     s.now ≤ away.sent + 55000 ∧ (usePort 0 0 1 s).map (fun u => (u.dedupOf 4 0 0, kget (u.pkg 0).flows (flowId 0 0 1))) = some (some (.val 7), some { port := 18, last := 55000 }) ∧
       (kget (run1 (.requestArrival 0 0) s).etl.reqs 0).map (·.reply) = some (some (.val 7))) ∧
    ((usePort 0 0 1 (asking away 3 0)).isNone = true ∧ run1 (.requestArrival 0 0) (asking away 3 0) = asking away 3 0) ∧
    ((kget (run1 (.requestResend 0 0) (asking away 1 22000)).etl.reqs 0).map (·.sends) = some 2 ∧ (kget (run1 (.requestResend 0 0) (asking away 1 21999)).etl.reqs 0).map (·.sends) = some 1) := by decide +kernel

/-- The request executes at its target: a load, and an atomic that adds 5. -/
theorem witness_CompletionEvents_executes :
    (let s : State := { (asking away 1 0).wrMem 1 (2 ^ 47) 8 9 with dies := [] }
     (usePort 0 0 1 s).map (fun u => (u.dedupOf 4 0 0, u.requestHeld 0 away, u.abortsR away.gpa)) = some (none, false, false) ∧ regionOf away.gpa = 0 ∧
       (kget (run1 (.requestArrival 0 0) s).etl.reqs 0).map (·.reply) = some (some (.val 9))) ∧
    (let q := { away with op := .amo 0 8 5 }
     let s : State := { (asking q 1 0).wrMem 1 (2 ^ 47) 8 9 with dies := [] }
     MemOk s ∧ s.migCopy q.gpa = none ∧ (∀ j, j < 8 → s.owns 1 (q.gpa + j) = true) ∧
       (usePort 0 0 1 s).map (fun u => (u.dedupOf 4 0 0, u.dedupRoom 4, u.requestHeld 0 q, u.aborts q.gpa, u.hazardAt q.gpa 8)) = some (none, true, false, false, false) ∧
       (kget (run1 (.requestArrival 0 0) s).etl.reqs 0).map (·.reply) = some (some (.val 9)) ∧ (run1 (.requestArrival 0 0) s).rdMem 1 (2 ^ 47) 8 = 14 ∧
       (run1 (.requestArrival 0 0) s).dedupOf 4 0 0 = some (.val 9)) := by decide +kernel

theorem witness_CompletionEvents_timeouts :
    (let s := asking away 1 110000
     s.etl.reqs.find? (fun r => decide (r.2.seq = 0 ∧ r.2.sent + 110000 ≤ s.now) && !r.2.op.mf && !onPkg 0 r.2.gpa) = some (s.slot, away) ∧ Quiet s ∧ s.th.st = .waiting .mem ∧
       bits (run1 (.requestTimeout 0 0) s).th.ecause 7 0 = 6 ∧ (run1 (.requestTimeout 0 0) s).th.eval = 0x40) ∧
    run1 (.requestTimeout 0 0) (asking away 1 109999) = asking away 1 109999 ∧
    (let s : State := { st [] with now := 70400, dies := [(0, { dedup := [⟨0, 0, .abort, 0⟩, ⟨0, 1, .abort, 1⟩] })] }; (kgetD (run1 (.dedupExpiry 0) s).dies 0 {}).dedup = [⟨0, 1, .abort, 1⟩]) ∧
    (let s : State := { st [] with clusters := [(0, { writes := [3, 4] })] }; (kgetD (run1 (.memoryWriteComplete 0 3) s).clusters 0 {}).writes = [4]) := by decide +kernel

/-- Package 0 with port 3. -/
def wired (x : Port) : State := { st [] with pkgs := [(0, { ready := BitVec.allOnes 64, ports := [(3, x), (5, { state := 1 })], crit := [(9, [1, 2])], flows := [(7, { port := 3 }), (8, { port := 5 })] }), (9, { critSent := [{ no := 3, ports := [0], what := .port 1 2 }] })] }
def port3 (i : Instr) (x : Port) : Port := kgetD ((run1 i (wired x)).pkg 0).ports 3 {}

theorem witness_FabricEvents_flits :
    (kget (wired {}).pkgs 0).isSome = true ∧ port3 (.flitReceive 0 3 0 true true) { state := 2 } = { state := 2 } ∧
    port3 (.flitReceive 0 3 0 true false) { state := 1, auth := 2 } = { state := 3, auth := 3, lacks := some 0 } ∧ port3 (.flitReceive 0 3 0 true false) { state := 1, auth := 1 } = { state := 1, auth := 2, lacks := some 0 } ∧
    port3 (.flitReceive 0 3 (2 ^ 32 - 1) true true) { state := 1, auth := 2, rxNext := 2 ^ 32 - 1 } = { state := 1, rxNext := 0 } ∧
    port3 (.flitReceive 0 3 4 true true) { state := 1, rxNext := 5 } = { state := 1, rxNext := 5 } ∧ port3 (.flitReceive 0 3 5 false true) { state := 1, rxNext := 5 } = { state := 1, rxNext := 5, lacks := some 5 } ∧
    (port3 (.replayRequest 0 3 (2 ^ 32 - 1)) { state := 1, unacked := [2 ^ 32 - 2, 2 ^ 32 - 1, 0, 1] }).resend = [2 ^ 32 - 1, 0, 1] ∧
    kgetD ((run1 (.criticalPacketReceive 0 9 2) (wired {})).pkg 0).crit 9 [] = [1, 2] ∧ kgetD ((run1 (.criticalPacketReceive 0 9 3) (wired {})).pkg 0).crit 9 [] = [1, 2, 3] := by decide +kernel

theorem witness_FabricEvents_training :
    port3 (.portTrainingEnd 0 3 3 15 true) { state := 1 } = { state := 1 } ∧ port3 (.trainingTimeout 0 3) { state := 3 } = { state := 3 } ∧
    (port3 (.portTrainingEnd 0 3 3 15 true) { fails := 2 }).state = 1 ∧ (port3 (.portTrainingEnd 0 3 3 15 true) { fails := 2 }).fails = 0 ∧
    port3 (.portTrainingEnd 0 3 2 15 true) { fails := 2 } = { state := 3, fails := 3, recSeq := 1 } ∧
    port3 (.portTrainingEnd 0 3 2 3 true) { fails := 1 } = { state := 2, fails := 2, speed := 2, lanes := 3, recSeq := 1 } ∧
    port3 (.portTrainingEnd 0 3 3 15 false) { speed := 1 } = { state := 2, fails := 1, speed := 1, recSeq := 1 } ∧
    port3 (.portTrainingEnd 0 3 3 15 true) { state := 2, fails := 1 } = { state := 0, fails := 1 } ∧ port3 (.trainingTimeout 0 3) { fails := 2 } = { state := 3, fails := 3 } ∧
    port3 (.trainingTimeout 0 3) { fails := 1, speed := 1 } = { state := 2, fails := 2, speed := 1 } ∧ port3 (.portCommand 0 3) { state := 3, fails := 3 } = {} := by decide +kernel

theorem witness_FabricEvents_flows :
    ((run1 (.flowMove 0 3) (wired { state := 1 })).pkg 0).flows = [(7, { port := 3 }), (8, { port := 5 })] ∧
    ((run1 (.flowMove 0 3) (wired { state := 3 })).pkg 0).flows = [(7, { port := 5, stalled := true }), (8, { port := 5 })] ∧
    (let s := (wired { state := 3 }).modPkg 0 (fun k => { k with flows := [(7, { port := 5, stalled := true })] })
     s.unanswered 7 = false ∧ ((run1 (.flowStallEnd 0 7) s).pkg 0).flows = [(7, { port := 5 })]) ∧
    (let s : State := { asking { away with went := true } 1 100 with dies := [] }
     let u := s.modPkg 0 (fun k => { k with flows := [(flowId 0 0 1, { port := 18, stalled := true, last := 50 })] })
     u.unanswered (flowId 0 0 1) = true ∧ u.now < 50 + 55000 ∧ run1 (.flowStallEnd 0 (flowId 0 0 1)) u = u ∧
       ((run1 (.flowStallEnd 0 (flowId 0 0 1)) { u with now := 55050 }).pkg 0).flows = [(flowId 0 0 1, { port := 18, last := 50 })]) := by decide +kernel
/-! ### Witnesses: pairs, votes, and the clauses that the second review asked for -/

/-- `BRL +2 || ADD g5, g6, g7` at the pc. -/
def fetchedPair : State := (st [(6, 1), (7, 2)]).withFetchWord 64 (encodeBundle ⟨false, .pair (.brl 2) (.add 5 6 7)⟩)

theorem witness_StepRunsDecoded_pair :
    let s := fetchedPair
    let r := s.enter 2
    let u : State := { r.issued with trap := none }
    let y := ({ (u.fetched 0).clean with trap := none, bundle := u.bundleWord 0, bpc := r.th.pc } : State)
    s.agenda = [] ∧ r.pick = some r.slot ∧ r.th.deferred = none ∧ r.th.skip = 0 ∧ r.th.events = [] ∧ r.th.gangN = 0 ∧ r.th.handler ≠ 1 ∧
    u.th.st = .ready ∧ r.th.partner = none ∧ r.th.votes = [] ∧ u.fetch = .ok 0 false ∧
    decodeBundle (u.bundleWord 0) = some ⟨false, .pair (.brl 2) (.add 5 6 7)⟩ ∧ r.etl.detect = false ∧
    (pair y.snapshot y.snapshot (.brl 2) (.add 5 6 7) y).th.partner = none ∧ (resState (step s) s).live 5 = 3 ∧
    (resState (step s) s).live 1 = 8 ∧ (resState (step s) s).th.pc = 16 := by decide +kernel

/-- `ADD g5, g6, g7` with VOTE at the pc: its first issue, and its second. -/
def fetchedVote : State := (st [(6, 1), (7, 2)]).withFetchWord 64 (encodeBundle ⟨true, .lone (.add 5 6 7)⟩)
def votedOnce : State := { fetchedVote with thr := some { fetchedVote.th with votes := [fetchedVote.snapshot], voteW := encodeBundle ⟨true, .lone (.add 5 6 7)⟩ } }

theorem witness_StepRunsDecoded_vote :
    (let s := fetchedVote
     let r := s.enter 2
     let u : State := { r.issued with trap := none }
     s.agenda = [] ∧ r.pick = some r.slot ∧ r.th.deferred = none ∧ r.th.skip = 0 ∧ r.th.events = [] ∧ r.th.gangN = 0 ∧ r.th.handler ≠ 1 ∧
     u.th.st = .ready ∧ r.th.partner = none ∧ r.th.votes = [] ∧ u.fetch = .ok 0 false ∧
     decodeBundle (u.bundleWord 0) = some ⟨true, .lone (.add 5 6 7)⟩ ∧ r.etl.detect = false ∧ (resState (step s) s).th.votes.length = 1) ∧
    (let s := votedOnce
     let r := s.enter 2
     let u : State := { r.issued with trap := none }
     s.agenda = [] ∧ r.pick = some r.slot ∧ r.th.deferred = none ∧ r.th.events = [] ∧ u.th.st = .ready ∧ r.th.partner = none ∧ r.th.votes ≠ [] ∧
     decodeBundle r.th.voteW = some ⟨true, .lone (.add 5 6 7)⟩ ∧ r.etl.detect = false ∧
     (voted ⟨true, .lone (.add 5 6 7)⟩ none { u.clean with trap := none, bundle := r.th.voteW, bpc := r.th.pc } (bundleEffect ⟨true, .lone (.add 5 6 7)⟩)).th.partner = none ∧
     (resState (step s) s).th.votes.length = 2 ∧ (resState (step s) s).th.pc = 0) := by decide +kernel

/-- Both bodies read the registers as they stood; BRL's g1, a load's d and a store's word beside an ADD; a register both write. -/
theorem witness_PairEffects :
    (let s := st [(6, 1), (7, 2)]
     s.thr.isSome = true ∧ s.th.st = .ready ∧ s.clean = s ∧ s.trap = none ∧ Rules.intResult (.add 1 6 7) s.rd = some (1, 3) ∧ precheck .nop s = none ∧
     precheck (.brl 2) s = none ∧ precheck (.add 1 6 7) s = none ∧ portCheck s (s.ports .nop ++ s.ports (.add 1 6 7)) = none ∧
     portCheck s (s.ports (.brl 2) ++ s.ports (.add 1 6 7)) = none ∧ (pair s.snapshot s.snapshot (.brl 2) (.add 1 6 7) s).live 1 = 3 ∧
     (pair s.snapshot s.snapshot .nop (.add 1 6 7) s).th.pc = 8) ∧
    (let s := spd [(7, 2)]
     s.clean = s ∧ s.trap = none ∧ Rules.intResult (.add 6 6 7) s.rd = some (6, win + 2) ∧ precheck (.ld 5 6 0 1 (.short 7)) s = none ∧
     precheck (.add 6 6 7) s = none ∧ portCheck s (s.ports (.ld 5 6 0 1 (.short 7)) ++ s.ports (.add 6 6 7)) = none ∧
     Reaches s .rd 1 (s.rd 6 + (Imm.short 7).offM 1) (spad + 7) false ∧ s.otherSlotMatch (spad + 7) 1 = false ∧ s.loadNow (spad + 7) 1 false = some 0x88 ∧
     (pair s.snapshot s.snapshot (.ld 5 6 0 1 (.short 7)) (.add 6 6 7) s).live 5 = 0xFFFFFFFFFFFFFF88 ∧
     (pair s.snapshot s.snapshot (.ld 5 6 0 1 (.short 7)) (.add 6 6 7) s).live 6 = win + 2) ∧
    (let s := spd [(7, 2)]
     precheck (.st 7 6 0 (.short 1)) s = none ∧ precheck (.add 7 6 6) s = none ∧ portCheck s (s.ports (.st 7 6 0 (.short 1)) ++ s.ports (.add 7 6 6)) = none ∧
     Reaches s .wr 1 (s.rd 6 + (Imm.short 1).offM 1) (spad + 1) false ∧ inScratch s.eid (spad + 1) = true ∧ s.hazardAt (spad + 1) 1 = false ∧ s.sbufFull 1 = false ∧
     s.holds = false ∧ (pair s.snapshot s.snapshot (.st 7 6 0 (.short 1)) (.add 7 6 6) s).etl.sbuf.map (·.data) = [2]) := by decide +kernel

/-- What an issue latches of the operands when g6 holds x and g7 holds 0. -/
def latched (x : Word) : Latch := (st [(6, x)]).snapshot

theorem witness_Votes :
    (let s := st [(6, 3)]
     s.thr.isSome = true ∧ Issues (.add 5 6 7) s ∧ s.clean = s ∧ s.th.partner = none ∧ s.th.kill = none ∧
     Rules.intResult (.add 5 6 7) ({ s with latch := some (latched 1) } : State).rd = some (5, 1) ∧ Rules.intResult (.add 5 6 7) ({ s with latch := some s.snapshot } : State).rd = some (5, 3) ∧
     (voted ⟨true, .lone (.add 5 6 7)⟩ none (s.modT (fun t => { t with votes := [latched 1, latched 3] })) (bundleEffect ⟨true, .lone (.add 5 6 7)⟩)).live 5 = 3 ∧
     (voted ⟨true, .lone (.add 5 6 7)⟩ none (s.modT (fun t => { t with votes := [latched 1, latched 1] })) (bundleEffect ⟨true, .lone (.add 5 6 7)⟩)).live 5 = 1 ∧
     (voted ⟨true, .lone (.add 5 6 7)⟩ none (s.modT (fun t => { t with votes := [latched 1, latched 2] })) (bundleEffect ⟨true, .lone (.add 5 6 7)⟩)).th.events.length = 1 ∧
     (voted ⟨true, .lone (.add 5 6 7)⟩ none (s.modT (fun t => { t with votes := [latched 1, latched 2] })) (bundleEffect ⟨true, .lone (.add 5 6 7)⟩)).live 5 = 0) := by
  decide +kernel

/-- EXIT and TRAP that follow a long result (R301, R54). -/
theorem witness_LongLatencyWriteback_after :
    (let s := { waits .alu with thr := some { (waits .alu).th with after := some .exit } }
     s.th.st = .waiting .alu ∧ s.th.kill = none ∧ s.th.resAt ≤ s.now ∧ s.th.after = some .exit ∧ reg (.longLatencyWriteback 0 0) s 5 = 9 ∧
     (run1 (.longLatencyWriteback 0 0) s).th.st = .waiting .exitDrain) ∧
    (let s := { waits .alu with thr := some { (waits .alu).th with after := some (.trap { code := 0x0A, eval := 4 }) } }
     s.th.st = .waiting .alu ∧ s.th.kill = none ∧ s.th.resAt ≤ s.now ∧ s.handoff = false ∧ s.th.status.getLsbD 4 = false ∧ s.th.gangN = 0 ∧
     reg (.longLatencyWriteback 0 0) s 5 = 9 ∧ (run1 (.longLatencyWriteback 0 0) s).th.eval = 4 ∧ (run1 (.longLatencyWriteback 0 0) s).th.st = .ready) := by decide +kernel
theorem witness_NanOperands_fused : (Val.of fp64 0x7FF0000000000001).isNan = true ∧ (Val.of fp64 0x7FF0000000000001).isSig = true ∧
    fpFma fp64 0 0 0x3FF0000000000000 0x3FF0000000000000 0x7FF0000000000001 = (fp64.nan, 16) ∧ fpFma fp64 0 0 0x3FF0000000000000 0 0x7FF8000000000000 = (fp64.nan, 0) ∧
    fpFma fp32 0 2 0x7F800000 0 0x7FC00000 = (fp32.nan, 16) ∧ fpFma fp32 0 1 0 0x7F800000 0x7FC00000 = (fp32.nan, 16) := by decide +kernel

/-- ST and STL to the scratchpad of another cluster's etlet send a request; a package with no fabric port READY has its abort already. -/
theorem witness_Requests_store :
    (let s := far [(6, farWin), (5, 9)]
     Issues (.st 5 6 3 (.short 0)) s ∧ Rules.access (.st 5 6 3 (.short 0)) s.rd = some (farWin, 8, .wr) ∧ Reaches s .wr 8 farWin (scratch 8) false ∧
     Rules.fullEmpty (.st 5 6 3 (.short 0)) s.rd false = none ∧ regionOf (scratch 8) = 2 ∧ inScratch s.eid (scratch 8) = false ∧
     s.storesOut s.th.tid (s.ahead (scratch 8)) = false ∧ s.vc0Stalls (scratchOwner (scratch 8)) = false ∧ s.cutOff 0 (scratch 8) = false ∧
     (run1 (.st 5 6 3 (.short 0)) s).etl.reqs.map (fun q => (q.2.op, q.2.reply)) = [(.store 8 9, none)] ∧
     Issues (.stl 5 6 3 3 (.long 0)) s ∧ Settled s ∧ (run1 (.stl 5 6 3 3 (.long 0)) s).th.st = .waiting .mem) ∧
    (let s : State := { hbm [(6, 0x10000)] with pkgs := [], eid := 2 ^ 15 }
     Issues (.ld 5 6 3 0 (.short 0)) s ∧ Reaches s .rd 8 0x10000 0x10000 true ∧ s.cutOff s.eid 0x10000 = true ∧ s.otherSlotMatch 0x10000 8 = false ∧
     s.loadNow 0x10000 8 true = none ∧ (run1 (.ld 5 6 3 0 (.short 0)) s).etl.reqs.map (·.2.reply) = [some .abort]) := by decide +kernel

/-- A FAGG joins the open group of its word, its width and its kernel; one 8 cycles old is open no longer. -/
def grouped (at_ : Nat) : State := { hbm [(6, 0x10000)] with now := at_ + 7 }.modE (fun e => { e with fagg := [{ gpa := 0x10000, width := 4, kid := 0, key := 1, va := 0x10000, opened := 7, members := [{ tid := 9, y := 3 }] }] })

theorem witness_FaggGroups_join :
    (Issues (.faggW 5 6 7) (grouped 7) ∧ Reaches (grouped 7) .rw 4 0x10000 0x10000 true ∧ (grouped 7).hazardAt 0x10000 4 = false ∧ (grouped 7).th.pend = [] ∧ (grouped 7).etl.buf = [] ∧
      (grouped 7).storesOut (grouped 7).th.tid (grouped 7).before = false ∧
      (run1 (.faggW 5 6 7) (grouped 7)).etl.fagg.map (fun q => q.members.map (·.tid)) = [[9, 1]]) ∧
    (Issues (.faggW 5 6 7) (grouped 8) ∧ (grouped 8).storesOut (grouped 8).th.tid (grouped 8).before = false ∧
      (run1 (.faggW 5 6 7) (grouped 8)).etl.fagg.map (fun q => (q.opened, q.members.map (·.tid))) = [(7, [9]), (15, [1])]) ∧
    (Issues (.faggD 5 6 7) (grouped 7) ∧ (run1 (.faggD 5 6 7) (grouped 7)).etl.fagg.map (fun q => (q.width, q.members.map (·.tid))) = [(4, [9]), (8, [1])]) := by decide +kernel

/-- ZERO waits for room; in a team that holds stores its words enter the hold queue; PREF; CLEAN at level 2. -/
theorem witness_CacheOperations_room :
    let s := hbm [(7, 0x10000), (8, 0x40)]
    (let f : State := s.modE (fun e => { e with sbuf := List.replicate 25 { gpa := 0x20000, data := 0, width := 8, slot := 1, tid := 9, key := 1, va := 0, scope := 0, ca := true } })
     Issues (.cmoZero 1 7 8) f ∧ rangeFault .wr (f.rd 7) 64 (touchRange .wr (f.rd 7) 64 (start f)) = none ∧ (wholeLines (f.rd 7) 64 (touchRange .wr (f.rd 7) 64 (start f))).length = 1 ∧
     f.sbufFull 8 = true ∧ (run1 (.cmoZero 1 7 8) f).th.st = .waiting .sbufFull) ∧
    (let h : State := { s with etl := { s.etl with kernels := [(0, { kern with ckpt := { on := true, holding := true } })] } }
     h.holds = true ∧ Issues (.cmoZero 1 7 8) h ∧ rangeFault .wr (h.rd 7) 64 (touchRange .wr (h.rd 7) 64 (start h)) = none ∧ h.sbufFull 8 = false ∧ h.etl.heldCount + 8 ≤ 512 ∧
     (run1 (.cmoZero 1 7 8) h).kern.ckpt.held.map (·.gpa) = (List.range 8).map (fun j => 0x10000 + 8 * j)) ∧
    (Issues (.cmoPref 1 7 8) s ∧ (run1 (.cmoPref 1 7 8) s).th.pc = 8) ∧
    (Issues (.cmoClean 2 7 8) s ∧ rangeFault .rd (s.rd 7) 64 (touchRange .rd (s.rd 7) 64 (start s)) = none ∧ Settled s ∧ (run1 (.cmoClean 2 7 8) s).myDie.stamp = 1) := by decide +kernel

/-- VRED.FADD of 64 ones gives 64; a VEXT names lane 1. -/
theorem witness_VectorLanes_sum : (List.replicate 64 0x3F800000).length = 64 ∧ Rules.lane (.vred 1 2 0) 0 0 [] (fun _ _ => 0x3F800000) 0 = some (0x42800000, 0) ∧
    (vcompute (.vred 1 2 0) 0 [] [] (fun _ => List.replicate 64 0x3F800000)).1.getD 0 0 = 0x42800000 := by decide +kernel

/-- VLD of 64 words at the start of the own scratchpad, and VST there. -/
def vmemOp (i : Instr) (v : Vec) : VOp := { seq := 0, tid := 1, slot := 0, instr := i, scal := [win, 4], rm := 0, vs := [(3, v)] }
def vmem (i : Instr) : State := (spd []).modE (fun e => { e with vq := [vmemOp i 0x200000001] })

theorem witness_VectorEvents_load :
    let s := vmem (.vld 3 6 0)
    let o := vmemOp (.vld 3 6 0) 0x200000001
    s.thr.isSome = true ∧ s.th.st = .ready ∧ s.etl.vrb = none ∧ Quiet s ∧ (kset s.etl.threads s.slot s.thr).find? (fun p => decide (p.2.tid = 1)) = some (0, s.th) ∧
    s.etl.vq.find? (fun x => x.out.isNone) = some o ∧ o.lanesLeft.length = 64 ∧ s.etl.buf = [] ∧ s.kern.ckpt.held = [] ∧
    (∀ p ∈ o.lanesLeft, inWindow p.2 = true ∧ laneXlate s .rd p.2 = .inr (lanePa s p.2, false) ∧ inScratch s.eid (lanePa s p.2) = true ∧ s.readWaits (lanePa s p.2) 4 = false) := by decide +kernel

theorem witness_VectorEvents_loaded :
    let o := vmemOp (.vld 3 6 0) 0
    let q : VOp := { o with got := (List.range 62).map (fun j => (j, j)) }
    let s := (spd []).modE (fun e => { e with vq := [q] })
    s.etl.vq.find? (fun x => x.out.isNone) = some q ∧ q.lanesLeft.length = 2 := by decide +kernel

theorem witness_VectorEvents_store :
    let s := vmem (.vst 3 6 0)
    let o := vmemOp (.vst 3 6 0) 0x200000001
    s.etl.vq.find? (fun x => x.out.isNone) = some o ∧ o.stores[0]? = some (win, 8, 0x200000001) ∧ s.walkBusy s.kern s.user .wr win = false ∧
    laneXlate s .wr win = .inr (spad, false) ∧ laneXlate s .wr (win + 4) = .inr (spad + 4, false) ∧ s.sbufFull 1 = false ∧ s.holds = false ∧
    (run1 (.vectorStart 0) s).etl.sbuf.map (fun e => (e.gpa, e.width, e.data)) = [(spad, 8, 0x200000001)] ∧
    (run1 (.vectorStart 0) s).etl.vq.map (·.got.length) = [1] ∧
    (vmemOp (.vstStr 3 6 0) 0x200000001).stores[1]? = some (win + 4, 4, 2) := by decide +kernel

/-- A capture of one VADD whose sequence dispatches at once, and one of no pass. -/
def capturedFree (count : Word) : State := { st [(6, count)] with etl := { kernels := [(0, kern)], vrb := some { owner := 1, ops := [(.vadd 1 2 3, 0, 0)] } } }

theorem witness_RepetitionBuffer_dispatch :
    (let s := capturedFree 2
     s.capturing = true ∧ Issues (.vre 6 7) s ∧ (Instr.vadd 1 2 3).vmem = false ∧ (Instr.vadd 1 2 3).vdest.isSome = true ∧ s.rd 7 = 0 ∧ 0 < bits (s.rd 6) 31 0 ∧ s.vheld = false ∧
     marked s.etl.vq s.th.tid ((Instr.vadd 1 2 3).mapV (renum s.th.vlimit 0)) = false ∧ Rules.vectorCause ((Instr.vadd 1 2 3).mapV (renum s.th.vlimit 0)) s = none ∧
     portCheck s ((Instr.vadd 1 2 3).mapV (renum s.th.vlimit 0)).fields = none ∧
     (kset s.etl.threads s.slot s.thr).find? (fun p => decide (p.2.tid = s.th.tid)) = some (s.slot, s.th) ∧
     (run1 (.vre 6 7) s).etl.vq.map (fun o => (o.instr, o.rep)) = [(.vadd 1 2 3, true)] ∧ (run1 (.vre 6 7) s).etl.vrb.map (·.pass) = some 1) ∧
    (let s := capturedFree 0
     Issues (.vre 6 7) s ∧ bits (s.rd 6) 31 0 = 0 ∧ s.etl.vq.any (fun o => o.rep) = false ∧ (run1 (.vre 6 7) s).etl.vrb.isNone = true) := by decide +kernel
/-- A running command of the copy engine over the own scratchpad, whose words at offset 0 are 0x11 and 0x22 and whose index list at 0x100 is (1, 0). -/
def engCmd (k : CopyKind) : CopyCmd :=
  { seq := 0, kind := k, dst := win + 64, src := win, len := if k = .cpyg ∨ k = .cpys ∨ k = .cpyp then 8 else 16, tid := 1, slot := 0, kid := 0, user := true, tag := 5,
    running := true, key := 1, rows := 2, idx := win + 0x100, perm := [1, 0], lc := some 9, ring := 0 }
def engSt (k : CopyKind) : State :=
  let s := (((st []).wrMem 0 spad 8 0x11).wrMem 0 (spad + 8) 8 0x22).wrMem 0 (spad + 0x100) 8 1
  { s with etl := { kernels := [(0, kern)], copyq := [engCmd k], rings := [(0, { ringB [{ slot := 0, src := (engCmd k).name 0 }] with kid := s.lkey })] } }
def wordsAt (a k : Nat) : Nat := spad + a + 8 * k

/-- CPY and CPYF of two words. -/
theorem witness_CopyEvents_cpy : MemOk (engSt .cpy) ∧ (engSt .cpy).etl.fired.length = 0 ∧ Rules.copyCount (engCmd .cpy) = 2 ∧
    (engSt .cpy).etl.copyq.find? (fun x => decide (x.seq = 0) && x.running && decide (x.kind ≠ .put ∧ x.kind ≠ .get)) = some (engCmd .cpy) ∧
    Rules.copyReady (engCmd .cpy) (engSt .cpy) (wordsAt 0) (wordsAt 64) (fun _ => 0) (fun _ => 0) ∧
    Rules.copyReady (engCmd .cpyf) (engSt .cpyf) (wordsAt 0) (wordsAt 64) (fun _ => 0) (fun _ => 0) := by
  simp only [Rules.copyReady, Rules.copyFrom, Rules.copyTo]; and_intros <;> decide +kernel

/-- CPYG and CPYS of two rows through the index list, CPYP by the permutation (1, 0). -/
theorem witness_CopyEvents_rows :
    Rules.copyReady (engCmd .cpyg) (engSt .cpyg) (fun k => spad + 8 - 8 * k) (wordsAt 64) (fun i => spad + 0x100 + 4 * i) (fun i => 1 - i) ∧
    Rules.copyReady (engCmd .cpys) (engSt .cpys) (wordsAt 0) (fun k => spad + 72 - 8 * k) (fun i => spad + 0x100 + 4 * i) (fun i => 1 - i) ∧
    Rules.copyReady (engCmd .cpyp) (engSt .cpyp) (fun k => spad + 8 - 8 * k) (wordsAt 64) (fun _ => 0) (fun _ => 0) := by
  simp only [Rules.copyReady, Rules.copyFrom, Rules.copyTo]; and_intros <;> decide +kernel

theorem witness_CopyEvents_copied :
    (run1 (.copyComplete 0 0) (engSt .cpy)).rdMem 0 (spad + 72) 8 = 0x22 ∧ (run1 (.copyComplete 0 0) (engSt .cpyg)).rdMem 0 (spad + 64) 8 = 0x22 ∧
    (run1 (.copyComplete 0 0) (engSt .cpys)).rdMem 0 (spad + 64) 8 = 0x22 ∧ (run1 (.copyComplete 0 0) (engSt .cpyp)).rdMem 0 (spad + 72) 8 = 0x11 ∧
    (run1 (.copyComplete 0 0) (engSt .cpyp)).etl.tags = 0x20 ∧ (run1 (.copyComplete 0 0) (engSt .cpyf)).isEmpty 0 (spad + 64) = false := by decide +kernel

/-- CPYR fills its slot of the ring at 0x1000. -/
theorem witness_CopyEvents_cpyr :
    let s := engSt .cpyr
    let c := engCmd .cpyr
    (c.mc = false ∧ c.len % 8 = 0 ∧ c.tag < 64 ∧ (kget s.etl.rings 0).map (fun r => (r.q.find? (fun q => decide (q.src = c.name 0 ∧ q.complete = false))).map (·.slot)) = some (some 0)) ∧
    Rules.copyFrom c s (fun k => c.src + wd (8 * k)) 2 (wordsAt 0) ∧ Rules.copyTo s 2 (wordsAt 0) (fun k => spad + 0x1000 + 8 * k) ∧
    (run1 (.copyComplete 0 0) s).rdMem 0 (spad + 0x1008) 8 = 0x22 ∧ (run1 (.copyComplete 0 0) s).etl.rings.map (fun r => r.2.q.map (fun q => (q.complete, q.bytes))) = [[(true, 16)]] := by
  unfold Rules.copyFrom Rules.copyTo; decide +kernel

/-- A PUT and a GET of two words; the GET ends and advances its counter. -/
theorem witness_CopyEvents_words :
    ((engSt .put).etl.copyq.find? (fun x => decide (x.seq = 0 ∧ x.kind = .put ∧ x.arrived = false) && x.running) = some (engCmd .put) ∧ (engCmd .put).rc.isNone = true ∧
      ((engCmd .put).carry (engSt .put)).isSome = true ∧ Rules.copyReady (engCmd .put) (engSt .put) (wordsAt 0) (wordsAt 64) (fun _ => 0) (fun _ => 0) ∧
      (run1 (.putArrival 0 0) (engSt .put)).rdMem 0 (spad + 72) 8 = 0x22) ∧
    ((engSt .get).etl.copyq.find? (fun x => decide (x.seq = 0) && x.running && (decide (x.kind = .get) || x.arrived)) = some (engCmd .get) ∧ (engSt .get).etl.trigs.length = 0 ∧
      kgetD (engSt .get).etl.scWait 9 [] = [] ∧ ((engCmd .get).carry (engSt .get)).isSome = true ∧
      Rules.copyReady (engCmd .get) (engSt .get) (wordsAt 0) (wordsAt 64) (fun _ => 0) (fun _ => 0) ∧
      (run1 (.putComplete 0 0) (engSt .get)).rdMem 0 (spad + 64) 8 = 0x11 ∧ kgetD (run1 (.putComplete 0 0) (engSt .get)).etl.sc 9 0 = 1) := by
  simp only [Rules.copyReady, Rules.copyFrom, Rules.copyTo]; and_intros <;> decide +kernel

/-- A tag set in the cycle in which TCLR clears it stays set (R178). -/
theorem witness_TagsAndCounters_cycle : let s : State := { tags 5 [(6, 5)] with etl := { (tags 5 []).etl with tagAt := 0, tagNew := 4 } }
    Issues (.tclr 6) s ∧ s.etl.tagAt = s.now ∧ (run1 (.tclr 6) s).etl.tags = 4 := by decide +kernel

/-- ACLR that stands first of the unit's operations acts. -/
theorem witness_MatrixUnit_first : let s : State := { mx [] [] with etl := { (mx [] []).etl with mmas := [{ tid := 1, ra := 0, rb := 0, ac := 1, fm := 2, sp := 0, z := false, perm := none, seq := 0, aux := some 0 }] } }
    Issues (.aclr 2 1) s ∧ s.etl.mmas.map (fun m => (m.tid, m.aux.isSome)) = [(1, true)] ∧ ((run1 (.aclr 2 1) s).etl.acc 1).ty = 2 ∧ (run1 (.aclr 2 1) s).etl.mmas.length = 0 := by decide +kernel
/-! ### Witnesses: gangs, the host's other clauses, the platform's and the fabric's -/

theorem witness_SupervisorInstructions_formed :
    let s := paired (.waiting (.gang 2))
    Issues (.gang 5 6) s ∧ (s.rd 6).toNat = 2 ∧ bits s.th.status 3 3 = 0 ∧ s.handoff = false ∧ s.gangEtlets 2 = [0, 8] ∧ s.gangMate 8 = true ∧ s.gangWaits 8 2 = true ∧ s.th.kill = none ∧
    (let m := (s.focus 8 0).th; m.waitD < 112 ∧ m.kill = none ∧ m.deferred = none) ∧
    (let t := run1 (.gang 5 6) s
     (t.focus 0 0).th.gang = [0, 8] ∧ (t.focus 8 0).th.gang = [0, 8] ∧ (t.focus 8 0).th.pc = 8 ∧ (t.focus 0 0).th.pc = 8 ∧ (t.focus 8 0).live 7 = 0 ∧ bits (t.focus 8 0).th.status 3 3 = 1) := by decide +kernel

/-- A gang of two threads whose g6 is `x` and `y`. -/
def ganged (x y : Word) : State :=
  let t : Thread := { thr with gangN := 2, gangLead := 0, status := 8 }
  { st [] with thr := some { t with g := [(6, x)] }, etlets := [(8, { threads := [(0, { t with tid := 2, svec := 0x9000, g := [(6, y)] })], kernels := [(0, kern)] })] }
def gangHyps (s : State) : Bool := decide (s.slot < 62 ∧ s.th.gang = [0, 8]) && [0, 8].all (fun e => let f := s.focus e s.slot
  f.thr.isSome && decide (f.th.gang = [0, 8] ∧ f.th.status.getLsbD 4 = false))

/-- The bundle completes in both; one member's trap undoes it; one member's wait holds it back. -/
theorem witness_SupervisorInstructions_bundle :
    (let s := ganged 3 4
     let w := encodeBundle ⟨false, .lone (.add 5 6 6)⟩
     let r := runMembers [0, 8] w s
     gangHyps s = true ∧ r.2.traps = [] ∧ r.2.waits = [] ∧ r.1.eid = 0 ∧ r.1.slot = 0 ∧ r.1.thr.isSome = true ∧ r.1.th.st = .ready ∧ r.1.th.deferred = none ∧
     ((gangBundle [0, 8] w s).focus 0 0).live 5 = 6 ∧ ((gangBundle [0, 8] w s).focus 8 0).live 5 = 8 ∧ ((gangBundle [0, 8] w s).focus 8 0).th.pc = 8) ∧
    (let s := ganged win 1
     let w := encodeBundle ⟨false, .lone (.ld 5 6 3 0 (.short 0))⟩
     let r := runMembers [0, 8] w s
     gangHyps s = true ∧ r.2.traps = [(8, { code := 3, eval := 1 })] ∧ ((gangBundle [0, 8] w s).focus 8 0).th.epc = 0 ∧ ((gangBundle [0, 8] w s).focus 8 0).th.pc = 0x9000 ∧
     ((gangBundle [0, 8] w s).focus 0 0).th.pc = 0 ∧ ((gangBundle [0, 8] w s).focus 0 0).th.gangN = 0) ∧
    (let s := ganged win 0x10000
     let w := encodeBundle ⟨false, .lone (.ld 5 6 3 0 (.short 0))⟩
     let r := runMembers [0, 8] w s
     gangHyps s = true ∧ r.2.traps = [] ∧ r.2.waits = [(8, .walk 0x10000)] ∧ ((gangBundle [0, 8] w s).focus 8 0).th.st = .waiting (.walk 0x10000) ∧
     ((gangBundle [0, 8] w s).focus 0 0).th.pc = 0 ∧ ((gangBundle [0, 8] w s).focus 0 0).th.gangN = 2) := by decide +kernel

/-- MAPSET to another etlet of a launch whose bit 1 forbids it. -/
theorem witness_SupervisorInstructions_mapset_mode :
    let s : State := { superv [(6, 1)] with launches := [(0, { lch with place := [2], live := [16], modes := 2 })], pkgs := [(0, { ready := BitVec.allOnes 64, dies := 15, clusters := [(0, 1)] })] }
    Issues (.mapset 5 6) s ∧ (s.mapped.map (fun m => m.2.1.mode 1)) = some true ∧ s.etlets = [] ∧ s.placeable 8 = true ∧ etletEid 0 1 ≠ s.eid ∧ reg (.mapset 5 6) s 5 = 2 := by decide +kernel

/-- BAR0: a stopped queue reads 3; a restart with a response still to write; the bases of the last start. -/
theorem witness_HostEvents_status :
    (let k : Pkg := { stopped := true, state := 2, dseqiss := 4, hseqacc := 5 }
     k.bar0 0 = 3 ∧ k.bar0 0x10 = 4 ∧ k.bar0 0x18 = 5 ∧ ({ state := 2 } : Pkg).bar0 0 = 2) ∧
    (let s : State := { pkgs := [(0, { dseqiss := 4096, rqrun := 0x1000, cqbase := 0x9000, backlog := [(7, 2, 5)], restart := true, running := true })] }
     let t := run1 (.rheadAdvance 0 1) s
     (s.pkg 0).cmd = none ∧ (t.pkg 0).restart = false ∧ (t.pkg 0).cqrun = 0x9000 ∧ (t.pkg 0).dseqiss = 0 ∧ t.rdMem 0 (hostAddr 0 0x1000) 8 = 4097 ∧
       ((run1 (.qstart 0 1) s).pkg 0).restart = true ∧ ((run1 (.qstart 0 1) s).pkg 0).running = true) ∧
    (((run1 (.qstart 0 1) hostIdle).pkg 0).cqrun = 0x8000 ∧ ((run1 (.registerWrite 0 0x2000 0x12345) hostIdle).pkg 0).cqrun = 0x8000 ∧
      run1 (.registerWrite 0 (2 ^ 38) 7) hostIdle = hostIdle) := by decide +kernel

/-- A second error waits for the engine, and its test starts when the first ends. -/
theorem witness_PlatformEvents_due :
    (let s : State := { st [] with dies := [(0, { testUnit := some 1 })] }
     (kgetD (run1 (.errorDetected 0 0x38 64 true) s).dies 0 {}).testsDue = [(0x38, 64)] ∧ unitExists 0x38 = true) ∧
    (let s : State := { st [] with dies := [(0, { testUnit := some 1, testsDue := [(0x38, 64)] })] }
     (kgetD (run1 (.selfTestComplete 0 true) s).dies 0 {}).testUnit = some 0x38 ∧ (kgetD (run1 (.selfTestComplete 0 true) s).dies 0 {}).testGpa = some 64 ∧
       (kgetD (run1 (.selfTestComplete 0 true) s).dies 0 {}).testsDue = []) := by decide +kernel

theorem witness_PlatformEvents_window :
    let s : State := { pkgs := [(0, { uv := [(0, { errors := [0, 7], measuring := some 5 })] })], now := 2 ^ 20 + 5 }
    (kgetD (s.pkg 0).uv 0 {}).measuring = some 5 ∧ 5 + 2 ^ 20 ≤ s.now ∧ ((kgetD (s.pkg 0).uv 0 {}).errors.filter (fun c => decide (s.now < c + 2 ^ 20))).length = 1 := by decide +kernel

/-- No event is taken past annulled bundles, or while the thread's operation stands in the matrix unit. -/
theorem witness_CompletionEvents_later :
    (let s := withThr (fun t => { t with events := [cause7], skip := 1 }); run1 (.eventDelivery 0 0) s = s) ∧
    (let s := (withThr (fun t => { t with events := [cause7] })).modE (fun e => { e with mmas := [{ tid := 1, ra := 0, rb := 0, ac := 1, fm := 2, sp := 0, z := false, perm := none, seq := 0, aux := some 0 }] })
     s.etl.mmas.any (fun m => decide (m.tid = s.th.tid) && m.aux.isSome) = true ∧ run1 (.eventDelivery 0 0) s = s) := by decide +kernel

/-- A walk whose entry's home is under test waits; one whose home aborts raises an event beside its trap. -/
def walking (f : State → State) : State := f (withThr (fun t => { t with st := .waiting (.walk 0) }))

theorem witness_CompletionEvents_walk_home :
    (let s := walking (fun s => { s with dies := [(0, { testUnit := some 0x40 })] })
     (s.walkReads 1 0 s.kern.root.toNat walkLevels).any s.homeTested = true ∧ run1 (.translationWalkComplete 0 0) s = s) ∧
    (let s := walking (fun s => { s with pkgs := [] })
     s.walkAborts 1 0 s.kern.root.toNat walkLevels = false ∧ walkResult 0 s = none ∧ bits (run1 (.translationWalkComplete 0 0) s).th.ecause 7 0 = 4 ∧
       (run1 (.translationWalkComplete 0 0) s).th.events = []) ∧
    (let s := walking (fun s => { s with dies := [(0, { failing := [0] })] })
     s.walkAborts 1 0 s.kern.root.toNat walkLevels = true ∧ (s.walkReads 1 0 s.kern.root.toNat walkLevels).any s.homeTested = false ∧ walkResult 0 s = none ∧
       s.th.events.length < 8 ∧ s.th.policy.toNat % 4 = 0 ∧ bits (run1 (.translationWalkComplete 0 0) s).th.ecause 7 0 = 4 ∧
       (run1 (.translationWalkComplete 0 0) s).th.events = [{ code := 6, imp := true }]) := by decide +kernel

theorem witness_CompletionEvents_postedHome :
    (let s := (st []).modE (fun e => { e with posted := [{ posted 0 with data := 0x0102 }] })
     s.etl.posted.find? (fun y => decide (y.done ≠ 0)) = none ∧ s.etl.posted.find? (fun y => onPkg s.eid y.gpa) = some { posted 0 with data := 0x0102 } ∧ s.storeHeld { posted 0 with data := 0x0102 } = false ∧
     s.queuedBehind 0 0 spad = false ∧ MemOk s ∧ Quiet s ∧ regionOf spad = 2 ∧ s.aborts spad = false ∧ s.migCopy spad = none ∧ (∀ j, j < 8 → s.owns 1 (spad + j) = true) ∧
     (run1 (.storeReply 0) s).mem = [(spad, 2), (spad + 1, 1)] ∧ (run1 (.storeReply 0) s).etl.posted.length = 0) ∧
    (let s := (st []).modE (fun e => { e with posted := [{ posted 0 with seq := 3 }], reqs := [(0, { away with gpa := spad, seq := 2 })] })
     s.queuedBehind 0 3 spad = true ∧ run1 (.storeReply 0) s = s) ∧
    (let s := (st []).modE (fun e => { e with posted := [{ posted 1 with gpa := 2 ^ 47, went := true }] })
     onPkg 0 (2 ^ 47) = false ∧ (usePort 2 (homeEid (2 ^ 47)) 0 s).isNone = true ∧ run1 (.storeReply 0) s = s) := by decide +kernel

/-- An image's next part waits for an earlier store of its thread. -/
theorem witness_CompletionEvents_imageWaits :
    let s := (st []).modE (fun e => { e with benchW := [{ imageW [(spad, 8)] with tid := 1, no := 9 }], sbuf := [{ posted 0 with born := 3 }] })
    s.imageWaits { imageW [(spad, 8)] with tid := 1, no := 9 } spad 8 = true ∧ (run1 (.benchImageWrite 0) s).mem = [] := by decide +kernel

/-- A closed group with no way to its home. -/
theorem witness_CompletionEvents_fagg_cut :
    let s : State := { (waits .mem).modE (fun e => { e with fagg := [{ group with gpa := 2 ^ 47 }] }) with pkgs := [] }
    onPkg 0 (2 ^ 47) = false ∧ s.cutOff 0 (2 ^ 47) = true ∧ s.handoff = false ∧ Quiet s ∧ bits (run1 (.faggGroupClose 0) s).th.ecause 7 0 = 6 ∧ (run1 (.faggGroupClose 0) s).th.eval = win := by decide +kernel

/-- A request that its target holds stays there, and is served later though it is old. -/
theorem witness_CompletionEvents_held :
    (let s : State := { (asking away 1 9).wrMem 1 (2 ^ 47) 8 9 with dies := [(4, { testUnit := some (0x40 + homeCluster (2 ^ 47) % 64) })] }
     (usePort 0 0 1 s).map (fun u => (u.dedupOf 4 0 0, (u.modE (fun e => { e with reqs := kput e.reqs 0 { away with went := true } })).requestHeld 0 { away with went := true })) = some (none, true) ∧
       (kget (run1 (.requestArrival 0 0) s).etl.reqs 0).map (fun r => (r.come, r.went, r.reply)) = some (true, true, none)) ∧
    (let s : State := { (asking { away with come := true } 1 99999).wrMem 1 (2 ^ 47) 8 9 with dies := [] }
     s.dedupOf 4 0 0 = none ∧ s.requestHeld 0 { away with come := true, went := true } = false ∧ s.abortsR away.gpa = false ∧
       (kget (run1 (.requestArrival 0 0) s).etl.reqs 0).map (fun r => (r.come, r.reply)) = some (false, some (.val 9))) := by decide +kernel

/-- A port under test takes no training result; a critical packet with its content. -/
theorem witness_FabricEvents_tested :
    (let s : State := { wired { fails := 2 } with dies := [(0, { testUnit := some 0x13 })] }
     s.tested 0 0x13 = true ∧ kgetD ((run1 (.portTrainingEnd 0 3 3 15 true) s).pkg 0).ports 3 {} = { fails := 2 } ∧ kgetD ((run1 (.trainingTimeout 0 3) s).pkg 0).ports 3 {} = { fails := 2 } ∧
       (wired {}).tested 0 0x13 = false) ∧
    (((wired {}).pkg 9).critSent.find? (fun c => decide (c.no = 3))).map (·.what) = some (.port 1 2) ∧
    ((run1 (.criticalPacketReceive 0 9 3) (wired {})).pkg 0).critIn = [(9, .port 1 2)] ∧ ((run1 (.criticalPacketReceive 0 9 2) (wired {})).pkg 0).critIn = [] := by decide +kernel

/-! ### Tests that a translation or a read waits for (R349) -/

/-- A supervisor whose page tables stand in a slice under test. -/
def tableTested (g : KMap Word) : State := { superv g with dies := [(0, { testUnit := some 0x40 })] }

/-- A supervisor whose page at 0x10000 stands in a slice under test. -/
def pageTested (g : KMap Word) : State :=
  { hbm g with thr := some { thr with g := g, status := 1 }, dies := [(0, { testUnit := some (0x40 + homeCluster 0x10000 % 64) })] }

theorem witness_CacheOperations_test :
    (let s := tableTested [(6, 0), (7, 64)]
     s.handoff = false ∧ Issues (.cmoClean 0 6 7) s ∧ Issues (.cmoPref 0 6 7) s ∧ Issues (.cmoZero 0 6 7) s ∧ rangeWait .rd 0 64 s = true ∧ rangeWait .wr 0 64 s = true ∧
       (run1 (.cmoClean 0 6 7) s).th.st = .waiting .reach ∧ (run1 (.cmoPref 0 6 7) s).th.st = .waiting .reach ∧ (run1 (.cmoZero 0 6 7) s).th.st = .waiting .reach) ∧
    (let s := pageTested [(6, 0x10000), (7, 64)]
     rangeWait .rd 0x10000 64 s = false ∧ (rangeLines .rd 0x10000 64 s).any (fun l => s.homeTested (l.1 * 64)) = true ∧ (run1 (.cmoPref 0 6 7) s).th.st = .waiting .reach) ∧
    rangeWait .rd 0x10000 64 (hbm []) = false ∧ rangeWait .wr 0x10000 64 (hbm []) = false := by decide +kernel

theorem witness_SupervisorInstructions_test :
    (let s := tableTested [(6, 0), (7, 0)]
     Issues (.bencho 5 6 7) s ∧ imageWait .wr 0 16384 s = true ∧ (run1 (.bencho 5 6 7) s).th.st = .waiting .reach ∧
       Issues (.benchi 5 6 7) s ∧ imageWait .rd 0 16384 s = true ∧ (run1 (.benchi 5 6 7) s).th.st = .waiting .reach) ∧
    (let s := pageTested [(6, 0x10000), (7, 0)]
     imageWait .rd 0x10000 16384 s = false ∧ imageCause .rd 0x10000 16384 s = none ∧ (imageParts .rd 0x10000 16384 s).any s.partTested = true ∧
       (run1 (.benchi 5 6 7) s).th.st = .waiting .reach) ∧
    (imageWait .wr (win + 0x1000) 16384 (superv []) = false ∧ imageWait .rd (win + 0x1000) 16384 (superv []) = false) := by decide +kernel

/-- R349: a bundle whose home is under test is fetched when the test has ended. -/
theorem test_fetch_under_test :
    let s : State := { fetched with dies := [(0, { testUnit := some 0 })] }
    (resState (step s) s).th.st = .waiting .reach ∧ (let t := resState (step s) s; (run1 (.selfTestComplete 0 true) t).th.st = .ready) := by decide +kernel
end Sys2Proof.Tests
end

section
/-! O11: the checks at issue (R54 steps 2 to 4, R269, R270): which instructions are privileged or need the matrix engine, the causes that
the checks give, and the traps that follow from them. -/

namespace Sys2Proof.Laws.IssueChecks

open Machine

/-! ### Which instructions are privileged, and which need the matrix engine (R269, R270) -/

theorem privileged_iff (i : Instr) :
    i.privileged = true ↔ i = .eret ∨ (∃ d a b, i = .bencho d a b ∨ i = .benchi d a b ∨ i = .xinv d a b) ∨
      ∃ d a, i = .mapset d a ∨ i = .keyset d a ∨ i = .selft d a := by
  cases i <;> simp [Instr.privileged]

theorem matrix_iff (i : Instr) :
    i.matrix = true ↔ (∃ r q c f p z w m, i = .mma r q c f p z w m) ∨ ∃ a b, i = .aclr a b ∨ i = .asto a b ∨ i = .ald a b := by
  cases i <;> simp [Instr.matrix]

/-- No privileged instruction needs the matrix engine. -/
theorem matrix_of_privileged {i : Instr} (h : i.privileged = true) : i.matrix = false := by
  obtain rfl | ⟨d, a, b, rfl | rfl | rfl⟩ | ⟨d, a, rfl | rfl | rfl⟩ := (privileged_iff i).1 h <;> rfl

/-! ### The checks (R54 steps 2 to 4) -/

theorem precheck_matrix {i : Instr} {s : State} (hm : i.matrix = true) (hg : s.gateway = true) :
    precheck i s = some { code := cIllegal, eval := wd s.bundle } := if_pos ⟨hm, hg⟩

theorem precheck_privileged {i : Instr} {s : State} (hp : i.privileged = true) (hu : s.user = true) :
    precheck i s = some { code := cPriv, eval := wd s.bundle } := by
  simp [precheck, matrix_of_privileged hp, hp, hu]

/-- Past the gateway and the privilege, the first failing field is the cause. -/
theorem precheck_fields {i : Instr} {s : State} {c : Cause} (hm : i.matrix = false) (hp : i.privileged = false)
    (hf : fieldsCheck s.th.limit s.th.vlimit (if s.handoff then 0 else s.kern.pregs) i.fields = some c) :
    precheck i s = some c := by
  simp [precheck, hm, hp, hf]

/-- An instruction that needs no matrix engine is checked alike on every etlet. -/
theorem precheck_eid {i : Instr} (hm : i.matrix = false) (s : State) (e : Nat) : precheck i { s with eid := e } = precheck i s := by
  simp only [precheck, hm]
  rfl

/-- A field fails with ILLEGAL or WINDOW. -/
theorem fieldCheck_code {l vl p : Nat} {f : Fld} {c : Cause} (h : fieldCheck l vl p f = some c) : c.code = cIllegal ∨ c.code = cWindow := by
  cases f
  case head => cases h
  all_goals simp only [fieldCheck] at h; split_ifs at h <;> cases h <;> simp [illegalReg]

/-- The first field that fails gives the cause. -/
theorem fieldsCheck_head {l vl p : Nat} {f : Fld} {c : Cause} (h : fieldCheck l vl p f = some c) (fs : List Fld) :
    fieldsCheck l vl p (f :: fs) = some c := by
  simp [fieldsCheck, h]

theorem fieldsCheck_code {l vl p : Nat} {fs : List Fld} {c : Cause} (h : fieldsCheck l vl p fs = some c) :
    c.code = cIllegal ∨ c.code = cWindow := by
  induction fs with
  | nil => cases h
  | cons f fs ih =>
    cases hf : fieldCheck l vl p f with
    | some x =>
      obtain rfl : x = c := Option.some.inj ((fieldsCheck_head hf fs).symm.trans h)
      exact fieldCheck_code hf
    | none => exact ih (by simpa [fieldsCheck, hf] using h)

theorem runCheck_code {i : Instr} {s : State} {c : Cause} (h : runCheck i s = some c) : c.code = cIllegal := by
  unfold runCheck at h
  split at h
  · split_ifs at h
    cases h
    rfl
  · cases h

/-- Where no privilege is missing, a check fails with ILLEGAL or WINDOW. -/
theorem precheck_code {i : Instr} {s : State} {c : Cause} (hn : i.privileged = false ∨ s.user = false)
    (h : precheck i s = some c) : c.code = cIllegal ∨ c.code = cWindow := by
  have hpu : ¬(i.privileged = true ∧ s.user = true) := by rcases hn with hn | hn <;> simp [hn]
  unfold precheck at h
  rw [if_neg hpu] at h
  split at h
  · cases h
    exact .inl rfl
  · cases hf : fieldsCheck s.th.limit s.th.vlimit (if s.handoff then 0 else s.kern.pregs) i.fields with
    | some x =>
      obtain rfl : x = c := by simpa [hf] using h
      exact fieldsCheck_code hf
    | none => exact .inl (runCheck_code (by simpa [hf] using h))

/-- Only a privileged instruction in user mode takes PRIV. -/
theorem precheck_code_ne_priv {i : Instr} {s : State} {c : Cause} (hn : i.privileged = false ∨ s.user = false)
    (h : precheck i s = some c) : c.code ≠ 0x02 := by
  rcases precheck_code hn h with hc | hc <;> simp [hc, cIllegal, cWindow]

/-! ### The traps -/

/-- A privileged instruction does nothing before its checks. -/
theorem exec_privileged {i : Instr} (h : i.privileged = true) (s : State) : ∃ body, exec i s = issue i s body := by
  obtain rfl | ⟨d, a, b, rfl | rfl | rfl⟩ | ⟨d, a, rfl | rfl | rfl⟩ := (privileged_iff i).1 h <;> exact ⟨_, rfl⟩

theorem privileged_traps {i : Instr} {s : State} (hp : i.privileged = true) (hu : s.user = true) (h0 : s.ph = 0) :
    Traps i s { code := 0x02, eval := wd s.bundle } := by
  obtain ⟨body, hexec⟩ := exec_privileged hp s
  exact hexec.trans (issue_traps h0 (precheck_privileged (s := start s) hp hu) body)

/-- An encoded MMA has primary 0x14, and so enters the dispatch log (R175). -/
theorem dispatches_mma {r n c f p z q m : Nat} (h : (Instr.mma r n c f p z q m).wf = true) :
    dispatches (.mma r n c f p z q m) = true := by
  have hprim : primary (.mma r n c f p z q m) = 0x14 := by
    simp only [Instr.wf, Bool.and_eq_true, decide_eq_true_eq] at h
    simp only [primary, encodeBody]
    omega
  simp [dispatches, hprim]

/-- The instructions of the matrix engine do nothing before their checks, but for an MMA that a full dispatch log holds back. -/
theorem exec_matrix {i : Instr} (hw : i.wf = true) (hm : i.matrix = true) {s : State} (hd : dispatches i = true → s.dlogFull = false) :
    ∃ body, exec i s = issue i s body := by
  obtain ⟨r, n, c, f, p, z, q, m, rfl⟩ | ⟨a, b, rfl | rfl | rfl⟩ := (matrix_iff i).1 hm
  · exact ⟨_, if_neg (by simp [hd (dispatches_mma hw)])⟩
  all_goals exact ⟨_, rfl⟩

/-- What R270 says of a gateway, for the instructions that have an encoding. -/
theorem matrix_traps {i : Instr} {s : State} (hw : i.wf = true) (hm : i.matrix = true) (hg : s.gateway = true) (h0 : s.ph = 0)
    (hd : dispatches i = true → s.dlogFull = false) : Traps i s { code := 0x01, eval := wd s.bundle } := by
  obtain ⟨body, hexec⟩ := exec_matrix hw hm hd
  exact hexec.trans (issue_traps h0 (precheck_matrix (s := start s) hm hg) body)

/-- An integer instruction of one result names its d first. -/
theorem intResult_fields {i : Instr} {r : Nat → Word} {d : Nat} {v : Word} (h : Rules.intResult i r = some (d, v)) :
    i.matrix = false ∧ i.privileged = false ∧ ∃ fs, i.fields = .dst d :: fs ∨ i.fields = .both d :: fs := by
  cases i <;> cases h
  case movhi => exact ⟨rfl, rfl, _, .inr rfl⟩
  all_goals exact ⟨rfl, rfl, _, .inl rfl⟩

/-- It does nothing before its checks. -/
theorem exec_intResult {i : Instr} {r : Nat → Word} {d : Nat} {v : Word} (h : Rules.intResult i r = some (d, v)) (s : State) :
    ∃ body, exec i s = issue i s body := by
  cases i <;> cases h <;> exact ⟨_, rfl⟩

/-- The trap of an integer instruction whose d fails its check. -/
theorem intResult_traps {i : Instr} {s : State} {d : Nat} {v : Word} {c : Cause} (h : Rules.intResult i s.rd = some (d, v)) (h0 : s.ph = 0)
    (hdst : ∀ vl p, fieldCheck s.th.limit vl p (.dst d) = some c) : Traps i s c := by
  obtain ⟨hm, hp, fs, hfs⟩ := intResult_fields h
  obtain ⟨body, hexec⟩ := exec_intResult h s
  have hboth : ∀ vl p, fieldCheck s.th.limit vl p (.both d) = some c := hdst
  refine hexec.trans (issue_traps h0 (precheck_fields hm hp ?_) body)
  rcases hfs with hfs | hfs <;> rw [hfs]
  · exact fieldsCheck_head (hdst _ _) fs
  · exact fieldsCheck_head (hboth _ _) fs

theorem intResult_traps_window {i : Instr} {s : State} {d : Nat} {v : Word} (h : Rules.intResult i s.rd = some (d, v)) (h0 : s.ph = 0)
    (hl : s.th.limit ≤ d) (hd : d < 112) : Traps i s { code := 0x13, eval := wd d } :=
  intResult_traps h h0 fun _ _ => if_pos ⟨hl, hd⟩

theorem intResult_traps_readOnly {i : Instr} {s : State} {d : Nat} {v : Word} (h : Rules.intResult i s.rd = some (d, v)) (h0 : s.ph = 0)
    (hd : d = 113 ∨ d = 118 ∨ d = 119) : Traps i s { code := 0x01, eval := wd d, info := 1 } :=
  intResult_traps h h0 fun _ _ => (if_neg (by omega)).trans (if_pos hd)

/-! ### O11: what it comes to, and where it fails -/

/-- O11's clause on gateways, of every instruction of the model, whether or not it has an encoding. -/
def GatewayClause : Prop :=
  ∀ (i : Instr) (s : State), i.matrix = true → s.gateway = true → s.ph = 0 → (dispatches i = true → s.dlogFull = false) →
    Traps i s { code := 0x01, eval := wd s.bundle }

/-- The other clauses of O11 hold. -/
theorem issueChecks_iff_gatewayClause : Obligations.IssueChecks ↔ GatewayClause := by
  unfold Obligations.IssueChecks
  constructor
  · rintro ⟨-, -, -, -, hgateway, -⟩
    exact hgateway
  · intro hgateway
    refine ⟨privileged_iff, fun i s hp hu h0 => privileged_traps hp hu h0, fun i s c hn h => precheck_code_ne_priv hn h, matrix_iff,
      hgateway, fun i s e hm => precheck_eid hm s e, fun i s d v h h0 => ⟨?_, intResult_traps_readOnly h h0⟩⟩
    rintro ⟨hl, hd⟩
    exact intResult_traps_window h h0 hl hd

/-- An MMA whose first ring does not fit its 4 bits: 16 carries into the primary of its body, which is then 0x15 and not 0x14. -/
def overflowingMma : Instr := .mma 16 0 0 0 0 0 0 0

/-- A thread of a gateway (R196) whose etlet's dispatch log holds 64 unread faults (R175). -/
def gatewayFullLog : State :=
  { thr := some {}, eid := 1, etl := { dlog := List.replicate 64 ⟨0, 0, 0, 0, 0, some (0, 0), false⟩ } }

theorem overflowingMma_dispatches : dispatches overflowingMma = false := by decide

theorem gatewayFullLog_dlogFull : gatewayFullLog.dlogFull = true := by decide

/-- With a full log an MMA does not go on to its checks, R270's among them. -/
theorem exec_mma_dlogFull {s : State} (h : s.dlogFull = true) (r n c f p z q m : Nat) :
    exec (.mma r n c f p z q m) s = .next (start s) := if_pos h

theorem gatewayFullLog_takeTrap :
    (takeTrap { code := 0x01, eval := wd gatewayFullLog.bundle } (start gatewayFullLog)).trap ≠ none := by decide +kernel

/-- The clause goes by the primary of the body (`dispatches`) where it leaves out an MMA that a full log holds back, so an MMA that does
not fit its encoding stays in it; `exec` holds that one back too, and no trap is taken. Of the instructions that have an encoding the
clause holds (`matrix_traps`). -/
theorem not_gatewayClause : ¬ GatewayClause := by
  intro hgateway
  have htraps : Traps overflowingMma gatewayFullLog { code := 0x01, eval := wd gatewayFullLog.bundle } :=
    hgateway overflowingMma gatewayFullLog rfl (by decide) rfl (fun h => by simp [overflowingMma_dispatches] at h)
  have hheld : exec overflowingMma gatewayFullLog = .next (start gatewayFullLog) := exec_mma_dlogFull gatewayFullLog_dlogFull ..
  have hstate := Host.Outcome.next.inj (htraps.symm.trans hheld)
  exact gatewayFullLog_takeTrap (congrArg State.trap hstate)

/-- Refutes O11: its clause on gateways fails of an MMA that has no encoding, `overflowingMma` in `gatewayFullLog`; the rest holds. -/
theorem not_issueChecks : ¬ Obligations.IssueChecks := fun h => not_gatewayClause (issueChecks_iff_gatewayClause.1 h)

end Sys2Proof.Laws.IssueChecks
end

section
/-! What the machine's operations on words give in the arithmetic of numbers, and bit by bit: the values of the integer and bit
instructions (R274, R275, R286, R329, R333, R334, R336, R337, R339, R346, R353, R359, R385). -/

namespace Sys2Proof.Laws.Words

open Machine

/-! ### Words of numbers -/

/-- A word is that of its number; so an operation that is stated on numbers follows from the number of its result. -/
theorem wd_toNat (x : Word) : wd x.toNat = x := BitVec.ofNat_toNat 64 x |>.trans (BitVec.setWidth_eq x)

theorem eq_wd {x : Word} {n : Nat} (h : x.toNat = n) : x = wd n := by rw [← h, wd_toNat]

theorem toNat_wd_of_lt {n : Nat} (h : n < 2 ^ 64) : (wd n).toNat = n := Nat.mod_eq_of_lt h

/-! ### Sums, products and logic -/

theorem add_eq (x y : Word) : x + y = wd ((x.toNat + y.toNat) % 2 ^ 64) := eq_wd rfl

theorem add_eq_ofInt (x y : Word) : x + y = BitVec.ofInt 64 (x.toInt + y.toInt) := by
  rw [BitVec.ofInt_add, BitVec.ofInt_toInt, BitVec.ofInt_toInt]

theorem sub_eq_ofInt (x y : Word) : x - y = BitVec.ofInt 64 (x.toInt - y.toInt) :=
  BitVec.eq_of_toInt_eq (by rw [BitVec.toInt_sub, BitVec.toInt_ofInt])

theorem mul_eq_ofInt (x y : Word) : x * y = BitVec.ofInt 64 (x.toInt * y.toInt) := by
  rw [BitVec.ofInt_mul, BitVec.ofInt_toInt, BitVec.ofInt_toInt]

theorem mulHigh_natCast (m n : Nat) : mulHigh m n = wd (m * n / 2 ^ 64) := by
  rw [wd, ← BitVec.ofInt_natCast]
  push_cast
  rfl

theorem and_eq (x y : Word) : x &&& y = wd (x.toNat &&& y.toNat) := eq_wd (BitVec.toNat_and x y)

theorem or_eq (x y : Word) : x ||| y = wd (x.toNat ||| y.toNat) := eq_wd (BitVec.toNat_or x y)

theorem xor_eq (x y : Word) : x ^^^ y = wd (x.toNat ^^^ y.toNat) := eq_wd (BitVec.toNat_xor x y)

theorem andn_eq (x y : Word) : x &&& ~~~y = wd (x.toNat &&& (2 ^ 64 - 1 - y.toNat)) :=
  eq_wd (by rw [BitVec.toNat_and, BitVec.toNat_not])

/-! ### The lesser and the greater -/

theorem min_eq_ofInt (x y : Word) : (if x.toInt ≤ y.toInt then x else y) = BitVec.ofInt 64 (min x.toInt y.toInt) := by
  rw [min_def]
  split <;> rw [BitVec.ofInt_toInt]

theorem max_eq_ofInt (x y : Word) : (if x.toInt ≤ y.toInt then y else x) = BitVec.ofInt 64 (max x.toInt y.toInt) := by
  rw [max_def]
  split <;> rw [BitVec.ofInt_toInt]

theorem minu_eq (x y : Word) : (if x.toNat ≤ y.toNat then x else y) = wd (min x.toNat y.toNat) := by
  rw [min_def]
  split <;> rw [wd_toNat]

theorem maxu_eq (x y : Word) : (if x.toNat ≤ y.toNat then y else x) = wd (max x.toNat y.toNat) := by
  rw [max_def]
  split <;> rw [wd_toNat]

/-! ### Shifts -/

theorem shiftLeft_eq (x : Word) (n : Nat) : x <<< n = wd (x.toNat * 2 ^ n % 2 ^ 64) :=
  eq_wd (by rw [BitVec.toNat_shiftLeft, Nat.shiftLeft_eq])

theorem shiftRight_eq (x : Word) (n : Nat) : x >>> n = wd (x.toNat / 2 ^ n) :=
  eq_wd (by rw [BitVec.toNat_ushiftRight, Nat.shiftRight_eq_div_pow])

theorem sshiftRight_eq_ofInt (x : Word) (n : Nat) : x.sshiftRight n = BitVec.ofInt 64 (x.toInt / 2 ^ n) := by
  rw [BitVec.sshiftRight, Int.shiftRight_eq_div_pow]
  push_cast
  rfl

/-- What leaves a word on the left leaves its high bits: the rest stays apart from the `n` bits below. -/
theorem shiftLeft_toNat_split {n : Nat} (hn : n ≤ 64) (x : Word) : (x <<< (64 - n)).toNat = x.toNat % 2 ^ n * 2 ^ (64 - n) := by
  have hpow : 2 ^ 64 = 2 ^ n * 2 ^ (64 - n) := by rw [← Nat.pow_add, Nat.add_sub_cancel' hn]
  rw [BitVec.toNat_shiftLeft, Nat.shiftLeft_eq, hpow, Nat.mul_mod_mul_right]

theorem rotr64_eq {n : Nat} (hn : n < 64) (x : Word) : rotr64 x n = wd (x.toNat / 2 ^ n + x.toNat % 2 ^ n * 2 ^ (64 - n)) := by
  unfold rotr64
  split
  case isTrue h0 => simp [h0, Nat.mod_one, wd_toNat]
  case isFalse h0 =>
    have hlow : x.toNat / 2 ^ n < 2 ^ (64 - n) := by
      rw [Nat.div_lt_iff_lt_mul (Nat.two_pow_pos n), ← Nat.pow_add, Nat.sub_add_cancel hn.le]
      exact x.isLt
    refine eq_wd ?_
    rw [BitVec.toNat_or, BitVec.toNat_ushiftRight, Nat.shiftRight_eq_div_pow, shiftLeft_toNat_split hn.le, Nat.or_comm, Nat.add_comm,
      Nat.mul_comm, Nat.two_pow_add_eq_or_of_lt hlow]

/-- MOVHI's word: the low half of `x` under `k` (R333). -/
theorem movhi_eq (x : Word) {k : Nat} (hk : k < 2 ^ 32) : (x &&& 0xFFFFFFFF) ||| (wd k <<< 32) = wd (k * 2 ^ 32 + x.toNat % 2 ^ 32) := by
  have hhigh : (wd k <<< 32).toNat = 2 ^ 32 * k := by
    rw [BitVec.toNat_shiftLeft, toNat_wd_of_lt (by omega), Nat.shiftLeft_eq]
    omega
  have hlow : (x &&& ((0xFFFFFFFF : ℕ) : Word)).toNat = x.toNat % 2 ^ 32 := (BitVec.toNat_and _ _).trans (Nat.and_two_pow_sub_one_eq_mod x.toNat 32)
  refine eq_wd ?_
  rw [BitVec.toNat_or, hhigh, hlow, Nat.or_comm, ← Nat.two_pow_add_eq_or_of_lt (Nat.mod_lt _ (by decide)), Nat.mul_comm]

/-! ### Signed numbers of fewer bits -/

/-- Sign extension is the signed number of the low bits (R8). -/
theorem sext_eq_ofInt (v n : Nat) : sext v n = BitVec.ofInt 64 (BitVec.ofNat n v).toInt := by
  cases n with
  | zero => simp [sext, BitVec.toInt_zero_length]
  | succ n =>
    rw [sext, if_neg n.succ_ne_zero, Nat.add_sub_cancel, BitVec.toInt_eq_toNat_cond, BitVec.toNat_ofNat, Nat.pow_succ']
    by_cases h : 2 ^ n ≤ v % (2 * 2 ^ n)
    · rw [if_pos h, if_neg (by omega)]
      rfl
    · rw [if_neg h, if_pos (by omega), BitVec.ofInt_natCast]

/-- The 32-bit result of a W operation depends on the number modulo 2^32 alone. -/
theorem wResult_ofInt (z : Int) : wResult (BitVec.ofInt 64 z) = Rules.w32 z := by
  have hlow : BitVec.ofNat 32 (BitVec.ofInt 64 z).toNat = BitVec.ofInt 32 z :=
    BitVec.eq_of_toNat_eq (by simp only [BitVec.toNat_ofNat, BitVec.toNat_ofInt]; omega)
  rw [wResult, sext_eq_ofInt, hlow]
  rfl

theorem wResult_add (x y : Word) : wResult (x + y) = Rules.w32 (x.toInt + y.toInt) := by rw [add_eq_ofInt, wResult_ofInt]

theorem wResult_sub (x y : Word) : wResult (x - y) = Rules.w32 (x.toInt - y.toInt) := by rw [sub_eq_ofInt, wResult_ofInt]

theorem wResult_mul (x y : Word) : wResult (x * y) = Rules.w32 (x.toInt * y.toInt) := by rw [mul_eq_ofInt, wResult_ofInt]

/-- SEXT's word: bit `k` weighs -2^k (R353). -/
theorem sext_succ (x : Word) (k : Nat) : sext x.toNat (k + 1) = BitVec.ofInt 64
    (if x.getLsbD k then Int.ofNat (x.toNat % 2 ^ k) - Int.ofNat (2 ^ k) else Int.ofNat (x.toNat % 2 ^ k)) := by
  have hlow := Nat.mod_lt x.toNat (Nat.two_pow_pos k)
  have hbit : x.getLsbD k = x.toNat.testBit k := rfl
  rw [sext, if_neg k.succ_ne_zero, Nat.add_sub_cancel, Nat.mod_pow_succ, ← Nat.toNat_testBit, hbit]
  cases x.toNat.testBit k
  · rw [Bool.toNat_false, Nat.mul_zero, Nat.add_zero, if_neg (not_le.2 hlow)]
    exact (BitVec.ofInt_natCast 64 _).symm
  · rw [Bool.toNat_true, Nat.mul_one, if_pos (Nat.le_add_left _ _), if_pos rfl]
    have hweight : ((x.toNat % 2 ^ k + 2 ^ k : ℕ) : ℤ) - ((2 ^ (k + 1) : ℕ) : ℤ) =
        ((x.toNat % 2 ^ k : ℕ) : ℤ) - ((2 ^ k : ℕ) : ℤ) := by
      push_cast
      ring
    exact congrArg (BitVec.ofInt 64) hweight

/-! ### Immediates -/

/-- A short field or a literal that fits its bits has its signed value (Table 3.3). -/
theorem sext_of_lt {v n : Nat} (hn : 0 < n) (hv : v < 2 ^ n) :
    sext v n = BitVec.ofInt 64 (if 2 ^ (n - 1) ≤ v then Int.ofNat v - Int.ofNat (2 ^ n) else Int.ofNat v) := by
  rw [sext, if_neg hn.ne', Nat.mod_eq_of_lt hv]
  split
  · rfl
  · exact (BitVec.ofInt_natCast 64 v).symm

theorem sval_eq {n : Nat} (hn : 0 < n) {i : Imm} (hi : i.wf (2 ^ n) = true) : i.sval n = BitVec.ofInt 64 (Rules.immInt n i) := by
  cases i with
  | short v => exact sext_of_lt hn (of_decide_eq_true hi)
  | long k => exact sext_of_lt (n := 32) (by decide) (of_decide_eq_true (p := k < 2 ^ 32) hi)

theorem zval_eq (i : Imm) : i.zval = wd (Rules.immNat i) := by cases i <;> rfl

theorem addi_eq (x : Word) {i : Imm} (hi : i.wf 1024 = true) : x + i.sval 10 = BitVec.ofInt 64 (x.toInt + Rules.immInt 10 i) := by
  rw [sval_eq (n := 10) (by decide) hi, BitVec.ofInt_add, BitVec.ofInt_toInt]

theorem andi_eq (x : Word) {i : Imm} (hi : i.wf 1024 = true) : x &&& i.sval 10 = BitVec.ofInt 64 (Rules.immInt 10 i) &&& x := by
  rw [sval_eq (n := 10) (by decide) hi, BitVec.and_comm]

theorem ori_eq (x : Word) (i : Imm) : x ||| i.zval = wd (x.toNat ||| Rules.immNat i) := by
  rw [zval_eq, wd, wd, BitVec.ofNat_or, BitVec.ofNat_toNat, BitVec.setWidth_eq]

theorem xori_eq (x : Word) (i : Imm) : x ^^^ i.zval = wd (x.toNat ^^^ Rules.immNat i) := by
  rw [zval_eq, wd, wd, BitVec.ofNat_xor, BitVec.ofNat_toNat, BitVec.setWidth_eq]

/-! ### Conditions (R291) -/

theorem condition_eq_holds (c : Nat) (x y : Word) : condition c x y = Rules.holds c x.toNat y.toNat x.toInt y.toInt := by
  unfold condition Rules.holds
  split <;> simp [BitVec.toNat_eq]

/-! ### Bits (R286, R339) -/

/-- The highest bit that a number below 2^(n+1) can have. -/
theorem testBit_top {m n : Nat} (h : m < 2 ^ (n + 1)) : m.testBit n = decide (2 ^ n ≤ m) := by
  by_cases hn : 2 ^ n ≤ m
  · rw [Nat.testBit_of_two_pow_le_and_two_pow_add_one_gt hn h, decide_eq_true hn]
  · rw [Nat.testBit_lt_two_pow (not_le.1 hn), decide_eq_false hn]

theorem clzN_eq {x : Word} (n : Nat) (h : x.toNat < 2 ^ n) : clzN n x = if x.toNat = 0 then n else n - 1 - Nat.log2 x.toNat := by
  induction n with
  | zero => simp [clzN, Nat.lt_one_iff.1 h]
  | succ n ih =>
    have hbit : x.getLsbD n = decide (2 ^ n ≤ x.toNat) := testBit_top h
    rw [clzN, hbit]
    by_cases hn : 2 ^ n ≤ x.toNat
    · have h0 : x.toNat ≠ 0 := by have := Nat.two_pow_pos n; omega
      rw [decide_eq_true hn, if_pos rfl, if_neg h0, (Nat.log2_eq_iff h0).2 ⟨hn, h⟩, Nat.add_sub_cancel, Nat.sub_self]
    · rw [decide_eq_false hn, if_neg (by decide), ih (not_le.1 hn)]
      split
      · omega
      · next h0 =>
        have := (Nat.log2_lt h0).2 (not_le.1 hn)
        omega

/-- Counting from bit 64 - n upward finds the lowest bit set there. -/
theorem ctzN_eq (x : Word) (n : Nat) (hn : n ≤ 64) :
    64 - n + ctzN n x = ((List.range' (64 - n) n).find? (fun k => x.getLsbD k)).getD 64 := by
  induction n with
  | zero => rfl
  | succ n ih =>
    have hnext : 64 - (n + 1) + 1 = 64 - n := by omega
    have hbit : 63 - n = 64 - (n + 1) := by omega
    rw [List.range'_succ, hnext, List.find?_cons, ctzN, hbit]
    cases x.getLsbD (64 - (n + 1))
    · rw [← ih (by omega)]
      simp only [Bool.false_eq_true, if_false]
      omega
    · rfl

theorem ctzN_64 (x : Word) : ctzN 64 x = ((List.range 64).find? (fun k => x.getLsbD k)).getD 64 := by
  rw [List.range_eq_range', ← ctzN_eq x 64 le_rfl, Nat.sub_self, Nat.zero_add]

theorem popcount_eq (k n : Nat) : popcount k n = ((List.range k).filter (fun i => n.testBit i)).length := by
  induction k generalizing n with
  | zero => rfl
  | succ k ih =>
    have htail : (fun i => n.testBit i) ∘ Nat.succ = fun i => (n / 2).testBit i := funext fun i => Nat.testBit_succ n i
    rw [popcount, ih, List.range_succ_eq_map, List.filter_cons, List.filter_map, htail, Nat.testBit_zero]
    rcases Nat.mod_two_eq_zero_or_one n with h | h <;> simp [h, Nat.add_comm]

theorem popcount_word (x : Word) : popcount 64 x.toNat = ((List.range 64).filter (fun k => x.getLsbD k)).length :=
  popcount_eq 64 x.toNat

/-- A loop that sets the bits that `p` accepts, each at its own turn. -/
theorem getLsbD_loop_setBits (p : Nat → Bool) (n : Nat) : ∀ (i : Nat) (r : Word) (k : Nat), k < 64 →
    (loop (fun j r => if p j then r ||| wd (2 ^ j) else r) i n r).getLsbD k = (r.getLsbD k || (decide (i ≤ k ∧ k < i + n) && p k)) := by
  induction n with
  | zero => simp [loop]
  | succ n ih =>
    intro i r k hk
    rw [loop, ih (i + 1) _ k hk]
    have hbit : (wd (2 ^ i)).getLsbD k = decide (i = k) := by rw [wd, BitVec.getLsbD_ofNat, Nat.testBit_two_pow, decide_eq_true hk, Bool.true_and]
    by_cases hik : i = k
    · subst hik
      cases p i <;> simp [hbit]
    · have hrange : (i + 1 ≤ k ∧ k < i + 1 + n) ↔ (i ≤ k ∧ k < i + (n + 1)) := by omega
      simp only [hrange]
      cases p i <;> simp [hbit, hik]

theorem brev64_eq (x : Word) : brev64 x = x.reverse := by
  refine BitVec.eq_of_getLsbD_eq fun k hk => ?_
  rw [brev64, getLsbD_loop_setBits (fun i => x.getLsbD (63 - i)) 64 0 0 k hk, BitVec.getLsbD_reverse, BitVec.getMsbD]
  simp [hk]

/-- A loop that adds up the terms of its turns. -/
theorem loop_add (f : Nat → Nat) (n : Nat) : ∀ i a, loop (fun j r => r + f j) i n a = a + ∑ j ∈ Finset.range n, f (i + j) := by
  induction n with
  | zero => intro i a; simp [loop]
  | succ n ih =>
    intro i a
    rw [loop, ih, Finset.sum_range_succ', Nat.add_assoc, Nat.add_comm (f i)]
    simp only [Nat.add_assoc, Nat.add_comm 1, Nat.add_zero]

theorem foldl_range_add (f : Nat → Nat) (n : Nat) : (List.range n).foldl (fun r j => r + f j) 0 = ∑ j ∈ Finset.range n, f j := by
  induction n with
  | zero => rfl
  | succ n ih => rw [List.range_succ, List.foldl_append, ih, Finset.sum_range_succ]; rfl

/-- Read from the other end, the bytes that BSWAP places are those of its rule. -/
theorem bswap64_eq (x : Word) : bswap64 x = wd ((List.range 8).foldl (fun v k => v + x.toNat / 256 ^ k % 256 * 256 ^ (7 - k)) 0) := by
  rw [bswap64, loop_add, foldl_range_add, ← Finset.sum_range_reflect, Nat.zero_add]
  refine congrArg wd (Finset.sum_congr rfl fun k hk => ?_)
  have hk' : k < 8 := Finset.mem_range.1 hk
  have hback : 7 - (0 + (8 - 1 - k)) = k := by omega
  have hplace : 0 + (8 - 1 - k) = 7 - k := by omega
  rw [hback, hplace]

end Sys2Proof.Laws.Words
end

section
/-! What is left where an instruction of fixed latency completes: a write of a register and the step to the next bundle keep the thread
READY and take no trap, so that the instruction issues (R25, R54). -/

namespace Sys2Proof.Laws.Completion

open Machine

/-! ### The thread's state and the trap -/

theorem modT_st {f : Thread → Thread} (h : ∀ t, (f t).st = t.st) (s : State) : (s.modT f).th.st = s.th.st := by
  unfold State.th State.modT
  cases s.thr with
  | none => rfl
  | some t => exact h t

@[simp] theorem modEt_th (s : State) (e : Nat) (f : Etlet → Etlet) : (s.modEt e f).th = s.th := by unfold State.modEt; split <;> rfl

@[simp] theorem modEt_trap (s : State) (e : Nat) (f : Etlet → Etlet) : (s.modEt e f).trap = s.trap := by unfold State.modEt; split <;> rfl

@[simp] theorem lpSend_trap (s : State) (k : Nat) (v : Word) : (s.lpSend k v).trap = s.trap := by
  unfold State.lpSend; dsimp only; split
  · rfl
  · rw [modEt_trap, modT_trap]

@[simp] theorem lpSend_st (s : State) (k : Nat) (v : Word) : (s.lpSend k v).th.st = s.th.st := by
  unfold State.lpSend; dsimp only; split
  · rfl
  · rw [modEt_th, modT_st]
    intro t
    rfl

/-- What a write of a register can be: of the thread's registers, of a loop port, of a common register, or none (R58). -/
theorem wr_cases (s : State) (n : Nat) (v : Word) : (∃ f : Thread → Thread, s.wr n v = s.modT f ∧ ∀ t, (f t).st = t.st) ∨
    (∃ k, s.wr n v = s.lpSend k v) ∨ (∃ f, s.wr n v = s.modK f) ∨ s.wr n v = s := by
  unfold State.wr
  split_ifs
  · exact .inr (.inr (.inr rfl))
  · exact .inl ⟨_, rfl, fun _ => rfl⟩
  split
  -- Four special registers, four loop ports, four common registers, and the numbers that discard.
  iterate 4 exact .inl ⟨_, rfl, fun _ => rfl⟩
  iterate 4 exact .inr (.inl ⟨_, rfl⟩)
  iterate 4 exact .inr (.inr (.inl ⟨_, rfl⟩))
  exact .inr (.inr (.inr rfl))

@[simp] theorem wr_trap (s : State) (n : Nat) (v : Word) : (s.wr n v).trap = s.trap := by
  obtain ⟨f, h, -⟩ | ⟨k, h⟩ | ⟨f, h⟩ | h := wr_cases s n v <;> simp [h]

@[simp] theorem wr_st (s : State) (n : Nat) (v : Word) : (s.wr n v).th.st = s.th.st := by
  obtain ⟨f, h, hf⟩ | ⟨k, h⟩ | ⟨f, h⟩ | h := wr_cases s n v <;> rw [h]
  · exact modT_st hf s
  · exact lpSend_st s k v
  · exact congrArg Thread.st (modK_th s f)

@[simp] theorem advance_st (s : State) : (advance s).th.st = s.th.st := by
  unfold advance
  split
  · exact modT_st endTest_st s
  · rfl
  · rfl

/-! ### Completion -/

/-- An instruction that issues and whose effect takes no trap and leaves its thread READY completes with that effect. -/
theorem issue_completes {i : Instr} {s t : State} {body : State → State} (h : Issues i s) (hbody : body (start s) = t)
    (htrap : t.trap = none) (hst : t.th.st = .ready) : issue i s body = .next (popPorts (s.ports i) t) := by
  rw [issue_passes h, hbody, if_neg (by simp [State.unissued, htrap, hst])]

/-- An instruction of fixed latency writes its result and goes on (R25). -/
theorem issue_result {i : Instr} {s : State} {body : State → State} {d : Nat} {v : Word} (h : Issues i s)
    (hbody : body (start s) = result d v (start s)) : issue i s body = .next (popPorts (s.ports i) (advance ((start s).wr d v))) :=
  issue_completes h hbody (by simp [start]) (by
    obtain ⟨-, -, hready, -⟩ := h
    simpa using hready)

end Sys2Proof.Laws.Completion
end

section
/-! O18: the integer and bit instructions give the results of their rules in exact arithmetic. -/

namespace Sys2Proof.Laws.IntegerResults

open Machine Words

/-- SETC's word is its condition on the numbers (R351). -/
theorem setc_eq (c : Nat) (x y : Word) :
    (if condition c x y then (1 : Word) else 0) = Rules.flag (Rules.holds c x.toNat y.toNat x.toInt y.toInt) := by
  rw [condition_eq_holds]
  rfl

/-- What an integer instruction of one result does when it issues: it writes the value of its rule. -/
theorem exec_intResult_value {i : Instr} {s : State} {d : Nat} {v : Word} (hw : i.wf = true) (h : Rules.intResult i s.rd = some (d, v)) :
    ∃ value : State → Word, exec i s = issue i s (fun u => result d (value u) u) ∧ value (start s) = v := by
  cases i <;> cases h
  case add a b => exact ⟨_, rfl, add_eq (s.rd a) (s.rd b)⟩
  case sub a b => exact ⟨_, rfl, sub_eq_ofInt (s.rd a) (s.rd b)⟩
  case and a b => exact ⟨_, rfl, and_eq (s.rd a) (s.rd b)⟩
  case or a b => exact ⟨_, rfl, or_eq (s.rd a) (s.rd b)⟩
  case xor a b => exact ⟨_, rfl, xor_eq (s.rd a) (s.rd b)⟩
  case andn a b => exact ⟨_, rfl, andn_eq (s.rd a) (s.rd b)⟩
  case sll a b => exact ⟨_, rfl, shiftLeft_eq (s.rd a) _⟩
  case srl a b => exact ⟨_, rfl, shiftRight_eq (s.rd a) _⟩
  case sra a b => exact ⟨_, rfl, sshiftRight_eq_ofInt (s.rd a) _⟩
  case rotr a b => exact ⟨_, rfl, rotr64_eq (Nat.mod_lt _ (by decide)) (s.rd a)⟩
  case min a b => exact ⟨_, rfl, min_eq_ofInt (s.rd a) (s.rd b)⟩
  case max a b => exact ⟨_, rfl, max_eq_ofInt (s.rd a) (s.rd b)⟩
  case minu a b => exact ⟨_, rfl, minu_eq (s.rd a) (s.rd b)⟩
  case maxu a b => exact ⟨_, rfl, maxu_eq (s.rd a) (s.rd b)⟩
  case addw a b => exact ⟨_, rfl, wResult_add (s.rd a) (s.rd b)⟩
  case subw a b => exact ⟨_, rfl, wResult_sub (s.rd a) (s.rd b)⟩
  case mul a b => exact ⟨_, rfl, mul_eq_ofInt (s.rd a) (s.rd b)⟩
  case mulh a b => exact ⟨_, rfl, rfl⟩
  case mulhu a b => exact ⟨_, rfl, mulHigh_natCast (s.rd a).toNat (s.rd b).toNat⟩
  case mulw a b => exact ⟨_, rfl, wResult_mul (s.rd a) (s.rd b)⟩
  all_goals simp only [Instr.wf, Bool.and_eq_true, decide_eq_true_eq] at hw
  case addi a im => exact ⟨_, rfl, addi_eq (s.rd a) hw.2⟩
  case andi a im => exact ⟨_, rfl, andi_eq (s.rd a) hw.2⟩
  case ori a im => exact ⟨_, rfl, ori_eq (s.rd a) im⟩
  case xori a im => exact ⟨_, rfl, xori_eq (s.rd a) im⟩
  case slli a n => exact ⟨_, rfl, (shiftLeft_eq (s.rd a) _).trans (by rw [Nat.mod_eq_of_lt hw.2])⟩
  case srli a n => exact ⟨_, rfl, (shiftRight_eq (s.rd a) _).trans (by rw [Nat.mod_eq_of_lt hw.2])⟩
  case srai a n => exact ⟨_, rfl, (sshiftRight_eq_ofInt (s.rd a) _).trans (by rw [Nat.mod_eq_of_lt hw.2])⟩
  case rotri a n => exact ⟨_, rfl, (rotr64_eq (Nat.mod_lt _ (by decide)) (s.rd a)).trans (by rw [Nat.mod_eq_of_lt hw.2])⟩
  case movi im => exact ⟨_, rfl, sval_eq (n := 17) (by decide) hw.2⟩
  case movhi k => exact ⟨_, rfl, movhi_eq (s.rd d) hw.2⟩
  case setcEq a b => exact ⟨_, rfl, setc_eq 0 (s.rd a) (s.rd b)⟩
  case setcNe a b => exact ⟨_, rfl, setc_eq 1 (s.rd a) (s.rd b)⟩
  case setcLt a b => exact ⟨_, rfl, setc_eq 2 (s.rd a) (s.rd b)⟩
  case setcGe a b => exact ⟨_, rfl, setc_eq 3 (s.rd a) (s.rd b)⟩
  case setcLtu a b => exact ⟨_, rfl, setc_eq 4 (s.rd a) (s.rd b)⟩
  case setcGeu a b => exact ⟨_, rfl, setc_eq 5 (s.rd a) (s.rd b)⟩
  case setcBs a b => exact ⟨_, rfl, setc_eq 6 (s.rd a) (s.rd b)⟩
  case setcBc a b => exact ⟨_, rfl, setc_eq 7 (s.rd a) (s.rd b)⟩

/-- What a bit instruction does when it issues. -/
theorem exec_bitResult_value {i : Instr} {s : State} {d : Nat} {v : Word} (h : Rules.bitResult i s.rd = some (d, v)) :
    ∃ value : State → Word, exec i s = issue i s (fun u => result d (value u) u) ∧ value (start s) = v := by
  cases i <;> cases h
  case clz a => exact ⟨_, rfl, congrArg wd (clzN_eq 64 (s.rd a).isLt)⟩
  case ctz a => exact ⟨_, rfl, congrArg wd (ctzN_64 (s.rd a))⟩
  case popc a => exact ⟨_, rfl, congrArg wd (popcount_word (s.rd a))⟩
  case brev a => exact ⟨_, rfl, brev64_eq (s.rd a)⟩
  case bswap a => exact ⟨_, rfl, bswap64_eq (s.rd a)⟩
  case sext a k => exact ⟨_, rfl, sext_succ (s.rd a) k⟩
  case zext a k => exact ⟨_, rfl, rfl⟩

/-- Settles O18: each instruction writes the value of its rule, which its word equals, and completes. -/
theorem integerResults : Obligations.IntegerResults := by
  unfold Obligations.IntegerResults
  intro i s d v hw hrule hissues
  obtain ⟨value, hexec, hvalue⟩ : ∃ value : State → Word, exec i s = issue i s (fun u => result d (value u) u) ∧ value (start s) = v := by
    rcases hrule with h | h
    · exact exec_intResult_value hw h
    · exact exec_bitResult_value h
  exact hexec.trans (Completion.issue_result hissues (by rw [hvalue]))

end Sys2Proof.Laws.IntegerResults
end

section
/-! O21: the compares that annul (R291, R307), and what becomes of the bundles they annul (R292). -/

namespace Sys2Proof.Laws.Compares

open Machine Words

/-! ### Annulled bundles (R292) -/

@[simp] theorem heatUp_thr (s : State) (a : Nat) : (s.heatUp a).thr = s.thr := by unfold State.heatUp; split <;> rfl

@[simp] theorem l2Fill_thr (s : State) (k a : Nat) : (s.l2Fill k a).thr = s.thr := by
  unfold State.l2Fill; dsimp only; split_ifs
  · rfl
  · exact heatUp_thr s a
  · exact heatUp_thr s a
  · rfl

@[simp] theorem l2Touch_thr (s : State) (k a : Nat) : (s.l2Touch k a).thr = s.thr := by unfold State.l2Touch; split <;> simp

/-- Fetching a bundle changes no thread. -/
@[simp] theorem fetched_th (s : State) (g : Nat) : (s.fetched g).th = s.th := congrArg (fun t => t.getD {}) (l2Touch_thr s _ g)

/-- A change of the thread in focus is what it makes of that thread. -/
theorem modT_congr {s : State} {f g : Thread → Thread} (h : f s.th = g s.th) : s.modT f = s.modT g := by
  unfold State.th at h
  unfold State.modT
  cases ht : s.thr with
  | none => rfl
  | some t => simpa [ht] using h

/-- The next annulled bundle is fetched and passed: the end test is made, and one fewer is left to annul. -/
theorem passSkip_succ {s : State} {n g : Nat} {ca : Bool} (hskip : s.th.skip = n + 1) (hfetch : s.fetch = .ok g ca) :
    passSkip (n + 1) s = passSkip n ((s.fetched g).modT (fun t => { endTest t with skip := n })) := by
  have hleft : (s.fetched g).modT (fun t => { endTest t with skip := t.skip - 1 }) = (s.fetched g).modT (fun t => { endTest t with skip := n }) :=
    modT_congr (by rw [fetched_th, hskip, Nat.add_sub_cancel])
  rw [passSkip, if_neg (by omega), hfetch, ← hleft]

/-! ### A trap drops the window (R292) -/

theorem readyWhere_status (p : Wait → Bool) (s : State) : (readyWhere p s).th.status = s.th.status := by
  unfold readyWhere State.th
  cases s.thr with
  | none => rfl
  | some t =>
    dsimp only [Option.map_some, Option.getD_some]
    split
    · split <;> rfl
    · rfl

/-- Ending a thread's capture changes the etlet's units and makes threads READY, and does nothing else. -/
theorem dropCapture_keeps {P : State → Prop} (hunits : ∀ u f, P u → P (u.modE f)) (hready : ∀ u p, P u → P (readyWhere p u)) {s : State}
    (h : P s) : P (dropCapture s) := by
  unfold dropCapture
  extract_lets asked drained
  have hasked : P asked := hunits _ _ h
  have hdrained : P drained := by
    unfold drained
    split
    · exact hready _ _ (hunits _ _ hasked)
    · exact hasked
  split
  · split
    · exact hready _ _ (hunits _ _ hdrained)
    · exact hdrained
  · exact hdrained

theorem dropCapture_status (s : State) : (dropCapture s).th.status = s.th.status :=
  dropCapture_keeps (P := fun u => u.th.status = s.th.status) (fun _ _ h => h) (fun u p h => (readyWhere_status p u).trans h) rfl

theorem roused_status (s : State) : (s.modT (Thread.roused s.now)).th.status = s.th.status := by
  unfold State.th State.modT
  cases s.thr with
  | none => rfl
  | some t => obtain ⟨w, h⟩ := roused_cases s.now t; exact (congrArg Thread.status h :)

theorem trapStart_status {s : State} (c : Cause) (hg : s.th.gangN = 0) : (trapStart c s).th.status = s.th.status := by
  rw [trapStart_lone c hg]
  exact (dropCapture_status _).trans (roused_status s)

theorem enterTrap_th_skip (c : Cause) (s : State) : (s.modT (enterTrap c)).th.skip = 0 := by
  unfold State.th State.modT
  cases s.thr <;> rfl

theorem takeTrap_skip {s : State} (c : Cause) (hh : s.handoff = false) (he : s.th.status.getLsbD 4 = false) (hg : s.th.gangN = 0) :
    (takeTrap c s).th.skip = 0 := by
  rw [takeTrap_enters c hh hg ((congrArg (fun w => w.getLsbD 4) (trapStart_status c hg)).trans he)]
  exact enterTrap_th_skip c _

/-! ### The effect of a compare -/

/-- What every compare leaves: the next bundle, `k` bundles to annul where the condition is false, and the flags `fl`. -/
def compared (k : Nat) (t : Bool) (fl : Nat) (s : State) : State := (annul k t (advance s)).raise fl

theorem annul_th {s : State} (h : s.thr.isSome = true) (k : Nat) (t : Bool) :
    (annul k t s).th = { s.th with skip := if t then s.th.skip else k + 1 } := by
  cases t
  · exact modT_th h _
  · rfl

@[simp] theorem annul_isSome (k : Nat) (t : Bool) (s : State) : (annul k t s).thr.isSome = s.thr.isSome := by
  cases t
  · exact modT_isSome s _
  · rfl

@[simp] theorem annul_mem (k : Nat) (t : Bool) (s : State) : (annul k t s).mem = s.mem := by cases t <;> rfl

@[simp] theorem annul_trap (k : Nat) (t : Bool) (s : State) : (annul k t s).trap = s.trap := by cases t <;> rfl

theorem raise_th {s : State} (h : s.thr.isSome = true) (fl : Nat) : (s.raise fl).th = { s.th with fcsr := s.th.fcsr ||| wd (fl % 32) } := by
  unfold State.raise
  split
  case isTrue h0 => simp [h0, wd]
  case isFalse => exact modT_th h _

@[simp] theorem raise_trap (s : State) (fl : Nat) : (s.raise fl).trap = s.trap := by unfold State.raise; split <;> rfl

theorem compared_th {s : State} (h : s.thr.isSome = true) (h0 : s.ph = 0) (k : Nat) (t : Bool) (fl : Nat) :
    (compared k t fl s).th = { endTest s.th with skip := if t then s.th.skip else k + 1, fcsr := s.th.fcsr ||| wd (fl % 32) } := by
  have hadv : (advance s).thr.isSome = true := by rw [advance_lone h0, modT_isSome, h]
  rw [compared, raise_th (by rw [annul_isSome, hadv]), annul_th hadv, advance_th h0 h, endTest_skip, endTest_fcsr]

@[simp] theorem compared_mem (k : Nat) (t : Bool) (fl : Nat) (s : State) : (compared k t fl s).mem = s.mem := by simp [compared]

@[simp] theorem compared_trap (k : Nat) (t : Bool) (fl : Nat) (s : State) : (compared k t fl s).trap = s.trap := by simp [compared]

/-! ### The conditions of CMP.W -/

/-- The low half of a word. -/
def lowHalf (x : Word) : BitVec 32 := BitVec.ofNat 32 (x.toNat % 2 ^ 32)

theorem lowHalf_toNat (x : Word) : (lowHalf x).toNat = x.toNat % 2 ^ 32 := by simp [lowHalf]

/-- For LTU and GEU the operand has the unsigned number of the low half. -/
theorem cmpWord_unsigned {c : Nat} (hc : c = 4 ∨ c = 5) (x : Word) : (cmpWord c x).toNat = (lowHalf x).toNat := by
  rw [cmpWord, if_pos hc, toNat_wd_of_lt (by omega), lowHalf_toNat]

/-- For the others it is the low half sign-extended. -/
theorem cmpWord_signed {c : Nat} (hc : ¬(c = 4 ∨ c = 5)) (x : Word) : cmpWord c x = (lowHalf x).signExtend 64 := by
  have hlow : BitVec.ofNat 32 x.toNat = lowHalf x := BitVec.eq_of_toNat_eq (by rw [lowHalf_toNat, BitVec.toNat_ofNat])
  rw [cmpWord, if_neg hc, sext_eq_ofInt, hlow, BitVec.signExtend]

/-- An unsigned order does not depend on the signed numbers. -/
theorem holds_unsigned {c : Nat} (hc : c = 4 ∨ c = 5) (m n : Nat) (i j i' j' : Int) : Rules.holds c m n i j = Rules.holds c m n i' j' := by
  rcases hc with rfl | rfl <;> rfl

/-- Any other condition on the sign-extended halves is that on the halves. -/
theorem holds_signExtend {c : Nat} (hc : ¬(c = 4 ∨ c = 5)) (x y : BitVec 32) :
    Rules.holds c (x.signExtend 64).toNat (y.signExtend 64).toNat (x.signExtend 64).toInt (y.signExtend 64).toInt =
      Rules.holds c x.toNat y.toNat x.toInt y.toInt := by
  have hint : ∀ z : BitVec 32, (z.signExtend 64).toInt = z.toInt := fun z => BitVec.toInt_signExtend_of_le (by decide)
  have hinj : ∀ u v : BitVec 32, u.signExtend 64 = v.signExtend 64 ↔ u = v := fun u v => by
    rw [← BitVec.toInt_inj, hint, hint, BitVec.toInt_inj]
  have heq : (x.signExtend 64).toNat = (y.signExtend 64).toNat ↔ x.toNat = y.toNat := by
    rw [BitVec.toNat_inj, hinj, BitVec.toNat_inj]
  have hand : (x.signExtend 64).toNat &&& (y.signExtend 64).toNat = 0 ↔ x.toNat &&& y.toNat = 0 := by
    rw [← BitVec.toNat_and, ← BitVec.toNat_and, ← BitVec.signExtend_and]
    exact (BitVec.toNat_inj (y := 0)).trans ((hinj (x &&& y) 0).trans (BitVec.toNat_inj (y := 0)).symm)
  match c, hc with
  | 0, _ | 1, _ | 2, _ | 3, _ | 6, _ | _ + 7, _ => simp only [Rules.holds, hint, heq, hand, ne_eq]
  | 4, hc => exact absurd (.inl rfl) hc
  | 5, hc => exact absurd (.inr rfl) hc

theorem condition_cmpWord (c : Nat) (x y : Word) : condition c (cmpWord c x) (cmpWord c y) =
    Rules.holds c (x.toNat % 2 ^ 32) (y.toNat % 2 ^ 32) (lowHalf x).toInt (lowHalf y).toInt := by
  rw [condition_eq_holds, ← lowHalf_toNat, ← lowHalf_toNat]
  by_cases hc : c = 4 ∨ c = 5
  · rw [cmpWord_unsigned hc, cmpWord_unsigned hc]
    exact holds_unsigned hc ..
  · rw [cmpWord_signed hc, cmpWord_signed hc]
    exact holds_signExtend hc (lowHalf x) (lowHalf y)

/-! ### O21 -/

/-- A word is a whole FP64 operand. -/
theorem rdF_fp64 (s : State) (n : Nat) : s.rdF fp64 n = (s.rd n).toNat := Nat.mod_eq_of_lt (s.rd n).isLt

/-- The compares, with their bundles to annul, their condition and their flags (R291, R307). -/
def ComparesWith (i : Instr) (s : State) (k : Nat) (b : Bool) (fl : Nat) : Prop :=
  Rules.compare i s.rd s.cmpRhs = some (k, b) ∧ fl = 0 ∨
    (∃ c x y, i = .fcmpD (k - 1) c x y ∧ 0 < k ∧ (b, fl) = fpCmp fp64 c (s.rd x).toNat (s.rd y).toNat) ∨
    (∃ c x y, i = .fcmpS (k - 1) c x y ∧ 0 < k ∧ (b, fl) = fpCmp fp32 c ((s.rd x).toNat % 2 ^ 32) ((s.rd y).toNat % 2 ^ 32))

/-- What CMP and CMP.W do when they issue. -/
theorem exec_compare {i : Instr} {s : State} {k : Nat} {b : Bool} (h : Rules.compare i s.rd s.cmpRhs = some (k, b)) :
    ∃ n body, k = n + 1 ∧ exec i s = issue i s body ∧ body (start s) = compared n b 0 (start s) := by
  cases i <;> cases h
  case cmp n c a r => exact ⟨n, _, rfl, rfl, congrArg (annul n · _) (condition_eq_holds c (s.rd a) (s.cmpRhs r))⟩
  case cmpW n c a r => exact ⟨n, _, rfl, rfl, congrArg (annul n · _) (condition_cmpWord c (s.rd a) (s.cmpRhs r))⟩

/-- What any compare does when it issues. -/
theorem exec_comparesWith {i : Instr} {s : State} {k : Nat} {b : Bool} {fl : Nat} (h : ComparesWith i s k b fl) :
    ∃ n body, k = n + 1 ∧ exec i s = issue i s body ∧ body (start s) = compared n b fl (start s) := by
  obtain ⟨hcmp, rfl⟩ | ⟨c, x, y, rfl, hk, hcmp⟩ | ⟨c, x, y, rfl, hk, hcmp⟩ := h
  · exact exec_compare hcmp
  · rw [← rdF_fp64, ← rdF_fp64] at hcmp
    obtain ⟨rfl, rfl⟩ := Prod.mk.inj hcmp
    exact ⟨k - 1, _, (Nat.sub_add_cancel hk).symm, rfl, rfl⟩
  · obtain ⟨rfl, rfl⟩ := Prod.mk.inj hcmp
    exact ⟨k - 1, _, (Nat.sub_add_cancel hk).symm, rfl, rfl⟩

theorem compare_completes {i : Instr} {s : State} {k : Nat} {b : Bool} {fl : Nat} (ht : s.thr.isSome = true) (hissues : Issues i s)
    (h : ComparesWith i s k b fl) : ∃ t, Completes i s t ∧ t.th.pc = (endTest s.th).pc ∧ t.th.skip = (if b then s.th.skip else k) ∧
      t.th.g = s.th.g ∧ t.th.fcsr = s.th.fcsr ||| wd (fl % 32) ∧ t.mem = s.mem := by
  obtain ⟨n, body, rfl, hexec, hbody⟩ := exec_comparesWith h
  have ⟨h0, _, hready, _⟩ := hissues
  have hth := compared_th (s := start s) ht h0 n b fl
  refine ⟨_, hexec.trans (Completion.issue_completes hissues hbody (compared_trap n b fl _) ?_), ?_⟩
  · rw [hth]
    exact (endTest_st _).trans hready
  · rw [hth]
    exact ⟨rfl, rfl, endTest_g _, rfl, compared_mem n b fl _⟩

/-- Settles O21: a compare that issues leaves `compared`, an annulled bundle is passed by `passSkip_succ`, and a trap's entry drops the
window. -/
theorem compares : Obligations.Compares := by
  unfold Obligations.Compares
  refine ⟨fun s n g ca _ hskip hfetch => ⟨passSkip_succ hskip hfetch, fun c hh he hg => takeTrap_skip c hh he hg⟩, ?_⟩
  intro i s k b fl ht hissues _ h
  exact compare_completes ht hissues h

end Sys2Proof.Laws.Compares
end

section
/-! O14: the end test of the hardware loops (R326): what it gives in each of its cases, which bundles make it, and which send control
elsewhere without it. -/

namespace Sys2Proof.Laws.LoopEnds

open Machine

/-! ### STATUS.LA -/

/-- A write of one loop's bit of STATUS.LA sets that bit and keeps the other (Table 11.1). -/
theorem la_setLa {j k : Nat} (hj : j < 2) (hk : k < 2) (t : Thread) (v : Nat) :
    (t.setLa k v).la j = if j = k then decide (v % 2 = 1) else t.la j := by
  have hstatus := t.status.isLt
  simp only [Thread.la, Thread.setLa, bits, setBits, BitVec.toNat_ofNat]
  split
  case isTrue hjk =>
    refine decide_eq_decide.2 ?_
    obtain ⟨rfl, rfl⟩ | ⟨rfl, rfl⟩ : (j = 0 ∧ k = 0) ∨ (j = 1 ∧ k = 1) := by omega
    · omega
    · omega
  case isFalse hjk =>
    refine decide_eq_decide.2 ?_
    obtain ⟨rfl, rfl⟩ | ⟨rfl, rfl⟩ : (j = 0 ∧ k = 1) ∨ (j = 1 ∧ k = 0) := by omega
    · omega
    · omega

@[simp] theorem la_one_setLa_zero (t : Thread) (v : Nat) : (t.setLa 0 v).la 1 = t.la 1 := la_setLa (by decide) (by decide) t v

@[simp] theorem la_zero_setLa_one (t : Thread) (v : Nat) : (t.setLa 1 v).la 0 = t.la 0 := la_setLa (by decide) (by decide) t v

/-- An ended loop is not active. -/
theorem la_setLa_end {k : Nat} (hk : k < 2) (t : Thread) : (t.setLa k 0).la k = false :=
  (la_setLa hk hk t 0).trans (if_pos rfl)

/-! ### The end test, field by field (R326) -/

/-- The bundle at pc ends a pass of loop 0 that is not the last. -/
abbrev Round0 (t : Thread) : Prop := t.la 0 = true ∧ t.pc = t.le0 ∧ 1 < t.lc0.toNat

/-- The bundle at pc ends a pass of loop 1 that is not the last. -/
abbrev Round1 (t : Thread) : Prop := t.la 1 = true ∧ t.pc = t.le1 ∧ 1 < t.lc1.toNat

/-- What the end test of loop 1 leaves where loop 1 does not go round. -/
def leave1 (t : Thread) : Thread := if t.la 1 = true ∧ t.pc = t.le1 then t.setLa 1 0 else t

theorem endTest_round1 {t : Thread} (h : Round1 t) : endTest t = { t with lc1 := t.lc1 - 1, pc := t.ls1 } := by
  obtain ⟨hla, hpc, hlc⟩ := h
  rw [endTest, if_pos ⟨hla, hpc⟩, if_pos hlc]

/-- Loop 0 is tested only where loop 1 does not go round. -/
theorem endTest_of_not_round1 {t : Thread} (h : ¬Round1 t) : endTest t = endTest0 (leave1 t) := by
  unfold endTest leave1
  split
  case isTrue h1 =>
    obtain ⟨hla, hpc⟩ := h1
    exact if_neg fun hlc => h ⟨hla, hpc, hlc⟩
  case isFalse => rfl

/-- The end of loop 1 changes nothing but STATUS. -/
theorem leave1_cases (t : Thread) : ∃ st, leave1 t = { t with status := st } := by
  unfold leave1
  split <;> exact ⟨_, rfl⟩

@[simp] theorem leave1_pc (t : Thread) : (leave1 t).pc = t.pc := by obtain ⟨_, h⟩ := leave1_cases t; rw [h]
@[simp] theorem leave1_ls0 (t : Thread) : (leave1 t).ls0 = t.ls0 := by obtain ⟨_, h⟩ := leave1_cases t; rw [h]
@[simp] theorem leave1_le0 (t : Thread) : (leave1 t).le0 = t.le0 := by obtain ⟨_, h⟩ := leave1_cases t; rw [h]
@[simp] theorem leave1_lc0 (t : Thread) : (leave1 t).lc0 = t.lc0 := by obtain ⟨_, h⟩ := leave1_cases t; rw [h]
@[simp] theorem leave1_lc1 (t : Thread) : (leave1 t).lc1 = t.lc1 := by obtain ⟨_, h⟩ := leave1_cases t; rw [h]

@[simp] theorem leave1_la_zero (t : Thread) : (leave1 t).la 0 = t.la 0 := by
  unfold leave1
  split
  · exact la_zero_setLa_one t 0
  · rfl

theorem leave1_la_one (t : Thread) : (leave1 t).la 1 = (t.la 1 && decide (t.pc ≠ t.le1)) := by
  unfold leave1
  split
  case isTrue h => simp [la_setLa_end, h]
  case isFalse h => cases hla : t.la 1 <;> simp_all

theorem endTest0_pc (t : Thread) : (endTest0 t).pc = if Round0 t then t.ls0 else t.pc + 8 := by
  unfold endTest0
  split_ifs <;> simp_all

theorem endTest0_lc0 (t : Thread) : (endTest0 t).lc0 = if Round0 t then t.lc0 - 1 else t.lc0 := by
  unfold endTest0
  split_ifs <;> simp_all [Thread.setLa]

@[simp] theorem endTest0_lc1 (t : Thread) : (endTest0 t).lc1 = t.lc1 := by
  unfold endTest0
  split_ifs <;> rfl

theorem endTest0_la_zero (t : Thread) : (endTest0 t).la 0 = (t.la 0 && !decide (t.pc = t.le0 ∧ t.lc0.toNat ≤ 1)) := by
  unfold endTest0
  split
  case isTrue h =>
    split
    case isTrue hlc =>
      change t.la 0 = _
      simp [h, hlc]
    case isFalse hlc =>
      refine (la_setLa_end (by decide) t).trans ?_
      simpa [h] using hlc
  case isFalse h =>
    change t.la 0 = _
    cases hla : t.la 0 <;> simp_all

@[simp] theorem endTest0_la_one (t : Thread) : (endTest0 t).la 1 = t.la 1 := by
  unfold endTest0
  split_ifs
  · rfl
  · exact la_one_setLa_zero t 0
  · rfl

theorem endTest_pc (t : Thread) : (endTest t).pc = if Round1 t then t.ls1 else if Round0 t then t.ls0 else t.pc + 8 := by
  split
  case isTrue h => rw [endTest_round1 h]
  case isFalse h => simp only [endTest_of_not_round1 h, endTest0_pc, Round0, leave1_la_zero, leave1_pc, leave1_le0, leave1_lc0, leave1_ls0]

theorem endTest_lc1 (t : Thread) : (endTest t).lc1 = if Round1 t then t.lc1 - 1 else t.lc1 := by
  split
  case isTrue h => rw [endTest_round1 h]
  case isFalse h => simp [endTest_of_not_round1 h]

theorem endTest_lc0 (t : Thread) : (endTest t).lc0 = if ¬Round1 t ∧ Round0 t then t.lc0 - 1 else t.lc0 := by
  by_cases h : Round1 t
  · rw [if_neg fun ⟨hn, _⟩ => hn h, endTest_round1 h]
  · simp only [endTest_of_not_round1 h, endTest0_lc0, Round0, leave1_la_zero, leave1_pc, leave1_le0, leave1_lc0, h, not_false_eq_true, true_and]

theorem endTest_la_one (t : Thread) : (endTest t).la 1 = (t.la 1 && !decide (t.pc = t.le1 ∧ t.lc1.toNat ≤ 1)) := by
  by_cases h : Round1 t
  · rw [endTest_round1 h]
    change t.la 1 = _
    simp [h]
  · rw [endTest_of_not_round1 h, endTest0_la_one, leave1_la_one]
    cases hla : t.la 1
    · rfl
    · simpa using fun hlc hpc => h ⟨hla, hpc, hlc⟩

theorem endTest_la_zero {t : Thread} (h : ¬Round1 t) : (endTest t).la 0 = (t.la 0 && !decide (t.pc = t.le0 ∧ t.lc0.toNat ≤ 1)) := by
  rw [endTest_of_not_round1 h, endTest0_la_zero, leave1_la_zero, leave1_pc, leave1_le0, leave1_lc0]

/-! ### The bundles that send control elsewhere (R285) -/

/-- Leaving loops changes nothing but STATUS. -/
theorem leaveLoops_cases (t : Thread) (v : Word) : ∃ st, leaveLoops t v = { t with status := st } := by
  unfold leaveLoops Thread.setLa
  dsimp only
  split_ifs <;> exact ⟨_, rfl⟩

/-- A jump changes pc and STATUS of its thread. -/
theorem jumpTo_th_cases {s : State} (h : s.thr.isSome = true) (v : Word) : ∃ st, (jumpTo v s).th = { s.th with pc := v, status := st } := by
  obtain ⟨st, hst⟩ := leaveLoops_cases s.th v
  exact ⟨st, by rw [jumpTo_th h, hst]⟩

/-- A taken branch or jump completes at its target, the counts as they were when it jumped. -/
theorem jump_completes {i : Instr} {s u : State} {v : Word} {body : State → State} (h : Issues i s) (hbody : body (start s) = jumpTo v u)
    (ht : u.thr.isSome = true) (htrap : u.trap = none) (hst : u.th.st = .ready) :
    ∃ t, issue i s body = .next (popPorts (s.ports i) t) ∧ t.th.pc = v ∧ t.th.lc0 = u.th.lc0 ∧ t.th.lc1 = u.th.lc1 := by
  obtain ⟨st, hth⟩ := jumpTo_th_cases ht v
  exact ⟨jumpTo v u, Completion.issue_completes h hbody htrap (by rw [hth]; exact hst), by rw [hth], by rw [hth], by rw [hth]⟩

/-- An instruction with no register field reads no loop port. -/
theorem popPorts_no_fields {i : Instr} (h : i.fields = []) (s t : State) : popPorts (s.ports i) t = t := by
  have hports : s.ports i = [] := by rw [State.ports, h, ite_self]
  exact popPorts_none (by simp [hports]) t

/-- A write of a general register changes no more of its thread than its registers. -/
theorem wr_gpr_th {s : State} {n : Nat} (hn : n < 112) (ht : s.thr.isSome = true) (v : Word) :
    (s.wr n v).thr.isSome = true ∧ ∃ g, (s.wr n v).th = { s.th with g := g } := by
  unfold State.wr
  split_ifs
  · exact ⟨ht, s.th.g, rfl⟩
  · exact ⟨(modT_isSome s _).trans ht, _, modT_th ht _⟩

theorem br_completes {s : State} (ht : s.thr.isSome = true) (o : Nat) (h : Issues (.br o) s) :
    ∃ t, exec (.br o) s = .next t ∧ t.th.pc = s.th.pc + 8 * sext o 24 ∧ t.th.lc0 = s.th.lc0 ∧ t.th.lc1 = s.th.lc1 := by
  have ⟨_, _, hready, _⟩ := h
  obtain ⟨t, hexec, hth⟩ := jump_completes (body := fun s => jumpTo (s.th.pc + 8 * sext o 24) s) h rfl ht rfl hready
  exact ⟨t, hexec.trans (by rw [popPorts_no_fields rfl]), hth⟩

theorem brl_completes {s : State} (ht : s.thr.isSome = true) (o : Nat) (h : Issues (.brl o) s) :
    ∃ t, exec (.brl o) s = .next t ∧ t.th.pc = s.th.pc + 8 * sext o 24 ∧ t.th.lc0 = s.th.lc0 ∧ t.th.lc1 = s.th.lc1 := by
  have ⟨_, _, hready, _⟩ := h
  obtain ⟨hsome, g, hg⟩ := wr_gpr_th (s := start s) (n := 1) (by decide) ht (s.th.pc + 8)
  obtain ⟨t, hexec, hpc, hlc0, hlc1⟩ := jump_completes (body := fun s => jumpTo (s.th.pc + 8 * sext o 24) (s.wr 1 (s.th.pc + 8))) h rfl hsome
    (Completion.wr_trap ..) ((Completion.wr_st ..).trans hready)
  exact ⟨t, hexec.trans (by rw [popPorts_no_fields rfl]), hpc, by rw [hlc0, start_th, hg, start_th], by rw [hlc1, start_th, hg, start_th]⟩

theorem jmpl_completes {s : State} (ht : s.thr.isSome = true) (a : Nat) (h : Issues (.jmpl 112 a) s) (halign : (s.rd a).toNat % 8 = 0) :
    ∃ t, Completes (.jmpl 112 a) s t ∧ t.th.pc = s.rd a ∧ t.th.lc0 = s.th.lc0 ∧ t.th.lc1 = s.th.lc1 := by
  have ⟨_, _, hready, _⟩ := h
  have hlink : (start s).wr 112 (s.th.pc + 8) = start s := wr_discard (.inl rfl) _
  exact jump_completes (u := start s) h ((if_neg fun hne => hne halign).trans (congrArg (jumpTo (s.rd a)) hlink)) ht rfl hready

theorem eret_completes {s : State} (ht : s.thr.isSome = true) (h : Issues .eret s) :
    ∃ t, exec .eret s = .next t ∧ t.th.pc = s.th.epc ∧ t.th.lc0 = s.th.lc0 ∧ t.th.lc1 = s.th.lc1 := by
  have ⟨_, _, hready, _⟩ := h
  have hth := returnTrap_th (s := start s) ht
  have hexec : exec .eret s = .next (popPorts (s.ports .eret) (returnTrap (start s))) :=
    Completion.issue_completes h rfl rfl (by rw [hth]; exact hready)
  exact ⟨_, hexec.trans (by rw [popPorts_no_fields rfl]), by rw [hth]; exact ⟨rfl, rfl, rfl⟩⟩

/-! ### LSETUP (R325) -/

/-- The thread with the registers of loop `p` set. -/
def setLoop (p : Nat) (ls le : Word) (count : Nat) (t : Thread) : Thread :=
  if p = 0 then { t with ls0 := ls, le0 := le, lc0 := wd count } else { t with ls1 := ls, le1 := le, lc1 := wd count }

/-- LSETUP names a loop that is not active (R327). -/
theorem la_of_loopClash {t : Thread} {p : Nat} {ls le : Word} (h : loopClash t p ls le = false) : t.la p = false := by
  unfold loopClash at h
  exact (Bool.or_eq_false_iff.1 h).1

/-- Setting up a loop that is not active changes nothing that the end test reads of the bundle and of the other loop. -/
theorem endTest_setLoop {p count : Nat} {ls le : Word} {t : Thread} (hp : p < 2) (hla : t.la p = false) :
    (endTest ((setLoop p ls le count t).setLa p 0)).pc = (endTest t).pc ∧
      (p = 0 → (endTest ((setLoop p ls le count t).setLa p 0)).lc1 = (endTest t).lc1) ∧
      (p = 1 → (endTest ((setLoop p ls le count t).setLa p 0)).lc0 = (endTest t).lc0) := by
  obtain rfl | rfl : p = 0 ∨ p = 1 := by omega
  · have h0 : ((setLoop 0 ls le count t).setLa 0 0).la 0 = false := la_setLa_end (by decide) _
    have h1 : ((setLoop 0 ls le count t).setLa 0 0).la 1 = t.la 1 := la_one_setLa_zero _ 0
    have hround : Round1 ((setLoop 0 ls le count t).setLa 0 0) ↔ Round1 t := by rw [Round1, h1]; rfl
    refine ⟨?_, fun _ => ?_, nofun⟩
    · simp only [endTest_pc, hround, Round0, h0, hla]
      rfl
    · simp only [endTest_lc1, hround]
      rfl
  · have h1 : ((setLoop 1 ls le count t).setLa 1 0).la 1 = false := la_setLa_end (by decide) _
    have h0 : ((setLoop 1 ls le count t).setLa 1 0).la 0 = t.la 0 := la_zero_setLa_one _ 0
    have hround : Round0 ((setLoop 1 ls le count t).setLa 1 0) ↔ Round0 t := by rw [Round0, h0]; rfl
    refine ⟨?_, nofun, fun _ => ?_⟩
    · simp only [endTest_pc, hround, Round1, h1, hla]
      rfl
    · simp only [endTest_lc0, hround, Round1, h1, hla, Bool.false_eq_true, false_and, not_false_eq_true, true_and]
      rfl

theorem setLoop_st (p : Nat) (ls le : Word) (count : Nat) (t : Thread) : (setLoop p ls le count t).st = t.st := by
  unfold setLoop
  split <;> rfl

/-- Setting up one loop keeps the count of the other. -/
theorem setLoop_other (p : Nat) (ls le : Word) (count : Nat) (t : Thread) :
    (p = 0 → (setLoop p ls le count t).lc1 = t.lc1) ∧ (p = 1 → (setLoop p ls le count t).lc0 = t.lc0) :=
  ⟨by rintro rfl; rfl, by rintro rfl; rfl⟩

section
variable {i : Instr} {p len count : Nat} {s : State} {body : State → State} (ht : s.thr.isSome = true)
  (hclash : loopClash s.th p (s.th.pc + 8) (s.th.pc + 8 + 8 * wd len) = false)
include ht hclash

theorem lsetup_zero : (lsetup p 0 len s).trap = s.trap ∧ (lsetup p 0 len s).th =
    { (setLoop p (s.th.pc + 8) (s.th.pc + 8 + 8 * wd len) 0 s.th).setLa p 0 with pc := s.th.pc + 8 + 8 * wd len + 8 } := by
  have hset : (s.modT (setLoop p (s.th.pc + 8) (s.th.pc + 8 + 8 * wd len) 0)).thr.isSome = true := (modT_isSome s _).trans ht
  have heq : lsetup p 0 len s = (s.modT (setLoop p (s.th.pc + 8) (s.th.pc + 8 + 8 * wd len) 0)).modT
      (fun t => { t.setLa p 0 with pc := s.th.pc + 8 + 8 * wd len + 8 }) :=
    (if_neg (by rw [hclash]; decide)).trans (if_pos rfl)
  rw [heq, modT_th hset, modT_th ht]
  exact ⟨rfl, rfl⟩

theorem lsetup_nonzero (hcount : count ≠ 0) (h0 : s.ph = 0) : (lsetup p count len s).trap = s.trap ∧ (lsetup p count len s).th =
    (endTest ((setLoop p (s.th.pc + 8) (s.th.pc + 8 + 8 * wd len) count s.th).setLa p 0)).setLa p 1 := by
  have hset : (s.modT (setLoop p (s.th.pc + 8) (s.th.pc + 8 + 8 * wd len) count)).thr.isSome = true := (modT_isSome s _).trans ht
  have heq : lsetup p count len s = (s.modT (setLoop p (s.th.pc + 8) (s.th.pc + 8 + 8 * wd len) count)).modT
      (fun t => (endTest (t.setLa p 0)).setLa p 1) :=
    (if_neg (by rw [hclash]; decide)).trans ((if_neg hcount).trans (if_pos h0))
  rw [heq, modT_th hset, modT_th ht]
  exact ⟨rfl, rfl⟩

/-- With count 0 control goes past the loop's own body. -/
theorem lsetup_zero_completes (h : Issues i s) (hbody : body (start s) = lsetup p 0 len (start s)) :
    ∃ t, issue i s body = .next (popPorts (s.ports i) t) ∧ t.th.pc = s.th.pc + 8 + 8 * wd len + 8 ∧
      (p = 0 → t.th.lc1 = s.th.lc1) ∧ (p = 1 → t.th.lc0 = s.th.lc0) := by
  have ⟨_, _, hready, _⟩ := h
  obtain ⟨htrap, hth⟩ := lsetup_zero (s := start s) ht hclash
  refine ⟨_, Completion.issue_completes h hbody htrap ?_, ?_⟩ <;> rw [hth]
  · exact (setLoop_st ..).trans hready
  · exact ⟨rfl, setLoop_other ..⟩

/-- With another count the end test is made, as it would be without the new loop. -/
theorem lsetup_nonzero_completes (h : Issues i s) (hp : p < 2) (hcount : count ≠ 0)
    (hbody : body (start s) = lsetup p count len (start s)) :
    ∃ t, issue i s body = .next (popPorts (s.ports i) t) ∧ t.th.pc = (endTest s.th).pc ∧
      (p = 0 → t.th.lc1 = (endTest s.th).lc1) ∧ (p = 1 → t.th.lc0 = (endTest s.th).lc0) := by
  have ⟨h0, _, hready, _⟩ := h
  obtain ⟨htrap, hth⟩ := lsetup_nonzero (s := start s) ht hclash hcount h0
  refine ⟨_, Completion.issue_completes h hbody htrap ?_, ?_⟩ <;> rw [hth]
  · exact (endTest_st _).trans ((setLoop_st ..).trans hready)
  · exact endTest_setLoop hp (la_of_loopClash hclash)

end

/-! ### O14 -/

theorem nop_completes {s : State} (ht : s.thr.isSome = true) (h : Issues .nop s) : ∃ t, exec .nop s = .next t ∧ t.th = endTest s.th := by
  have ⟨h0, _, hready, _⟩ := h
  have hexec : exec .nop s = .next (popPorts (s.ports .nop) (advance (start s))) :=
    Completion.issue_completes h rfl (advance_trap _) ((Completion.advance_st _).trans hready)
  exact ⟨advance (start s), hexec.trans (by rw [popPorts_no_fields rfl]), advance_th (s := start s) h0 ht⟩

/-- An annulled bundle makes the end test too (R55, R292). -/
theorem passSkip_one {s : State} {n g : Nat} {ca : Bool} (hskip : s.th.skip = n + 1) (hfetch : s.fetch = .ok g ca) :
    passSkip 1 s = (s.fetched g).modT (fun t => { endTest t with skip := n }) := by
  rw [passSkip, if_neg (by omega), hfetch]
  exact Compares.modT_congr (by rw [Compares.fetched_th, hskip, Nat.add_sub_cancel])

/-- Settles O14: a bundle that only advances makes the end test, whose fields the equations above give; a jump goes by `jump_completes`,
and LSETUP by `lsetup_zero_completes` or `lsetup_nonzero_completes`. -/
theorem loopEndTest : Obligations.LoopEndTest := by
  unfold Obligations.LoopEndTest
  constructor
  · intro s ht
    refine ⟨nop_completes ht, fun n g ca => passSkip_one, br_completes ht, brl_completes ht, jmpl_completes ht, eret_completes ht, ?_, ?_⟩
    · intro i p r len hi hzero _ h hclash
      obtain rfl | ⟨rfl, -⟩ := hi
      · exact lsetup_zero_completes ht hclash h (congrArg (fun c : Word => lsetup p c.toNat len (start s)) hzero)
      · exact lsetup_zero_completes ht hclash h rfl
    · intro p r len hne hp h hclash
      exact lsetup_nonzero_completes ht hclash h hp (fun hc => hne (BitVec.eq_of_toNat_eq hc)) rfl
  · intro t
    refine ⟨?_, ?_, ?_, ?_, ?_, ?_, endTest_g t, endTest_fcsr t⟩
    · intro hla hpc hlc
      rw [endTest_round1 ⟨hla, hpc, hlc⟩]
      exact ⟨rfl, rfl, rfl, rfl⟩
    · intro hla hpc hlc
      rw [endTest_lc1, endTest_la_one]
      simp [hpc, hlc]
    · intro hno
      rw [endTest_lc1, endTest_la_one]
      rcases hno with hno | hno <;> simp [hno]
    · intro hn hla hpc hlc
      rw [endTest_pc, endTest_lc0, endTest_la_zero hn]
      simp [hn, hla, hpc, hlc]
    · intro hn hla hpc hlc
      rw [endTest_pc, endTest_lc0, endTest_la_zero hn]
      simp [hn, hla, hpc, hlc]
    · intro hn hno
      rw [endTest_pc, endTest_lc0, endTest_la_zero hn]
      rcases hno with hno | hno <;> simp [hn, hno]

end Sys2Proof.Laws.LoopEnds
end
